-- ==== Sys2Proof/Word.lean ====
section
/-!
DEFINITION. The word types of the Goluef package and the one sparse container the state is made of.

Rule numbers R<n> name the numbered rules of spec/.
-/

namespace Sys2Proof

/-- A byte (R4). -/
abbrev Byte := BitVec 8
/-- A 32-bit lane word, x register or slot word (R16, R133). -/
abbrev Word := BitVec 32
/-- A 64-bit scalar register, flag or special register (R15, R187). -/
abbrev DWord := BitVec 64
/-- A capability: 128 bits (R433). -/
abbrev Cap := BitVec 128
/-- One 128-byte bank row, or one 1024-bit predicate register (R16, R89). -/
abbrev Row := BitVec 1024
/-- 1024 lanes of 32 bits: a vector register, a wall line, an accumulator tile or a macro (R16, R7, R110). -/
abbrev Lanes := BitVec 32768

/-- A sparse table: pairs of a key and a value, keys strictly rising, no entry equal to what an
absent key reads as. Every part of the machine that has many like pieces is one. -/
abbrev Map (α : Type) := List (Nat × α)

end Sys2Proof
end

