-- ==== Sys2Proof/Config.lean ====
section
/-!
DEFINITION. What one part fixes (the signed configuration record, R475) and the values the manual leaves
open. A free value is an `opaque` constant with no body: nothing can be proved of it.
-/

namespace Sys2Proof

/-- The software-visible fields of the signed configuration record (R475), plain data. -/
structure ConfigRecord where
  /-- VERSION, compared with the fused rollback count (R476). -/
  version : BitVec 32
  /-- SPARE: the failed physical layer of each tower (R14). -/
  spare0  : Option (BitVec 3)
  spare1  : Option (BitVec 3)
  /-- COILS: (tower·64 + column, failed channel, replacing spare channel) (R487). -/
  coils   : List (Nat × Nat × Nat)
  /-- CMASKF: failed cells of layer key 8·tower + layer, one bit a cell (R31). -/
  cmaskf  : Map (BitVec 64)
  /-- BIN: core clock in MHz (R492). -/
  bin     : Nat
  /-- HMASK0–HMASK8 (R449). -/
  hmask   : Map (BitVec 40)
  /-- HRET (R450). -/
  hret    : BitVec 10
  /-- OTBASE bits 39:20 (R437). -/
  otbase  : BitVec 20
  /-- DSPLIT reset value of each tower (R415). -/
  dsplit  : BitVec 7
  /-- The record's own slot owner table; `none` is the default of R471. -/
  sot     : Option (Map (BitVec 4))
  /-- IMGPOL: every task image is signed (R382). -/
  imgpol  : Bool
  /-- SUPHASH (R477). -/
  suphash : BitVec 384
  /-- The identity the fabric manager binds to the package: its number within the domain, the domain's number (R142), and the
  substitution count (R463). DESIGN CHOICE: notes/assumptions/40.md. -/
  pkg     : BitVec 8
  dom     : BitVec 6
  count   : BitVec 32
  deriving DecidableEq, Repr

namespace Config

/-- FREE VALUE. The n-th choice the manual leaves open between allowed orders or durations (R125, R356,
R499): whether a pending access takes place now or later. See notes/assumptions/2.md. -/
opaque freeChoice : Nat → Bool

/-- FREE VALUES. The published signature checks of R472, which the manual names and does not restate: whether a signature of
a message verifies under the key pairs that a hash names. See notes/assumptions/3.md. -/
opaque ed25519Verifies : BitVec 256 → List Byte → List Byte → Bool
opaque mldsa65Verifies : BitVec 256 → List Byte → List Byte → Bool

/-- FREE VALUES. The seed of each base die's unclonable function, the public keys that a seed yields, their hash, and the
signatures made with the private keys (R474). See notes/assumptions/3.md. -/
opaque pufSeed : Nat → BitVec 256
opaque ed25519Public : BitVec 256 → List Byte
opaque mldsa65Public : BitVec 256 → List Byte
opaque keyPairHash : List Byte → List Byte → BitVec 256
opaque ed25519Sign : BitVec 256 → List Byte → List Byte
opaque mldsa65Sign : BitVec 256 → List Byte → List Byte

/-- FREE VALUES. The decryption of KCAP under the identity key: what is taken off the sealed value, and its tag (R473). -/
opaque kcapMask : BitVec 256 → BitVec 128
opaque kcapTag : BitVec 256 → BitVec 128 → BitVec 128

/-- FREE VALUES. AES-256-GCM (R461), named by the manual and not restated: the key stream of a key and an IV, and the tag over
the header and the payload. See notes/assumptions/3.md. -/
opaque gcmStream : BitVec 256 → BitVec 96 → Nat → Byte
opaque gcmTag : BitVec 256 → BitVec 96 → List Byte → List Byte → BitVec 128

/-- FREE VALUE. The direction bit of the flits that a link of a tower sends (R461). See notes/assumptions/26.md. -/
opaque ivDirection : Nat → Nat → Bool

/-- FREE VALUE. Ticks between two corrections of the locked counter, for an offset in sixteenths; never under 4096 (R469).
See notes/assumptions/27.md. -/
opaque slewTicks : Int → Nat

/-- FREE VALUE. SHA-384 (R475, R477, R478), named by the manual and not restated. See notes/assumptions/3.md. -/
opaque sha384 : List Byte → BitVec 384

/-- FREE VALUE. The image capability in the supervisor's g0 (R497), whose object the manual does not name. See
notes/assumptions/6.md. -/
opaque supImageCap : BitVec 128

/-- FREE VALUE. How the target of the n-th request to another package or a host window answers it (R447, R448): 0 as
asked, 1 return zero, 2 return poison, 3 kill; other values count as 0. See notes/assumptions/5.md. -/
opaque remoteOutcome : Nat → Nat

/-- FREE VALUE. The byte, from the first of a remote transfer on, whose page kills it (R447). See notes/assumptions/5.md. -/
opaque remoteOffset : Nat → Nat

/-- FREE VALUE. Byte b of the data that target returns. See notes/assumptions/5.md. -/
opaque remoteByte : Nat → Nat → Byte

end Config

end Sys2Proof
end

