-- ==== Sys2Proof/Syntax.lean ====
section
/-!
DEFINITION. The operations and events of the part: one constructor for each row of spec/opcode_table.json.

The first 190 are slot forms (R133 to R135), each with its operand fields as the encoding gives them. The next
ten are the matrix unit's micro-operations (R269). The rest are the part's other indivisible steps: register
writes with an effect of their own, internal events and inputs from outside. They have no slot encoding; their
operands name the place they act on (`lay` is 8·tower + logical layer) and carry what comes in from outside.
-/

namespace Sys2Proof

/-- A flit or packet of a SEND transfer (R453, R458). -/
structure Flit where
  /-- Flit sequence, key phase and late mark. -/
  q     : Nat
  phase : Bool
  late  : Bool
  /-- Destination object, offset, counter flag address, sender's ASID. -/
  obj   : BitVec 24
  off   : Nat
  ctr   : BitVec 21
  asid  : BitVec 12
  data  : List Byte
  /-- Last flit of its transfer; the transfer's source was poisoned (R502). -/
  last  : Bool
  pois  : Bool
  /-- Transfer number (R453). -/
  xfer  : Nat
  /-- Byte offset within the transfer, and the tag (R453). -/
  place : Nat := 0
  tag   : BitVec 128 := 0
  /-- Hops still to come, each a base die and its link or short port; the planned width; the source, 2·package + tower
  (R455, R459, R466). -/
  route : List (Nat × Nat) := []
  pw    : Nat := 0
  src   : Nat := 0
  deriving DecidableEq, Repr

/-- A pair of signatures and the index of the keys they were made with (R472). -/
structure Sigs where
  index : Nat
  ed    : List Byte
  ml    : List Byte
  deriving DecidableEq, Repr

/-- What proves an identity record: public keys, the certificate that binds them to a serial, and the record's signatures under
those keys (R463, R474). -/
structure IdentityProof where
  edKey  : List Byte
  mlKey  : List Byte
  serial : DWord
  cert   : Sigs
  ed     : List Byte
  ml     : List Byte
  deriving DecidableEq, Repr

/-- An identity record: node, substitution count and its proof (R463). -/
structure Identity extends IdentityProof where
  dom    : BitVec 6
  pkg    : BitVec 8
  count  : BitVec 32
  deriving DecidableEq, Repr

/-- An eyelet's word and its sender, as a PEER field names it (R198, R460). -/
structure EyeletWord where
  word : DWord
  src  : BitVec 16
  deriving DecidableEq, Repr

/-- The host's correction for a tower's oldest exchange record, in sixteenths of a tick (R416). -/
structure ServoReply where
  tower : Nat
  offset : Int
  deriving DecidableEq, Repr

/-- A supervisor image for a tower (R477). -/
structure SupImage where
  tower : Nat
  bytes : List Byte
  deriving DecidableEq, Repr

/-- A copy of the configuration record in flash: its fields, its bytes and their signatures (R475, R476). -/
structure RecordCopy where
  record : ConfigRecord
  bytes  : List Byte
  sigs   : Sigs
  deriving DecidableEq, Repr

/-- Package flash: the tower-controller firmware, the two copies of the configuration record, and the manufacturing
certificate (R473, R474, R476). -/
structure Flash where
  firmware : List Byte
  fwSigs : Sigs
  copy0  : Option RecordCopy
  copy1  : Option RecordCopy
  serial : DWord
  cert   : Sigs
  deriving DecidableEq, Repr

def Sigs.none : Sigs := { index := 4, ed := [], ml := [] }
def Flash.blank : Flash := { firmware := [], fwSigs := .none, copy0 := none, copy1 := none, serial := 0, cert := .none }

/-- KCAP encrypted to the identity key (R473). -/
structure SealedKey where
  body : BitVec 128
  tag  : BitVec 128
  deriving DecidableEq, Repr

/-- What a request from another package asks of this one's memory (R447): a load of a row, a store of one, CLD, CST, or the
lanes of an atomic: operation, type, CAS, whether values return, and (lane, offset, operand, comparand) of each. -/
inductive RemoteAsk where
  | load
  | store (data : Row)
  | cld
  | cst (v : Cap)
  | atomic (op ty : Nat) (cas returns : Bool) (lanes : List (Nat × Nat × Word × Word))
  deriving DecidableEq, Repr

inductive Instr where
  -- SYS, CL 0 (R207)
  | nop
  | tlaunch (g q : BitVec 4)
  | texit (a : BitVec 7)
  | yield
  | trap (code : BitVec 14)
  | eret (a : BitVec 7)
  | eretKill (a : BitVec 7)
  | mfsr (d : BitVec 7) (r : BitVec 12)
  | mtsr (a : BitVec 7) (r : BitVec 12)
  | lsleepDoze (n : BitVec 5) (a : BitVec 7)
  | lsleepOff (n : BitVec 5) (a : BitVec 7)
  | lwake (n : BitVec 5) (a : BitVec 7)
  | lstld (n : BitVec 3) (g : BitVec 4) (a b : BitVec 7)
  | mpsld (n : BitVec 3) (g : BitVec 4) (a b : BitVec 7)
  -- BCTL, CL 1 (R139)
  | bctl (ginv gen : Bool) (gp : BitVec 4) (gap : BitVec 7) (is : Bool) (fw iw : BitVec 2) (sway sealed : Bool)
  -- SALU, CL 2 (R156)
  | add (d a b : BitVec 7)
  | sub (d a b : BitVec 7)
  | and (d a b : BitVec 7)
  | or (d a b : BitVec 7)
  | xor (d a b : BitVec 7)
  | andn (d a b : BitVec 7)
  | shl (d a b : BitVec 7)
  | shr (d a b : BitVec 7)
  | sar (d a b : BitVec 7)
  | mul (d a b : BitVec 7)
  | mulh (d a b : BitVec 7)
  | mulhu (d a b : BitVec 7)
  | min (d a b : BitVec 7)
  | max (d a b : BitVec 7)
  | minu (d a b : BitVec 7)
  | maxu (d a b : BitVec 7)
  | seq (d a b : BitVec 7)
  | sne (d a b : BitVec 7)
  | slt (d a b : BitVec 7)
  | sltu (d a b : BitVec 7)
  | div (d a b : BitVec 7)
  | divu (d a b : BitVec 7)
  | rem (d a b : BitVec 7)
  | remu (d a b : BitVec 7)
  -- SIMM, CL 3 (R158)
  | addi (d : BitVec 7) (i : BitVec 14)
  | andi (d : BitVec 7) (i : BitVec 14)
  | ori (d : BitVec 7) (i : BitVec 14)
  | xori (d : BitVec 7) (i : BitVec 14)
  | shli (d : BitVec 7) (i : BitVec 14)
  | shri (d : BitVec 7) (i : BitVec 14)
  | sari (d : BitVec 7) (i : BitVec 14)
  | muli (d : BitVec 7) (i : BitVec 14)
  | mini (d : BitVec 7) (i : BitVec 14)
  | maxi (d : BitVec 7) (i : BitVec 14)
  | slti (d : BitVec 7) (i : BitVec 14)
  | seqi (d : BitVec 7) (i : BitVec 14)
  | li (d : BitVec 7) (i : BitVec 14)
  -- SMEM, CL 4 (R160)
  | ldd (d a b : BitVec 7)
  | ldw (d a b : BitVec 7)
  | ldwu (d a b : BitVec 7)
  | std (d a b : BitVec 7)
  | stw (d a b : BitVec 7)
  -- FLOW, CL 5 (R162 to R171)
  | bprepRelative (b : BitVec 2) (i : BitVec 14)
  | bprepRegister (b : BitVec 2) (a : BitVec 7)
  | bcmp (c : BitVec 4) (k : BitVec 3) (a b : BitVec 7)
  | bcmpi (c : BitVec 4) (k : BitVec 3) (a i : BitVec 7)
  | bxfer (b : BitVec 2) (alw neg : Bool) (k : BitVec 3)
  | call (d : BitVec 7) (b : BitVec 2)
  | ret (a : BitVec 7)
  | loopTable (lv : BitVec 2) (off : BitVec 14)
  | loopRegister (lv : BitVec 2) (sc : BitVec 4) (off : BitVec 14)
  | bpois (b : BitVec 2) (neg : Bool)
  -- VOTE, CL 6 (R176)
  | vany (k p : BitVec 7)
  | vall (k p : BitVec 7)
  | vcount (d p : BitVec 7)
  | pvote (k : BitVec 7)
  | pvoteClr (k : BitVec 7)
  -- SYNC, CL 7 (R193)
  | fladd (scope : BitVec 3) (g : BitVec 4) (a b : BitVec 7)
  | flset (scope : BitVec 3) (g : BitVec 4) (a b : BitVec 7)
  | flwait (cond : BitVec 2) (g : BitVec 4) (a b : BitVec 7)
  | cwait (n : BitVec 5) (thr : BitVec 14)
  | fence (scope : BitVec 3) (acq rel : Bool)
  -- LINK, CL 8 (R200)
  | epush (e : BitVec 4) (a : BitVec 7)
  | epop (d : BitVec 7) (e : BitVec 4)
  | send (bulk : Bool) (gd gs : BitVec 4) (a : BitVec 7)
  | realign (n : BitVec 5) (a : BitVec 7)
  -- CAP, CL 9 (R181)
  | cderive (d g a : BitVec 7)
  | cnarrow (d : BitVec 7) (hi : Bool) (g : BitVec 4) (m : BitVec 7)
  | cst (v b o : BitVec 7)
  | cld (n : BitVec 3) (d : BitVec 4) (b o : BitVec 7)
  | ccheck (g : BitVec 4) (k : BitVec 3) (o l : BitVec 7)
  -- XALU, CL 10 (R220)
  | xadd (d a b : BitVec 7)
  | xsub (d a b : BitVec 7)
  | xmul (d a b : BitVec 7)
  | xand (d a b : BitVec 7)
  | xior (d a b : BitVec 7)
  | xeor (d a b : BitVec 7)
  | xshl (d a b : BitVec 7)
  | xshr (d a b : BitVec 7)
  | xsar (d a b : BitVec 7)
  | xmin (d a b : BitVec 7)
  | xmax (d a b : BitVec 7)
  | xaddi (d : BitVec 7) (i : BitVec 14)
  | xli (d : BitVec 7) (i : BitVec 14)
  -- NET, CL 11 (R240, R244, R246, R247)
  | vld (d : BitVec 7) (le : BitVec 6) (em : BitVec 4) (xa : BitVec 3)
  | vldStraight (d : BitVec 7) (em : BitVec 4) (xa : BitVec 3)
  | vldDec (d : BitVec 7) (xa : BitVec 3)
  | vst (d : BitVec 7) (le : BitVec 6) (em : BitVec 4) (xa : BitVec 3)
  | vstStraight (d : BitVec 7) (em : BitVec 4) (xa : BitVec 3)
  | vstEnc (d : BitVec 7) (xa : BitVec 3)
  | vldx (d : BitVec 7) (xe : BitVec 5) (em : BitVec 4) (xa : BitVec 3)
  | vstx (d : BitVec 7) (xe : BitVec 5) (em : BitVec 4) (xa : BitVec 3)
  | bcopy (rstr : Bool) (rle : BitVec 6) (wstr : Bool) (wle : BitVec 6) (xd xs : BitVec 3)
  | vperm (d a : BitVec 7) (le : BitVec 6)
  | llast (le : BitVec 6) (n : BitVec 14)
  -- EDGE, CL 12 (R248, R249)
  | esend (dm : BitVec 4) (a : BitVec 7) (lg : BitVec 5)
  | erecv (d : BitVec 7) (dir : BitVec 2) (lg : BitVec 5)
  | halo (dm : BitVec 4) (xa : BitVec 3)
  -- VINT, CL 13 (R221 to R227)
  | vadd (d a b : BitVec 7)
  | vsub (d a b : BitVec 7)
  | vadds (d a b : BitVec 7)
  | vsubs (d a b : BitVec 7)
  | vmul (d a b : BitVec 7)
  | vmulh (d a b : BitVec 7)
  | vmin (d a b : BitVec 7)
  | vmax (d a b : BitVec 7)
  | vand (d a b : BitVec 7)
  | vior (d a b : BitVec 7)
  | veor (d a b : BitVec 7)
  | vshl (d a b : BitVec 7)
  | vshr (d a b : BitVec 7)
  | vabs (d a : BitVec 7)
  | vcmpeq (d a b : BitVec 7)
  | vcmplt (d a b : BitVec 7)
  | vsel (d p a : BitVec 7)
  | vrng (d : BitVec 7) (g : BitVec 2) (c : BitVec 7)
  -- VFLT, CL 14 (R228 to R230)
  | vfadd (d a b : BitVec 7)
  | vfsub (d a b : BitVec 7)
  | vfmul (d a b : BitVec 7)
  | vfma (d a b : BitVec 7)
  | vfnma (d a b : BitVec 7)
  | vfmin (d a b : BitVec 7)
  | vfmax (d a b : BitVec 7)
  | vfabs (d a : BitVec 7)
  | vfneg (d a : BitVec 7)
  | vfcmpeq (d a b : BitVec 7)
  | vfcmplt (d a b : BitVec 7)
  | vfcmple (d a b : BitVec 7)
  | vfrcp (d a : BitVec 7)
  | vfrsq (d a : BitVec 7)
  | vfexp2 (d a : BitVec 7)
  | vflog2 (d a : BitVec 7)
  | vfsqrt (d a : BitVec 7)
  -- VCVT, CL 15 (R231 to R235)
  | vcvt (f : BitVec 4) (d a : BitVec 7) (rm : BitVec 3) (c : BitVec 4)
  | vcvts (f : BitVec 4) (d a : BitVec 7) (rm : BitVec 3) (c : BitVec 4)
  | vquant (d a : BitVec 7) (rm : BitVec 3) (n : BitVec 4)
  | vdeq (d a : BitVec 7) (rm : BitVec 3) (n : BitVec 4)
  -- VPRED, CL 16 (R236)
  | pand (d a b : BitVec 7)
  | pior (d a b : BitVec 7)
  | peor (d a b : BitVec 7)
  | pandn (d a b : BitVec 7)
  | pnot (d a : BitVec 7)
  | pall (d : BitVec 7)
  | pnone (d : BitVec 7)
  -- SCAN, CL 17 (R251)
  | scan (d a : BitVec 7) (lr : BitVec 3) (op ty : BitVec 2)
  | segscan (d a : BitVec 7) (hp : BitVec 3) (op ty : BitVec 2)
  | reduce (d a : BitVec 7) (lr : BitVec 3) (op ty : BitVec 2)
  | topk (d a : BitVec 7) (xk : BitVec 4) (dir : Bool) (ty : BitVec 2)
  | sort (d a : BitVec 7) (g : BitVec 3) (dir : Bool) (ty : BitVec 2)
  | compact (d a : BitVec 7) (xc : BitVec 5)
  | hist (d a : BitVec 7) (acc : Bool)
  -- AWL, CL 18 (R257)
  | awlGather (le : BitVec 6) (a : BitVec 7) (pen : Bool) (pp : BitVec 4)
  | awlScatter (le : BitVec 6) (a : BitVec 7) (pen : Bool) (pp : BitVec 4)
  -- MTX, CL 19 (R261)
  | mpar (m a : BitVec 7)
  | mcall (r : BitVec 5) (bc : BitVec 14)
  | mldw (pl : BitVec 2) (fmt : BitVec 3) (str : Bool) (le : BitVec 6) (xa : BitVec 3)
  | mldwScl (pl : BitVec 2) (str : Bool) (le : BitVec 6) (xa : BitVec 3)
  | msel (pl : BitVec 2)
  -- ACC, CL 20 (R261)
  | amov (d : BitVec 7) (t : BitVec 6) (xen : Bool) (xt : BitVec 3)
  | amovClr (d : BitVec 7) (t : BitVec 6) (xen : Bool) (xt : BitVec 3)
  | amovTo (d : BitVec 7) (t : BitVec 6) (xen : Bool) (xt : BitVec 3)
  | aclr (t cnt : BitVec 6)
  | atopk (wstr : Bool) (le : BitVec 6) (t : BitVec 6) (xk : BitVec 4) (xd : BitVec 3)
  -- COPY, CL 21 (R281)
  | tld (g : BitVec 4) (xa : BitVec 3) (xm : BitVec 5) (ln : BitVec 2) (lat : BitVec 7)
  | tst (g : BitVec 4) (xa : BitVec 3) (xm : BitVec 5) (ln : BitVec 2)
  | ald (g : BitVec 4) (xa : BitVec 3) (xm : BitVec 5) (ln : BitVec 2) (n : BitVec 5)
  | ast (g : BitVec 4) (xa : BitVec 3) (xm : BitVec 5) (ln : BitVec 2) (n : BitVec 5)
  | ntst (g : BitVec 4) (xa : BitVec 3) (xm : BitVec 5) (ln : BitVec 2)
  | drain (n : BitVec 5)
  -- ATOM, CL 22 (R293)
  | amo (g : BitVec 4) (xm : BitVec 3) (d : BitVec 7) (op : BitVec 3) (ty n : BitVec 2)
  | cas (g : BitVec 4) (xm : BitVec 3) (d : BitVec 7) (n : BitVec 2)
  | red (g : BitVec 4) (xm : BitVec 3) (d : BitVec 7) (op : BitVec 3) (ty : BitVec 2)
  -- STACK, CL 23 (R297)
  | sbst (v : BitVec 7) (lg : BitVec 5) (cnt xo : BitVec 3)
  | sbld (v : BitVec 7) (lg : BitVec 5) (cnt xo : BitVec 3)
  -- LIMM, CL 24 (R148)
  | limm (i : BitVec 21)
  -- micro-operations of the matrix unit (R269); they act on the routine of the focused cell
  | endm
  | rowin
  | step
  | accum (lag : Bool)
  | plane (p : BitVec 2)
  | loopm (len : BitVec 4) (csrc : BitVec 2) (n : BitVec 24)
  | waitin (n : BitVec 12)
  | rstc
  | abas (d : BitVec 9)
  | tadd (d : BitVec 7)
  -- special-register writes with an effect of their own
  | flrstWrite (lay : Nat) (idx : BitVec 9)
  | preqSave (lay ctx gsel : Nat)
  | preqKill (lay ctx : Nat)
  | hostPreemptRecord (lay ctx : Nat) (kill : Bool) (area : Cap)
  | tinvAll
  | tinvObject (obj : BitVec 24)
  | tinvPage (obj vpn : BitVec 24)
  | fservWrite (lay : Nat) (fid : BitVec 16)
  | plctlArm (nent : BitVec 12) (nbase : BitVec 28) (logp : BitVec 5)
  | lstatClear (tower link : Nat) (asym : BitVec 8)
  | sotWrite (tower n : Nat) (owners : DWord)
  -- regions, waits and the scheduler of contexts
  | regionCommit (lay ctx : Nat)
  | freezeSwitch (lay : Nat)
  | waitSatisfied (lay ctx : Nat)
  | resumeHoldEnd (lay ctx : Nat)
  | watchdog (lay ctx : Nat)
  | priorityAgeing (lay ctx : Nat)
  | starvationSwitch (lay ctx : Nat)
  | waitPass (lay : Nat)
  | laggingHit (lay : Nat)
  | late (lay row : Nat)
  -- landings, memory ports and releases (`req` numbers a request, `eff` a released effect)
  | timedLanding (lay cell row : Nat)
  | copyRowArrival (req : Nat)
  | cldDataArrival (req : Nat)
  | atomicReply (req : Nat)
  | loadPerform (req : Nat)
  | storePerform (req : Nat)
  | atomicPerform (req : Nat)
  | releaseWaitEnd (eff : Nat)
  | flagUpdateApply (lay : Nat) (arrives : Option (Bool × BitVec 9 × DWord))
  | stackBusSlot (tower : Nat)
  | stackBeatApply (tower : Nat) (badCols : BitVec 64) (badFlags : Bool)
  | epushDeferred (lay ctx : Nat)
  | eyeletWordSend (lay e : Nat)
  | eyeletWordArrival (lay e : Nat) (w : EyeletWord)
  | eyeletCredit (lay e : Nat)
  | tlaunchDeferredAppend (lay ctx : Nat)
  -- the fabric
  | sendReady (eff : Nat)
  | sendDepart (eff : Nat)
  | flitArrival (tower link : Nat) (arrives : Option Flit)
  | shortNetworkSlot (tower port : Nat)
  | flitReplay (tower link : Nat) (q : BitVec 48)
  | flitAck (tower link : Nat) (q : BitVec 48)
  | keyInstall (tower link : Nat) (key : BitVec 256)
  | keyRolloverComplete (tower link : Nat)
  | keyPhaseExhausted (tower link : Nat)
  | laneFailure (tower link lane : Nat)
  | linkEnable (tower link : Nat)
  | lanesLock (tower link : Nat) (lanes : BitVec 16)
  | trainTimeout (tower link : Nat)
  | identify (tower link : Nat) (dom : BitVec 6) (pkg : BitVec 8) (count : BitVec 32) (proof : IdentityProof)
  | quarantineRelease (tower link : Nat)
  | linkDisable (tower link : Nat)
  | timestampExchangeDone (tower link : Nat) (t1 t2 t3 t4 : DWord)
  | staleTimeout (tower link : Nat)
  | planSwitch
  | slotTableLoad (tower port slot : Nat) (owner : Option Nat)
  -- launch, placement and gangs
  | launchFrame (header : BitVec 128) (record : BitVec 512)
  | restoreFrame (header : BitVec 128) (record : BitVec 512) (save : Cap)
  | statusRingFree (n : Nat)
  | schedulerSelect (tower : Nat)
  | headAgeing (tower queue : Nat)
  | placementComplete (lay ctx : Nat)
  | gangReady (gid : BitVec 16) (gmi : Nat) (gcnt : Nat) (from_ : Nat)
  | gangStart (tower : Nat) (gid : BitVec 16) (tick : DWord)
  | gangStartTick (lay ctx : Nat)
  | gangTimeout (gid : BitVec 16)
  | gangAbort (tower : Nat) (gid : BitVec 16)
  | gangFail (gid : BitVec 16)
  -- retirement, traps, pre-emption and kill
  | taskRetire (lay ctx : Nat)
  | trapRecordWrite (lay ctx : Nat)
  | heldTrapEffect (lay ctx : Nat)
  | preemptEffect (lay ctx : Nat)
  | saveRecordWrite (lay ctx : Nat)
  | taggedItemComplete (req : Nat)
  | killRelease (lay ctx : Nat)
  -- replies of the host under the duty split (R416)
  | hostTrapResume (lay ctx : Nat)
  | hostTrapKill (lay ctx : Nat)
  | hostWalkReply (req : Nat) (entry : DWord) (level : Nat)
  | hostFaultServiced (lay : Nat) (fid : BitVec 16)
  | hostServoReply (correction : ServoReply)
  /-- A layer, and granules for each resource in the order of SHARE: banks, vector registers, planes, accumulators, lasts, awl
  (R416). -/
  | hostPlaceReply (tower : Nat) (assign : Option (Nat × List (List Nat)))
  | hostSpareReply (tower logical : Nat)
  -- translation
  | translationWalk (req : Nat)
  | remoteRequest (obj : BitVec 24) (off : BitVec 40) (asid : BitVec 12) (ask : RemoteAsk) (tag : Nat)
  | tinvComplete
  | lastStoreLoadComplete (eff : Nat)
  -- layer power, clocks and heat
  | layerTransitionStart (lay : Nat)
  | layerTransitionDone (lay : Nat)
  | keeperCopyDone (lay : Nat)
  | powerCheck (watts : BitVec 16)
  | junctionHot (tower : Nat) (tj : BitVec 8)
  | junctionCooled (tower : Nat) (tj : BitVec 8)
  | junctionCritical (tower : Nat) (tj : BitVec 8)
  | divChange (tower : Nat)
  -- reliability
  | softError (code tower phys cell ctx loc : Nat) (uncorrectable : Bool)
  | networkRetry (lay cell ctx : Nat) (again : Bool)
  | columnRetryExcess (tower col : Nat)
  | layerFailure (tower phys : Nat)
  | telemetryReadClear (tower : Nat)
  -- boot, management and the host link
  | powerOnReset (program : Option Flash) (trains : Bool)
  | kcapInstall (key : SealedKey)
  | supervisorInstall (image : SupImage)
  | attestationRequest (nonce : BitVec 256)
  | stavouxLinkFailure
  | stavouxLinkRetrain
  | stepAdvance (lay : Nat)
  deriving DecidableEq, Repr

end Sys2Proof
end

