-- ==== Sys2Proof/Machine/State.lean ====
section
/-!
DEFINITION. The state of one package as plain data: every register, memory, queue and status bit the manual gives,
and the work in progress (results not landed, requests not answered, effects not performed) the manual implies.

Places are numbered so that one sparse table holds each kind of part: a layer is 8·tower + logical layer (0–15), a
context is 8·layer + context (4 is the supervisor, R497), a cell is 64·layer + 8·row + col. A part absent from its
table is at its reset value.
-/

namespace Sys2Proof.Machine

/-- Why a run stops. -/
inductive Fault where
  /-- Raised by a memory port whose walk is led, by a table base of 2^39 or more, to a physical address the package
  does not have (R449: bit 39 is zero). Safe: the model stops where the manual gives no result. -/
  | noSuchAddress (pa : Nat)
  deriving DecidableEq, Repr

/-- Why an instruction has no meaning here. -/
inductive Refusal where
  /-- Raised by an arm of `exec` whose instruction has no meaning in this model. Safe. -/
  | notModelled (mnemonic : String)
  deriving DecidableEq, Repr

/-- The resource share of a task: physical granules in the order of the task's names (R40, R410). -/
structure Share where
  /-- Granules of eight banks. -/
  banks  : List Nat
  /-- Granules of 24 vector and four predicate registers. -/
  vregs  : List Nat
  planes : List Nat
  /-- Granules of 16 accumulator tiles. -/
  acc    : List Nat
  /-- Granules of 14 static last-cache entries. -/
  lasts  : List Nat
  /-- Granules of two awl entries. -/
  awl    : List Nat
  eye    : BitVec 16
  edge   : Bool
  deriving DecidableEq, Repr

/-- No resources. -/
def Share.none : Share :=
  { banks := [], vregs := [], planes := [], acc := [], lasts := [], awl := [], eye := 0, edge := false }

/-- The states of a task (R52). `free` is a context that holds no task. -/
inductive TaskState where
  | free | placed | ready | issuing | frozen | waiting | trapped | saved | killed | exited
  deriving DecidableEq, Repr

/-- The states of a sequencer context (R432). -/
inductive CtxState where
  | free | placing | held | resident | discarding | saving | releasing
  deriving DecidableEq, Repr

/-- What a frozen or waiting task waits for (R35, R56, R58, R418). -/
inductive Wait where
  | none
  /-- FLWAIT: flag index, condition, comparand (R195). -/
  | flag (idx : BitVec 9) (cond : BitVec 2) (b : BitVec 63)
  /-- CWAIT: counter and threshold (R196). -/
  | counter (n : BitVec 5) (thr : Nat)
  /-- EPOP on an empty eyelet (R201). -/
  | eyelet (e : BitVec 4)
  /-- A landing not arrived at its declared step (R286). -/
  | landing
  /-- Committed landings of a discarded task (R56, R420). -/
  | resumeHold
  /-- A parked fetch (R441). -/
  | fetch
  deriving DecidableEq, Repr

/-- Trap causes (R418). -/
inductive Cause where
  | illegal | bounds | sched | late | latcheck | cfi | welt | flagPoison | watchdog | userTrap | pgKill | uncorr
  deriving DecidableEq, Repr

/-- A trap as raised, before it takes effect (R418, R419, R421). -/
structure TrapInfo where
  cause  : Cause
  sub    : Nat
  code   : BitVec 14
  cell   : Option Nat
  dec    : Bool
  slot   : Nat
  baddr  : DWord
  region : Nat
  aux0   : DWord
  aux1   : DWord
  deriving DecidableEq, Repr

/-- One level of the loop unit (R172, R173, R428). -/
structure LoopLevel where
  active : Bool
  k      : Nat
  n      : Nat
  start  : DWord
  stop   : DWord
  depth  : Nat
  deriving DecidableEq, Repr

def LoopLevel.idle : LoopLevel := { active := false, k := 0, n := 0, start := 0, stop := 0, depth := 0 }

/-- An entry of the image's loop table (R37). -/
structure LoopEntry where
  kind   : Nat
  trip   : Nat
  start  : BitVec 16
  stride : BitVec 16
  deriving DecidableEq, Repr

def LoopEntry.unused : LoopEntry := { kind := 0, trip := 0, start := 0, stride := 0 }

/-- A change CALL or RET makes to the shadow stack (R170). -/
inductive ShadowOp where
  | push (ra : DWord)
  | pop
  deriving DecidableEq, Repr

/-- An outward effect in the welt (R46, R365). A store's or atomic's data is held at the ports under its number. -/
inductive Effect where
  /-- TST (`nt` false, no counter), AST (counter), NTST (`nt` true) (R287). -/
  | copyStore (nt : Bool) (ctr : Option Nat)
  | drain (n : Nat)
  /-- AMO and CAS name a counter, RED does not (R293). -/
  | atomic (ctr : Option Nat)
  | stackStore
  | cst
  /-- FLADD (`set` false) and FLSET, with the flag addresses they update (R194). -/
  | flag (set : Bool) (homes : List (BitVec 21)) (v : DWord) (scope : Nat)
  | fence (scope : Nat) (acq rel : Bool)
  | epush (e : BitVec 4) (w : DWord)
  | send (bulk : Bool) (gd gs : Cap) (soff doff : DWord) (len slack : Nat) (ctr : BitVec 21) (depart : DWord)
  | realign (n : Nat) (links : BitVec 24)
  | tlaunch (q : Nat) (rec : Cap)
  | texit (v : DWord)
  | userTrap (code : BitVec 14) (baddr : DWord) (slot : Nat)
  | eret (c : Nat) (kill : Bool)
  | lsleep (lay : Nat) (off : Bool) (n : Nat)
  | lwake (lay : Nat) (n : Nat)
  | lstld (src : Cap) (off : DWord) (first cnt n : Nat)
  | mpsld (src : Cap) (off : DWord) (dir : Bool) (first cnt n : Nat)
  /-- The pop-log record of an EPOP (R47, R201). -/
  | popRecord
  | shadow (op : ShadowOp)
  /-- The completion update of a task's launch record: by flag, or by a status entry (R209, R401, R431). -/
  | complete (rec : Nat) (hostc : Bool) (home : BitVec 21) (v : DWord)
  deriving DecidableEq, Repr

/-- An uncommitted region of a task, with what a discard restores (R45 to R51, R174, R211). -/
structure Region where
  id       : Nat
  entry    : DWord
  /-- Issue step of the sealing bundle. -/
  sealedAt : Option Nat
  /-- Effects in program order, each with its number. -/
  effects  : List (Nat × Effect)
  /-- Loop unit at the region's entry (R174). -/
  loops    : List LoopLevel
  /-- Special registers an MTSR of the region wrote, with their values at the region's entry, and RNGC's (R211, R225). -/
  specials : List (Nat × DWord)
  /-- The special registers' values at the region's entry (R211). -/
  entrySpecials : List (Nat × DWord)
  /-- Additions to completion counters that a discard withdraws (R292). -/
  adds     : List (Nat × Nat)
  /-- Cells (8·row + col) whose poison bit a PVOTE.CLR of the region marked and that has not been set since, with the
  step of the mark (R178). -/
  marks    : List (Nat × Nat)
  /-- How many values of the pop log this execution has read (R48). -/
  popped   : Nat
  /-- The form of each effect: its number, and its bundle's address and slot (R421). -/
  forms    : List (Nat × DWord × Nat) := []
  deriving DecidableEq, Repr

/-- The placement data of a task that placement and retirement use (R403, R410, R428). -/
structure Launch where
  img    : Cap
  arg    : Cap
  share  : DWord
  lmask  : DWord
  word48 : DWord
  word56 : DWord
  tag    : Word
  seq    : BitVec 16
  /-- From the host, not from TLAUNCH (R401); a zero field of its frame header was nonzero (R404). -/
  host   : Bool
  resv   : Bool
  deriving DecidableEq, Repr

def Launch.none : Launch :=
  { img := 0, arg := 0, share := 0, lmask := 0, word48 := 0, word56 := 0, tag := 0, seq := 0, host := false,
    resv := false }

/-- The tables of the running image that issue uses (R370 to R376). -/
structure ImageInfo where
  /-- Byte offset of CODE in the image object, from its capability's base, and its length. -/
  code    : Nat
  codeLen : Nat
  loops   : List LoopEntry
  /-- Region entry addresses, RGP and the offset of the live-in descriptor in the image (R374). -/
  regions : List (Nat × Bool × Nat)
  /-- Resolved last table: task-relative number to last-store index (R376). -/
  lasts   : List (Option Nat)
  /-- Directory entries the image's routines name (R380). -/
  routines : List Nat
  /-- Minimum share (R371) and ASID (R437). -/
  asid    : BitVec 12
  deriving DecidableEq, Repr

def ImageInfo.none : ImageInfo :=
  { code := 0, codeLen := 0, loops := [], regions := [], lasts := [], routines := [], asid := 0 }

/-- A pending pre-emption or kill request (R425). -/
structure Preq where
  ctx  : Nat
  kill : Bool
  area : Cap
  host : Bool
  /-- Cycle in which it reached the sequencer (R426). -/
  since : Nat
  deriving DecidableEq, Repr

/-- A completion counter still to be decreased (R184, R284, R295): the slot's number, the counter, the first step at
which every enabled cell has executed the slot, and its region. -/
structure Out where
  eff    : Nat
  n      : Nat
  after  : Nat
  region : Nat
  deriving DecidableEq, Repr

/-- One resident context at the sequencer (R42, R52, R432). -/
structure Ctx where
  task   : TaskState
  state  : CtxState
  share  : Share
  launch : Launch
  image  : ImageInfo
  /-- s0–s63 (R15). -/
  s      : Map DWord
  /-- g0–g15 (R180). -/
  g      : Map Cap
  /-- k0–k7. -/
  k      : BitVec 8
  /-- b0–b3, and the step from which each is ready for a transfer (R162). -/
  b      : Map DWord
  bReady : Map Nat
  /-- n0–n31, 24 bits each (R196). -/
  n      : Map (BitVec 24)
  pc     : DWord
  /-- A taken transfer: target, bundles that end before it (the transfer's own and two delay bundles), ready step of
  the target (R164). -/
  xfer   : Option (DWord × Nat × Nat)
  /-- The same count, for R167's checks, and the shadow stack's depth at the transfer. -/
  delay  : Nat
  xferDepth : Nat
  /-- No bundle issues before this step (R139). -/
  notBefore : Nat
  loops  : List LoopLevel
  /-- The committed shadow stack, top first (R170). -/
  shadow : List DWord
  /-- Uncommitted regions, oldest first, the last one open. -/
  regions : List Region
  /-- Values popped by the uncommitted regions, kept across a discard: each with its region's place among the uncommitted
  ones, 0 the oldest (R48). -/
  popLog : List (Nat × BitVec 4 × DWord)
  nextRegion : Nat
  /-- CMASK (R64), TCFG (R65), FPCTL.RM (R149), PSTAT.SPOIS (R166), SENDST (R205), RNGK, RNGC (R224),
  SWIN (R300), LATMODE (R349), BARM0–3 (R430), TLAST (R422). -/
  cmask  : DWord
  bprio  : BitVec 2
  eprio  : BitVec 2
  fzt    : BitVec 4
  wdog   : BitVec 5
  rm     : BitVec 3
  spois  : Bool
  miss   : Bool
  mcount : BitVec 16
  rngk   : DWord
  rngc   : DWord
  swlo   : BitVec 11
  swhi   : BitVec 12
  prof   : Bool
  lm     : BitVec 2
  ldm    : Bool
  barm   : Map DWord
  tlast  : DWord
  /-- BFMT0–BFMT31 (R72). -/
  bfmt   : Map DWord
  /-- Wait in force, the cycles it has lasted and the cycles of the present freeze (R56, R58). -/
  wait   : Wait
  waited : Nat
  /-- Address and slot of the form that poses it (R421). -/
  waitAddr : DWord := 0
  waitSlot : Nat := 0
  /-- Cycles this Ready context has waited for issue (R54, R55), and since when it counts for selection (R53); the levels
  it has gained for them (R54). -/
  idle   : Nat
  aged   : Nat := 0
  /-- Traps held (R501), the trap being taken (R420), and the records written since placement (R421). -/
  held   : List TrapInfo
  /-- A trap or a pre-emption has taken effect and the task has not issued since; the trap being taken is one that was held
  (R501). -/
  quieted : Bool := false
  fromHeld : Bool := false
  trap   : Option TrapInfo
  trapStep : Nat
  trapCycle : Nat
  resume : DWord
  tseq   : Nat
  /-- Released effects whose order TEXIT, EPUSH and TLAUNCH keep (R201, R209). -/
  exiting : Option DWord
  killing : Bool
  /-- Start tick of a gang member (R412). -/
  startTick : Option DWord
  /-- Outstanding TLD rows became untimed (R56, R420). -/
  untimed : Bool
  /-- The SRID of the save record this task was restored from (R427, R429). -/
  srid   : Option Nat
  outs   : List Out
  /-- Routine busy until this step, for MCALL's check (R266), and the call's region. -/
  mcallUntil : Nat
  mcallRegion : Nat
  deriving DecidableEq, Repr

/-- A context that holds no task; every register zero, TCFG and the rest at their maps' resets. -/
def Ctx.free : Ctx :=
  { task := .free, state := .free, share := .none, launch := .none, image := .none, s := [], g := [], k := 0,
    b := [], bReady := [], n := [], pc := 0, xfer := none, delay := 0, xferDepth := 0, notBefore := 0, loops := [], shadow := [],
    regions := [], popLog := [], nextRegion := 0, cmask := 0, bprio := 0, eprio := 0, fzt := 6, wdog := 20,
    rm := 0, spois := false, miss := false, mcount := 0, rngk := 0, rngc := 0, swlo := 0, swhi := 0, prof := false,
    lm := 0, ldm := false, barm := [], tlast := 0, bfmt := [], wait := .none, waited := 0, idle := 0, held := [],
    trap := none, trapStep := 0, trapCycle := 0, resume := 0, tseq := 0, exiting := none, killing := false,
    startTick := none, untimed := false, srid := none, outs := [], mcallUntil := 0, mcallRegion := 0 }

/-- The kind of a last (R98, R377). -/
inductive LastKind where
  | empty | read | write
  deriving DecidableEq, Repr

/-- A last as the networks use it: P, F, S and M (R95, R97). P and F hold 10 bits a position, S eight. -/
structure Last where
  kind : LastKind
  p    : BitVec 10240
  f    : BitVec 10240
  sel  : BitVec 8192
  m    : Row
  /-- The 4096 bytes it was loaded from, as one number; 0 for a last the awl built (R376). -/
  raw  : Nat := 0
  deriving DecidableEq, Repr

def Last.none : Last := { kind := .empty, p := 0, f := 0, sel := 0, m := 0 }

/-- An entry of the landing buffer (R106). -/
structure Landing where
  ctx    : Nat
  region : Nat
  req    : Nat
  /-- Physical bank and row. -/
  bank   : Nat
  row    : Nat
  be     : BitVec 128
  pois   : Bool
  /-- Landing step, `none` when untimed. -/
  due    : Option Nat
  /-- The cell's own execution step of an untimed copy: its row lands no earlier (R284; notes/assumptions/39.md). -/
  from_  : Nat
  /-- Program order of the copy (R105). -/
  seq    : Nat
  data   : Row
  /-- Cycle of arrival (R106, R108). -/
  arrived : Nat
  deriving DecidableEq, Repr

/-- A routine the matrix unit runs in one cell (R266, R269). -/
structure Routine where
  ctx    : Nat
  region : Nat
  /-- Address of the MCALL's bundle (R267). -/
  baddr  : DWord
  /-- Execution step of the MCALL. -/
  e      : Nat
  bc     : Nat
  start  : Nat
  len    : Nat
  seq    : Nat
  /-- Next micro-word, relative to `start`, and the step at which it executes. -/
  pc     : Nat
  at_    : Nat
  fi     : Nat
  sc     : Nat
  ai     : Nat
  rb     : Int
  toff   : Int
  cp     : BitVec 2
  /-- Open loops: first word, length, iterations left (R275). -/
  loops  : List (Nat × Nat × Nat)
  /-- Row-buffer entries: the row index and its ready step; read by a STEP or not (R270). -/
  rows   : Map (Nat × Nat × Bool)
  /-- Step at which the running pass ends (R273). -/
  arrayFree : Nat
  /-- Partial sets: the pass and its ready step, not yet accumulated (R273, R274). -/
  passes : Map (Nat × Nat)
  /-- Bank formats of the call's bundle (R73). -/
  bfmt   : Map DWord
  /-- The routine has ended or stopped; its window lasts on (R265). -/
  ended  : Bool
  /-- LATMODE.LM and slot of the call (R350, R421), and the step of the last ROWIN (R272). -/
  lm     : BitVec 2 := 0
  slot   : Nat := 0
  rowin  : Option Nat := none
  deriving DecidableEq, Repr

/-- A HALO that a cell has executed: its bundle, execution step and address word (R249, R250). -/
structure Halo where
  ctx    : Nat
  region : Nat
  seq    : Nat
  e      : Nat
  dm     : BitVec 4
  srow   : Nat
  drow   : Nat
  cnt    : Nat
  /-- Physical edge bank of each direction. -/
  banks  : List Nat
  deriving DecidableEq, Repr

/-- One cell: everything it holds that is not per context (R16). Register numbers are physical. -/
structure Cell where
  /-- Bank rows, key 256·bank + row (R89). -/
  banks   : Map Row
  v       : Map Lanes
  p       : Map Row
  /-- Accumulator tiles (R109). -/
  acc     : Map Lanes
  /-- Weight planes, key 48·plane + macro (R110). -/
  planes  : Map Lanes
  /-- Scale stores, key 2·plane + half (R259, R263). -/
  scales  : Map Lanes
  pfmt    : Map (BitVec 3)
  lasts   : Map Last
  /-- Task-relative numbers of the lasts that LLAST loaded, by static entry (R100, R428). -/
  lastNums : Map Nat
  landing : List Landing
  /-- Stack mirror (R111). -/
  mirror  : Map Byte
  routine : Option Routine
  /-- Row buffer, by entry, and partial sets, key 4·set + 1024-word chunk (R259). -/
  rowBuf  : Map Lanes
  partials : Map Lanes
  /-- Face exchanges under way (R249). -/
  halos   : List Halo
  /-- Weight-plane rows of 64 bytes whose parity is wrong, numbered 3072·plane + 64·macro + row (R479, R480). -/
  badRows : List Nat := []
  deriving DecidableEq, Repr

def Cell.reset : Cell :=
  { banks := [], v := [], p := [], acc := [], planes := [], scales := [], pfmt := [], lasts := [], lastNums := [], landing := [],
    mirror := [], routine := none, rowBuf := [], partials := [], halos := [] }

/-- What a cell holds for each resident context (R42, R78). -/
structure CellCtx where
  x       : Map Word
  m       : Map Word
  mShadow : Map Word
  ap      : BitVec 2
  /-- Edge receive state and its poison, by direction 0 north, 1 east, 2 south, 3 west (R33, R104). -/
  edge    : Map Row
  edgePois : Map Word
  /-- Poison summary bit (R78). -/
  pois    : Bool
  deriving DecidableEq, Repr

def CellCtx.reset : CellCtx :=
  { x := [], m := [], mShadow := [], ap := 0, edge := [], edgePois := [], pois := false }

/-- A location a result lands on. Cells are 8·row + col; register, bank, tile, plane and entry numbers are physical. -/
inductive Loc where
  | s (n : Nat) | g (n : Nat) | k (n : Nat) | b (n : Nat)
  | dmem (addr size : Nat)
  /-- An MTSR write, by special number. -/
  | special (num : Nat)
  /-- PSTAT.SPOIS set by a PVOTE (R166). -/
  | spois
  | x (cell n : Nat) | v (cell n : Nat) | p (cell n : Nat)
  | bank (cell bank row : Nat)
  | acc (cell tile : Nat)
  | plane (cell plane mac : Nat)
  | scale (cell plane half : Nat)
  /-- A group value of a pass, added to row `row` of a tile (R274). -/
  | accum (cell tile row : Nat)
  | pfmt (cell plane : Nat)
  | mShadow (cell n : Nat)
  | ap (cell : Nat)
  | edge (cell dir : Nat)
  | edgePois (cell dir : Nat)
  /-- Row k of a HALO, arriving at a cell from its side `dir` (R249). -/
  | haloRow (cell dir k : Nat)
  /-- A last-cache entry, loaded from a last-store index (R100). -/
  | last (cell entry : Nat)
  /-- A cell's poison summary bit (R78). -/
  | pois (cell : Nat)
  deriving DecidableEq, Repr

/-- A result that has not landed (R114, R115). -/
structure Pend where
  ctx    : Nat
  region : Nat
  /-- Declared landing step. -/
  due    : Nat
  /-- Steps by which the part is slower (R348). -/
  lag    : Nat
  /-- Issue order (R146). -/
  seq    : Nat
  loc    : Loc
  mask   : Lanes
  val    : Lanes
  /-- A last that lands (R100, R103). -/
  last   : Option Last
  /-- LATMODE.LM, address and slot of the bundle that writes it (R350, R421). -/
  lm     : BitVec 2
  baddr  : DWord
  slot   : Nat
  deriving DecidableEq, Repr

/-- The bundle-wide controls of BCTL (R139, R140). -/
structure Bctl where
  ginv : Bool
  gen  : Bool
  gp   : BitVec 4
  gap  : BitVec 7
  is   : Bool
  fw   : BitVec 2
  iw   : BitVec 2
  sway : Bool
  sealed : Bool
  deriving DecidableEq, Repr

def Bctl.zero : Bctl :=
  { ginv := false, gen := false, gp := 0, gap := 0, is := false, fw := 0, iw := 0, sway := false, sealed := false }

/-- A cell slot as its bundle carries it: its number, a LIMM's bits (R148), and the RNGC value it draws (R225). -/
structure FSlot where
  idx   : Nat
  instr : Instr
  limm  : Option (BitVec 21)
  draw  : DWord
  /-- The slot's number in program order, which names its requests and effect. -/
  eff   : Nat
  /-- The capability the slot names, as it stood at t (R283). -/
  cap   : Cap
  /-- Its rows were requested for every cell during a freeze on its counter (R361; notes/assumptions/39.md). -/
  ahead : Bool
  deriving DecidableEq, Repr

/-- The cell slots of one bundle on their way through the mesh, with what they carry (R30, R143, R149, R350). -/
structure Flight where
  ctx    : Nat
  region : Nat
  baddr  : DWord
  t      : Nat
  seq    : Nat
  cmask  : DWord
  bctl   : Bctl
  /-- i-register temporal iteration numbers (R30, R38). -/
  ks     : List Nat
  /-- Low words of s0–s31 at t (R143). -/
  sregs  : Row
  rm     : BitVec 3
  prof   : Bool
  lm     : BitVec 2
  ldm    : Bool
  bfmt   : Map DWord
  rngk   : DWord
  swlo   : BitVec 11
  swhi   : BitVec 12
  slots  : List FSlot
  deriving DecidableEq, Repr

/-- A vote on its way up the reduction tree (R32, R177). -/
structure Vote where
  ctx    : Nat
  region : Nat
  due    : Nat
  seq    : Nat
  loc    : Loc
  /-- 0 any, 1 all, 2 count, 3 poison. -/
  kind   : Nat
  acc    : Nat
  deriving DecidableEq, Repr

/-- An eyelet (R198, R199, R460). -/
structure Eyelet where
  en     : Bool
  dir    : Bool
  peer   : BitVec 16
  words  : List DWord
  credit : Nat
  /-- An inbound eyelet: who sent each word it holds, as a PEER field names it (R460). -/
  senders : List (BitVec 16) := []
  deriving DecidableEq, Repr

def Eyelet.reset : Eyelet := { en := false, dir := false, peer := 0, words := [], credit := 16 }

/-- Layer power states (R213, R493). -/
inductive Power where
  | run | doze | off
  deriving DecidableEq, Repr

/-- A queued power request: target state, requester context key and counter (R213, R494). -/
structure PowerReq where
  target : Power
  ctxKey : Nat
  n      : Nat
  started : Bool
  /-- Cycles left once started. -/
  left   : Nat
  deriving DecidableEq, Repr

/-- An open fault record of a layer (R444). -/
structure FaultRec where
  fid  : Nat
  /-- The memory port that holds it, numbered as the port's cache. -/
  port : Nat
  obj  : BitVec 24
  /-- First offset and size of the unit. -/
  base : Nat
  size : Nat
  write : Bool
  np   : Bool
  ctx  : Nat
  off  : Nat
  asid : BitVec 12
  deriving DecidableEq, Repr

/-- A flag update on its way to one layer's flag file (R190, R194). -/
structure FlagUpd where
  set  : Bool
  idx  : BitVec 9
  v    : DWord
  /-- Cycle in which it applies. -/
  at_  : Nat
  /-- Order class within a cycle: 1 slots, 2 local, 3 ingress (R191). -/
  cls  : Nat
  seq  : Nat
  deriving DecidableEq, Repr

/-- A beat of a stack store waiting in a cell's stack-out queue (R118, R298). -/
structure Beat where
  ctx    : Nat
  region : Nat
  /-- Effect number of its SBST. -/
  eff    : Nat
  cell   : Nat
  off    : Nat
  be     : BitVec 32
  data   : BitVec 256
  /-- Cycle of release, `none` before the commit. -/
  ready  : Option Nat
  seq    : Nat
  deriving DecidableEq, Repr

/-- One layer (R15). -/
structure Layer where
  power   : Power
  /-- Power requests in release order; the first may be in progress (R494). -/
  preqs   : List PowerReq
  /-- The keeper's copy still to run when leaving off: base-die slots left (R112). -/
  copyLeft : Nat
  /-- Steps since reset: the step counter is its low 48 bits (R34). -/
  step    : Nat
  /-- Tower cycle in which the present freeze began, and the context that owns it (R35, R56). -/
  frozen  : Option (Nat × Nat)
  /-- The condition of that freeze; `none` for one that lasts one cycle (R35, R351). -/
  frozenBy : Wait
  /-- Conditions of other contexts that hold the domain as well (R35, R52). -/
  alsoFrozen : List (Nat × Wait) := []
  /-- The cycle in which a freeze that has ended began, until a step passes: one that follows it without interruption counts
  from there (R56). -/
  thaw    : Option Nat := none
  /-- The next step comes a cycle later: data is fetched or a traversal repeats (R479, R481). -/
  stall   : Bool := false
  /-- The physical layer, declared failed in this cycle, that the layer is; from the next one it is off (R485). -/
  failing : Option Nat := none
  /-- The context that issues (R53). -/
  cur     : Option Nat
  /-- The cells have executed the present step, and its commits are done. -/
  early   : Bool
  /-- Sealing bundles that cell (7,7) has executed at the present step, whose issue is frozen, so that their regions could
  commit (R45, R361; notes/assumptions/36.md). -/
  seal77  : List Nat
  /-- A switch point was passed (R53, R55). -/
  switch  : Bool
  swaySeal : Bool
  flags   : Map DWord
  eyelets : Map Eyelet
  dmem    : Map Byte
  /-- Last store (R101). -/
  store   : Map Last
  /-- Microprogram store and directory (R268). -/
  mprog   : Map DWord
  mdir    : Map DWord
  /-- SCTX (R212), PREQ (R425), TPEND (R423). -/
  sctx    : BitVec 3
  preq    : Option Preq
  preqCtx : BitVec 2
  preqKill : Bool
  preqGsel : BitVec 4
  preqRes : BitVec 2
  tpend   : BitVec 4
  flight  : List Flight
  pend    : List Pend
  votes   : List Vote
  /-- Traps raised at the step in progress, with their contexts (R419). -/
  traps   : List (Nat × TrapInfo)
  beats   : List Beat
  /-- Flag updates ready to leave in an owned slot: ready cycle, home layers, update (R190). -/
  outUpd  : List (Nat × List Nat × FlagUpd)
  updates : List FlagUpd
  /-- Stack beats heard while the keeper's copy runs (R112): column and beat. -/
  heard   : List (Nat × Beat)
  fid     : Nat
  faults  : List FaultRec
  /-- Cycles of the last UNCORR events (R483). -/
  uncorr  : List Nat
  /-- Last-store entries (n), routine words (2048 + n) and directory entries (4096 + n) that released loads write (R215). -/
  loading : List Nat
  /-- Lines of code that the instruction cache holds: image object, none for the supervisor's, and offset / 128 (R15). -/
  icache  : List (Option (BitVec 24) × Nat)
  /-- Granules the supervisor took at its first placement (R497). -/
  supShare : Option Share
  /-- Vector and g registers that results of bundles wrote at the step to come: context, register, lanes (R146, R295). -/
  landed  : List (Nat × Loc × Lanes)
  deriving DecidableEq, Repr

/-- A layer before it is first released. DESIGN CHOICE: notes/assumptions/7.md. -/
def Layer.reset : Layer :=
  { power := .off, preqs := [], copyLeft := 0, step := 0, frozen := none, frozenBy := .none, cur := none, early := false, seal77 := [],
    switch := false, swaySeal := false, flags := [], eyelets := [], dmem := [], store := [], mprog := [], mdir := [], sctx := 4,
    preq := none, preqCtx := 0, preqKill := false, preqGsel := 0, preqRes := 0, tpend := 0, flight := [], pend := [],
    votes := [], traps := [], beats := [], outUpd := [], updates := [], heard := [], fid := 0, faults := [],
    uncorr := [], loading := [], icache := [], supShare := none, landed := [] }

/-- Link states (R470). -/
inductive LinkState where
  | down | train | identify | active | narrowed | quarantined | rekey
  deriving DecidableEq, Repr

/-- One optical link (R452, R461 to R470). -/
structure Link where
  state  : LinkState
  lanes  : BitVec 16
  width  : BitVec 3
  phase  : Bool
  stale  : Bool
  delay  : BitVec 16
  asym   : BitVec 8
  latec  : BitVec 8
  ovf    : BitVec 8
  /-- Next sequence number, flits sent and not acknowledged, the replay's first flit and the first flit after it, flits
  encrypted in the phase. -/
  nextQ  : Nat
  unacked : List Flit
  replay : Option (Nat × Nat)
  phaseCount : Nat
  /-- Keys by phase, of the flits sent and of those received, and the phase received last (R461, R462). -/
  txKeys : Map (BitVec 256)
  rxKeys : Map (BitVec 256)
  rxPhase : Bool
  /-- First flit of a new phase whose old one is not over; tick of a request that has not begun (R462). -/
  rollover : Option Nat
  rolloverAsked : Option Nat
  /-- Flits of departed transfers that have not been sent, in order; lane ticks saved towards the next flit, of 18 each; and the
  next flit to send again (R453, R462). -/
  pending : List Flit
  credit : Nat
  resend : Option Nat
  /-- Checks in a row that the next expected flit has failed, and the flit from which a replay is asked of the far end
  (R454, R462). -/
  fails  : Nat
  replayAsk : Option Nat
  /-- The identity record this end presented last (R463). -/
  shown  : Option Identity
  /-- State before Rekey (R470). -/
  before : LinkState
  trainLeft : Nat
  staleLeft : Nat
  ident  : Option (BitVec 6 × BitVec 8 × BitVec 32)
  /-- Next expected sequence, the ingress buffer, transfers dropped (R458), and a flit of each transfer that has begun to
  arrive and whose last flit has not come (R470). -/
  expectQ : Nat
  inbound : List Flit
  dropped : List Nat
  opened  : List Flit
  deriving DecidableEq, Repr

def Link.reset : Link :=
  { state := .down, lanes := 0, width := 0, phase := false, stale := true, delay := 0, asym := 0, latec := 0,
    ovf := 0, nextQ := 0, unacked := [], replay := none, phaseCount := 0, txKeys := [], rxKeys := [], rxPhase := false,
    rollover := none, rolloverAsked := none, pending := [], credit := 18, resend := none, fails := 0, replayAsk := none,
    shown := none, before := .down, trainLeft := 0, staleLeft := 0, ident := none, expectQ := 0,
    inbound := [], dropped := [], opened := [] }

/-- Launch-record states (R414). `completed` says that the record's completion update is ready or its entry written: it is
Completed once its task has left its context as well (R406). -/
inductive RecState where
  | queued | head | rejected | failed | eligible | placing | placed | gangHeld | started | completed
  deriving DecidableEq, Repr

/-- A launch record in a queue or in progress (R403, R414). -/
structure LRec where
  id     : Nat
  queue  : Nat
  launch : Launch
  state  : RecState
  /-- Restore frame: the save-record capability (R399, R411). -/
  save   : Option Cap
  /-- Cycles the head has been eligible and has fitted (R408). -/
  age    : Nat
  /-- Tick before which it is not selected again (R413). -/
  notBefore : Nat
  /-- Layer key and context it was placed in; cycles of placement left. -/
  place  : Option (Nat × Nat)
  left   : Nat
  /-- Earlier records of the task, from before it was saved (R405, R411). -/
  prior  : List Nat
  /-- Tower cycle in which it was appended, and its place among the records of one cycle: the issuer's logical layer, 8 for a
  frame (R400). -/
  since  : Nat := 0
  from_  : Nat := 8
  deriving DecidableEq, Repr

/-- A status entry (R401): tag, sequence, event (0 queued, 1 started, 2 rejected, 3 failed, 4 completed), cause, value.
`whose` and `ord` are no part of it: the record that a completion entry completes when it reaches the ring (R406), and the
entry's place in the order of the events (R402). -/
structure Status where
  tag   : Word
  seq   : BitVec 16
  event : Nat
  cause : Nat
  value : DWord
  whose : Option Nat := none
  ord   : Nat := 0
  deriving DecidableEq, Repr

/-- A packet's message on the short network (R459). -/
inductive ShortMsg where
  | flag (set : Bool) (homes : List (BitVec 21)) (v : DWord)
  /-- An eyelet's word, with its sender's name; a credit for an eyelet (R198, R460). -/
  | word (peer src : BitVec 16) (w : DWord)
  | credit (lay e : Nat)
  /-- READY, START, ABORT, FAIL to the coordinator, and FAIL to the members (R412, R413). -/
  | gang (kind : Nat) (gid : BitVec 16) (gmi gcnt tower : Nat) (tick : DWord)
  /-- A packet of a SEND's data and the port it leaves by. -/
  | fragment (f : Flit) (port : Nat)
  deriving DecidableEq, Repr

/-- What one slot of the stack bus carries, applied six cycles later (R119, R190): of a layer beats, updates and store rows, of the
base die delivered rows or the keeper's copy for a waking layer; and what of it is to be sent again (R482). -/
structure BusSlot where
  cycle   : Nat
  layer   : Nat
  base    : Bool := false
  beats   : List Beat := []
  updates : List (List Nat × FlagUpd) := []
  /-- Requests whose rows it carries. -/
  rows    : List Nat := []
  copy    : Option Nat := none
  badCols : BitVec 64 := 0
  badFlags : Bool := false
  deriving DecidableEq, Repr

/-- A request from a tower to the host (R398, R416). -/
inductive HostReq where
  /-- A walk for the requests that wait on it, named by the first; `stale` once a TINV came while it was in progress (R443). -/
  | walk (req : Nat) (obj : BitVec 24) (off : Nat) (asid : BitVec 12) (stale : Bool)
  | fault (lay : Nat) (rec : FaultRec)
  | servo (link : Nat) (t1 t2 t3 t4 : DWord)
  /-- The selected head, and the free granules of each layer in run. -/
  | place (rec : Nat) (free : List (Nat × Share))
  | trap (lay ctx : Nat) (rec : List DWord)
  | spare (logical phys : Nat)
  | placeBad (rec : Nat)
  deriving DecidableEq, Repr

/-- An error record of the management mailbox, a report or an alarm (R473, R478, R483). -/
inductive Mail where
  | error (bytes : List Byte)
  | alarm (n : Nat)
  | report (bytes : List Byte)
  | telemetry (tower : Nat) (counts : Map Nat)
  deriving DecidableEq, Repr

/-- One tower's base die and controller. -/
structure Tower where
  /-- Tower cycle counter (R2). -/
  cycle   : Nat
  /-- DSPLIT (R415), LCFG (R417). -/
  dsplit  : BitVec 7
  qen     : BitVec 16
  gto     : BitVec 4
  /-- The installed supervisor image (R477). -/
  supImage : Option (List Byte)
  /-- Slot owners, four bits a slot, and a table that waits for the next frame (R471). -/
  sot     : BitVec 1024
  sotNext : Option (BitVec 1024)
  links   : Map Link
  /-- CLKST (R495): DIV, THR, HOT, TJ, and a DIV change that waits for a frame boundary (R492). -/
  div     : BitVec 5
  thr     : Bool
  hot     : Bool
  tj      : BitVec 8
  divNext : Option (BitVec 5)
  /-- The divider the power limit asks for, which a hot junction overrides (R495). -/
  limDiv  : BitVec 5
  /-- Keeper image (R111), and the flag files, eyelets it keeps for layers that are off (R190, R214). -/
  keeper  : Map Byte
  keeperFlags : Map DWord
  keeperEyelets : Map Eyelet
  queues  : Map (List LRec)
  lastQueue : Option Nat
  /-- Records selected and not yet Completed (R405, R406, R414). -/
  running : List LRec
  /-- Expected SEQ of each launch ring (R399, R402). -/
  rings   : Map Nat
  statusQ : List Status
  busSlots : List BusSlot
  /-- TLD and ALD rows waiting for a base-die slot: request numbers, in arrival order (R285). -/
  deliver : List Nat
  /-- Short-network slot tables, key 256·port + slot: owner + 1, 0 for none (R459). -/
  shortTab : Map Nat
  /-- Messages that wait for a slot, and those for this package on their way; eyelets whose credits wait for a slot; and the
  slot in which each port sent last, its tick's eighth + 1 (R459, R460). -/
  shortQ  : List (BitVec 8 × ShortMsg)
  credits : List (BitVec 16)
  shortSent : Map Nat
  /-- Spare substitution in force: failed physical layer and its logical number (R14, R485). -/
  spare   : Option (Nat × Nat)
  absent  : List Nat
  failed  : List Nat
  host    : List HostReq
  telemetry : Map Nat
  /-- Retries of each column in the present frame (R487). -/
  retries : Map Nat
  deriving DecidableEq, Repr

/-- The slot owners when the configuration record has no table: base die 0–31, then logical layer (s − 32) mod 8 (R471). -/
def defaultSot : BitVec 1024 :=
  let low : Nat := (List.range 32).foldl (fun a i => a + 8 * 2 ^ (4 * i)) 0
  let pat : Nat := 0x76543210
  BitVec.ofNat 1024 ((List.range 28).foldl (fun a i => a + pat * 2 ^ (128 + 32 * i)) low)

def Tower.reset : Tower :=
  { cycle := 0, dsplit := 0, qen := 0xFFFF, gto := 4, supImage := none, sot := defaultSot, sotNext := none, links := [], div := 16,
    thr := false, hot := false, tj := 0, divNext := none, limDiv := 16, keeper := [], keeperFlags := [], keeperEyelets := [],
    queues := [], lastQueue := none, running := [], rings := [], statusQ := [], busSlots := [], deliver := [],
    shortTab := [], shortQ := [], credits := [], shortSent := [], spare := none, absent := [], failed := [], host := [], telemetry := [],
    retries := [] }

/-- A leaf as the walk finds it and the caches hold it (R438, R442). -/
structure Leaf where
  base : Nat
  size : Nat
  w    : Bool
  cow  : Bool
  tag  : Bool
  x    : Bool
  pol  : Nat
  deriving DecidableEq, Repr

/-- A cached translation: which cache (0–1023 a cell's port, 1024–1031 a memory port), object, page offset, leaf. -/
structure Tlb where
  home : Nat
  obj  : BitVec 24
  page : Nat
  leaf : Leaf
  deriving DecidableEq, Repr

/-- What a request asks of a memory port. -/
inductive ReqKind where
  /-- A row of TLD or ALD: bank, row, landing step of a TLD (R282, R285). -/
  | load (bank row : Nat) (due : Option Nat) (strict : Bool)
  /-- A row of TST, AST or NTST (R287). -/
  | store (nt : Bool)
  /-- One cell's lanes of an atomic: (lane, offset, operand, comparand operand), lanes still to perform, vd (R294). -/
  | atomic (op ty : Nat) (cas returns : Bool) (vd : Nat) (lanes : List (Nat × Nat × Word × Word))
      (done : List (Nat × Word))
  /-- CLD into a g register (R184), CST (R183). -/
  | cld (g : Nat)
  | cst (v : Cap)
  /-- A code fetch (R441). -/
  | fetch
  /-- A page asked for at a port: for a read of TLAUNCH, LSTLD, MPSLD, SEND, the scheduler or a save (R502), or for a write of the
  ingress or of a save record (R447). -/
  | recordRead
  | recordWrite
  deriving DecidableEq, Repr

/-- Where a request stands. -/
inductive ReqState where
  /-- At the copy port, not released or held back (R127, R128, R287). -/
  | held
  /-- Released, waiting for an owned slot (R498); in the slot of a cycle (R482). -/
  | queued
  | sent (cycle : Nat)
  /-- At the memory port, to be translated (R442). -/
  | port
  /-- At the port, waiting on the host's walk that request `req` asked for (R415, R416, R442). -/
  | walking (req : Nat)
  /-- A parked row of a task being saved, withdrawn from its port (R427). -/
  | withdrawn
  /-- Translated. -/
  | ready (leaf : Leaf)
  /-- Answered without memory, by the fault policy: 1 zero, 2 poison (R131, R290). -/
  | answer (pol : Nat)
  /-- Parked under a fault record, or waiting for one (R444). -/
  | parked (fid : Option Nat)
  /-- Performed; a load's data is on its way. -/
  | performed
  /-- The reply arrived in this cycle and has not landed (R108). -/
  | arrived (cycle : Nat)
  deriving DecidableEq, Repr

/-- A memory request (R282, R291, R294). -/
structure Req where
  id     : Nat
  kind   : ReqKind
  state  : ReqState
  /-- Context key, cell (64 for the sequencer) and region of the issuer; program order; its effect's number. -/
  ctxKey : Nat
  cell   : Nat
  region : Nat
  seq    : Nat
  eff    : Nat
  /-- Layer whose port it left. -/
  lay    : Nat
  obj    : BitVec 24
  off    : Nat
  asid   : BitVec 12
  ctr    : Option Nat
  data   : Row
  pois   : Bool
  /-- Region committed. -/
  committed : Bool
  /-- Cycle of a load's issue, and of a store's or atomic's release (R128, R498). -/
  ready  : Nat
  /-- Reply to be thrown away (R51, R292). -/
  dropped : Bool
  /-- Tagged with a save record's SRID (R427). -/
  srid   : Option Nat
  /-- Address and slot of the form it serves (R421). -/
  baddr  : DWord := 0
  slot   : Nat := 0
  deriving DecidableEq, Repr

/-- A released effect that has not ended (R124, R126). -/
structure Released where
  id     : Nat
  ctxKey : Nat
  /-- Layer of the issuer. -/
  lay    : Nat
  seq    : Nat
  effect : Effect
  /-- 0 waits as a release; 1 waits at the head for room; 2 performing; 3 SEND ready; 4 departed. -/
  phase  : Nat
  /-- NTSTs a DRAIN has gathered precede it (R129): the effects it waits for. -/
  gather : List Nat
  /-- SEND: ready tick, transfer bytes left, poison (R204, R458). TLAUNCH: the cycle from which it waits for room (R402). -/
  tick   : Nat
  left   : Nat
  pois   : Bool
  /-- SEND: the source bytes as read (R203). -/
  data   : List Byte
  /-- Address and slot of its form (R421). -/
  form   : DWord × Nat := (0, 0)
  deriving DecidableEq, Repr

/-- A saved task (R411, R428): the record's number, where it stands, and its outstanding tagged items. -/
structure Saved where
  srid  : Nat
  cap   : Cap
  outst : Nat
  /-- Launch records of the task, and the ASID its record is reached with. -/
  recs  : List Nat
  asid  : BitVec 12
  deriving DecidableEq, Repr

/-- A gang at its coordinator (R412, R413). -/
structure Gang where
  gid    : BitVec 16
  count  : Nat
  ready  : List (Nat × Nat)
  first  : Nat
  start  : Option DWord
  failed : Bool
  deriving DecidableEq, Repr

/-- An entry of a transfer plan (R455). -/
structure PlanEntry where
  word0 : DWord
  word1 : DWord
  word2 : DWord
  deriving DecidableEq, Repr

/-- What the step function does next. -/
inductive Phase where
  /-- A tower cycle begins: due events are put on the agenda. -/
  | start
  /-- The waits of every layer are evaluated after the cycle's updates (R191). -/
  | waits
  /-- Layer `lay` looks for a bundle to issue. -/
  | issue (lay : Nat)
  /-- The open bundle's next slot executes. -/
  | slots
  /-- The layer's step ends. -/
  | advance (lay : Nat)
  /-- The release waits that end in this cycle, and what the tower controller selects, are put on the agenda. -/
  | close
  /-- The cycle ends. -/
  | finish
  deriving DecidableEq, Repr

/-- The open bundle (R134, R138). -/
structure Latch where
  words  : List Word
  slot   : Nat
  limm   : Option (BitVec 21)
  baddr  : DWord
  next   : DWord
  bctl   : Bctl
  /-- Issue order of the bundle in its layer. -/
  seq    : Nat
  flight : List FSlot
  deriving DecidableEq, Repr

def Latch.empty : Latch :=
  { words := [], slot := 0, limm := none, baddr := 0, next := 0, bctl := .zero, seq := 0, flight := [] }

/-- The whole package. -/
structure State where
  /-- Package and domain numbers (R142). -/
  pkg     : BitVec 8
  dom     : BitVec 6
  /-- Boot steps completed (R473). -/
  boot    : Nat
  config  : Option ConfigRecord
  rollback : Nat
  revoke  : BitVec 4
  firmware : BitVec 384
  configHash : BitVec 384
  keyIndex : Nat
  /-- Fused hashes of key pairs 0–3 (R472), package flash (R476), and the seed derived at boot (R474). -/
  keyHashes : Map (BitVec 256)
  flash   : Flash
  seed    : Option (BitVec 256)
  /-- Substitution count of the package's identity (R463). -/
  count   : BitVec 32
  /-- Domain key (R433). -/
  kcap    : Option (BitVec 128)
  tick    : DWord
  /-- OTBASE (R437), TINV (R443), HMASK and HRET (R450). -/
  otbase  : BitVec 20
  tinvMode : BitVec 2
  tinvObj : BitVec 24
  tinvVpn : BitVec 24
  tinvBusy : Bool
  tinvWait : List Nat
  hmask   : Map (BitVec 40)
  hret    : BitVec 10
  /-- PLCTL, PLSW (R456) and the two banks of plans. -/
  plNent  : BitVec 12
  plNbase : BitVec 28
  plLogp  : BitVec 5
  plCur   : Bool
  plArm   : Bool
  plTick  : DWord
  plan    : List PlanEntry
  planLogp : Nat
  planNext : Option (List PlanEntry × Nat)
  /-- The tick at which the next plan's read completed; the tick from which the plan is in force; the plans before it, latest
  first, each with the tick from which it was (R456, R457). -/
  planRead : Nat
  planSince : Nat
  planPast : List (Nat × List PlanEntry × Nat)
  /-- FTIME (R468). -/
  ftUpl   : BitVec 5
  ftUpt   : Bool
  ftGm    : Bool
  ftLock  : Bool
  ftLoff  : BitVec 16
  ftStepped : Bool
  /-- The locked counter's rate: a tick added (1), withheld (−1) or neither in so many ticks, and those that have passed since
  the last (R469). -/
  ftRate  : Int
  ftEvery : Nat
  ftCount : Nat
  /-- PWRLIM (R495). -/
  pwrLimit : BitVec 16
  pwr     : BitVec 16
  /-- Milliseconds of ticks at the last comparison with the limit (R495). -/
  pwrMs   : Nat
  /-- HBM: bytes, and the tags of 16-byte granules (R24, R435). -/
  mem     : List Host.Cell
  /-- Units of 32 bytes whose reads of this cycle are uncorrectable (R479). -/
  badReads : List Nat
  tags    : List Nat
  tlb     : List Tlb
  reqs    : List Req
  released : List Released
  saved   : List Saved
  gangs   : List Gang
  /-- Status entries in the host's ring not yet freed, and their count limit (R402). -/
  status  : List Status
  linkUp  : Bool
  /-- The adapter's window table, words 0 and 1 of each entry in use (R398, R448). Only the host writes it. -/
  windows : Map (DWord × DWord)
  mail    : List Mail
  towers  : Map Tower
  layers  : Map Layer
  ctxs    : Map Ctx
  cells   : Map Cell
  cellCtxs : Map CellCtx
  /-- Numbers for regions' effects, requests and records. -/
  nextId  : Nat
  /-- MODEL'S OWN. How many free choices have been taken (notes/assumptions/2.md). -/
  choice  : Nat
  /-- MODEL'S OWN. Layer and context that the slot in hand belongs to. -/
  lay     : Nat
  ctx     : Nat
  /-- MODEL'S OWN. Cell whose routine the micro-operation in hand belongs to. -/
  cell    : Nat
  latch   : Latch
  phase   : Phase
  agenda  : List Instr
  deriving DecidableEq, Repr

/-- The package at power-on reset, before boot (R473): nothing installed, every layer off, memory not written.
DESIGN CHOICE: notes/assumptions/7.md. -/
def State.reset : State :=
  { pkg := 0, dom := 0, boot := 0, config := none, rollback := 0, revoke := 0, firmware := 0, configHash := 0,
    keyIndex := 0, keyHashes := [], flash := .blank, seed := none, count := 0, kcap := none, tick := 0, otbase := 0, tinvMode := 0, tinvObj := 0, tinvVpn := 0,
    tinvBusy := false, tinvWait := [], hmask := [], hret := 0, plNent := 0, plNbase := 0, plLogp := 20,
    plCur := false, plArm := false, plTick := 0, plan := [], planLogp := 20, planNext := none, planRead := 0, planSince := 0, planPast := [],
    ftUpl := 0,
    ftUpt := false, ftGm := false, ftLock := false, ftLoff := 0, ftStepped := false, ftRate := 0, ftEvery := 0, ftCount := 0,
    pwrLimit := 3600, pwr := 0, pwrMs := 0, mem := [], badReads := [], tags := [], tlb := [], reqs := [], released := [], saved := [],
    gangs := [], status := [], linkUp := false, windows := [], mail := [], towers := [], layers := [], ctxs := [], cells := [],
    cellCtxs := [], nextId := 0, choice := 0, lay := 0, ctx := 0, cell := 0, latch := .empty, phase := .start,
    agenda := [] }

end Sys2Proof.Machine
end

