-- ==== Sys2Proof/Machine/Bits.lean ====
section
/-!
DEFINITION. Sparse tables, lanes, rows, bytes and sign extension: the helpers every meaning uses (R4, R7, R218).
-/

namespace Sys2Proof.Machine

/-! ### Sparse tables -/

/-- The value listed at a key. -/
def mapFind {α : Type} : Map α → Nat → Option α
  | [], _ => none
  | (k, v) :: r, i => if k = i then some v else mapFind r i

/-- The value at a key, `d` where none is listed. -/
def mapGet {α : Type} (d : α) (m : Map α) (i : Nat) : α :=
  match mapFind m i with
  | some v => v
  | none => d

def mapErase {α : Type} : Map α → Nat → Map α
  | [], _ => []
  | (k, v) :: r, i => if k = i then mapErase r i else (k, v) :: mapErase r i

/-- Lists `v` at `i`, keys rising. -/
def mapInsert {α : Type} : Map α → Nat → α → Map α
  | [], i, v => [(i, v)]
  | (k, w) :: r, i, v =>
    if i < k then (i, v) :: (k, w) :: r else if k = i then (i, v) :: r else (k, w) :: mapInsert r i v

/-- Writes `v` at `i`; the value an unlisted key reads as is not listed, so equal tables are equal data. -/
def mapSet {α : Type} [DecidableEq α] (d : α) (m : Map α) (i : Nat) (v : α) : Map α :=
  if v = d then mapErase m i else mapInsert m i v

/-- The canonical form: keys strictly rising from `lo`, no entry equal to `d`. -/
def mapWfFrom {α : Type} [DecidableEq α] (d : α) : Nat → Map α → Bool
  | _, [] => true
  | lo, (k, v) :: r => decide (lo ≤ k) && decide (v ≠ d) && mapWfFrom d (k + 1) r

def mapWf {α : Type} [DecidableEq α] (d : α) (m : Map α) : Bool := mapWfFrom d 0 m

/-! ### Lanes and rows -/

/-- Lane l of 1024 (R7). -/
def lane (v : Lanes) (l : Nat) : Word := v.extractLsb' (32 * l) 32

/-- The number whose bits 32·l are `f l`, for l below the count. -/
def lanesNat (f : Nat → Word) : Nat → Nat
  | 0 => 0
  | n + 1 => lanesNat f n + (f n).toNat * 2 ^ (32 * n)

def lanesOf (f : Nat → Word) : Lanes := BitVec.ofNat 32768 (lanesNat f 1024)

/-- The 1024-bit word with bit l set where `f l` holds. -/
def bitsNat (f : Nat → Bool) : Nat → Nat
  | 0 => 0
  | n + 1 => bitsNat f n + (if f n then 2 ^ n else 0)

def bitsOf (f : Nat → Bool) : Row := BitVec.ofNat 1024 (bitsNat f 1024)

/-- Word w of a 128-byte row (R89). -/
def rowWord (r : Row) (w : Nat) : Word := r.extractLsb' (32 * w) 32

def rowOf (f : Nat → Word) : Row := BitVec.ofNat 1024 (lanesNat f 32)

/-- Byte b of a row. -/
def rowByte (r : Row) (b : Nat) : Byte := r.extractLsb' (8 * b) 8

def bytesNat (f : Nat → Byte) : Nat → Nat
  | 0 => 0
  | n + 1 => bytesNat f n + (f n).toNat * 2 ^ (8 * n)

def rowOfBytes (f : Nat → Byte) : Row := BitVec.ofNat 1024 (bytesNat f 128)

/-- Row n (32 lanes) of a 1024-lane value, and a row placed at lane group n. -/
def lanesRow (v : Lanes) (n : Nat) : Row := v.extractLsb' (1024 * n) 1024
def rowLanes (r : Row) (n : Nat) : Lanes := r.setWidth 32768 <<< (1024 * n)

/-- All 32 bits of each lane l with `f l` (a mask for landing). -/
def laneMask (f : Nat → Bool) : Lanes := lanesOf (fun l => if f l then 0xFFFFFFFF else 0)

/-- Every bit of the low w bits. -/
def onesMask (w : Nat) : Lanes := BitVec.ofNat 32768 (2 ^ w - 1)

/-- Element j of width w in a lane word (R218). -/
def elemAt (w : Nat) (x : Word) (j : Nat) : Nat := (x.toNat >>> (w * j)) % 2 ^ w

/-- A lane word from its elements of width w. -/
def elemsNat (w : Nat) (f : Nat → Nat) : Nat → Nat
  | 0 => 0
  | n + 1 => elemsNat w f n + (f n % 2 ^ w) * 2 ^ (w * n)

def elemsOf (w : Nat) (f : Nat → Nat) : Word := BitVec.ofNat 32 (elemsNat w f (32 / w))

/-- The two's complement value of a w-bit code (R83). -/
def signed (w : Nat) (x : Nat) : Int := if x % 2 ^ w < 2 ^ (w - 1) then x % 2 ^ w else (x % 2 ^ w : Int) - 2 ^ w

/-- The w-bit code of an integer, wrapping (R83). -/
def wrapInt (w : Nat) (x : Int) : Nat := (x % (2 ^ w : Int)).toNat

/-- Sets bit j, field bits. -/
def setBitTo {n : Nat} (x : BitVec n) (j : Nat) (b : Bool) : BitVec n :=
  (x &&& ~~~ (BitVec.ofNat n (2 ^ j))) ||| (if b then BitVec.ofNat n (2 ^ j) else 0)

/-- Field hi:lo of a double word. -/
def fld (x : DWord) (lo w : Nat) : Nat := (x.toNat >>> lo) % 2 ^ w

/-- The new value of a location: `val` where `mask` is set, `old` elsewhere. -/
def merge (old mask val : Lanes) : Lanes := (old &&& ~~~ mask) ||| (val &&& mask)

/-- Little-endian bytes (R4). -/
def leBytes : Nat → Nat → List Byte
  | 0, _ => []
  | n + 1, v => BitVec.ofNat 8 v :: leBytes n (v / 256)

def ofLe : List Byte → Nat
  | [] => 0
  | b :: r => b.toNat + 256 * ofLe r

/-- Signed extension of a w-bit field to a double word (R147). -/
def sextNat (w v : Nat) : DWord := BitVec.ofInt 64 (signed w v)

/-- All naturals below n. -/
def upto (n : Nat) : List Nat := List.range n

/-- The parity of a number's low bits (R449). -/
def parity : Nat → Nat → Bool
  | 0, _ => false
  | n + 1, v => (v % 2 == 1) != parity n (v / 2)

end Sys2Proof.Machine
end

