-- ==== Sys2Proof/WellFormed.lean ====
section
/-!
DEFINITION. When an instruction's subfields and operand codes are ones the manual assigns (R133, R135, R139, R141 to
R145, and the tables of illegal uses in each chapter), and when an event's operands name a place the package has.
A slot that is not well-formed raises ILLEGAL at decode (R138).
-/

namespace Sys2Proof

/-- A scalar destination names s0–s63 (R141). -/
def dstS (c : BitVec 7) : Bool := c.toNat < 64
/-- A scalar source names s0–s63 or a special 64–81 (R141, R142). -/
def srcS (c : BitVec 7) : Bool := c.toNat ≤ 81
/-- A cell scalar source names x0–x31, s0–s31 or a special (R143). -/
def srcX (c : BitVec 7) : Bool := c.toNat ≤ 81
/-- A cell scalar destination names x0–x31 (R143). -/
def dstX (c : BitVec 7) : Bool := c.toNat < 32
/-- A vector register group of g registers from this code (R144, R218). -/
def vGroup (c : BitVec 7) (g : Nat) : Bool := c.toNat + g ≤ 96
/-- A predicate code 96–111 (R144). -/
def isP (c : BitVec 7) : Bool := 96 ≤ c.toNat && c.toNat ≤ 111
/-- g0–g15 in a seven-bit field, k0–k7 and m0–m7 likewise (R145). -/
def isG (c : BitVec 7) : Bool := c.toNat < 16
def isK (c : BitVec 7) : Bool := c.toNat < 8
/-- A rounding mode of R76. -/
def isRm (r : BitVec 3) : Bool := r.toNat ≤ 4
/-- A source or destination format of VCVT (R135). -/
def isCvtFmt (f : BitVec 4) : Bool := f.toNat ≤ 4 || (7 ≤ f.toNat && f.toNat ≤ 12)
/-- The narrow format of VQUANT and VDEQ: MXINT8 or L6 (R135). -/
def isBlockFmt (f : BitVec 4) : Bool := f == 5 || f == 6
/-- A scope of R192. -/
def isScope (c : BitVec 3) : Bool := c.toNat ≤ 4

/-- The width in bits of an element format (R66). -/
def fmtWidth (f : Nat) : Nat :=
  match f with
  | 0 | 11 | 12 => 32
  | 1 | 2 | 9 | 10 => 16
  | 6 => 6
  | _ => 8

/-- Registers of the source and destination group of VCVT (R231): the wider side is a group. -/
def cvtSrcRegs (d c : Nat) : Nat := max 1 (fmtWidth c / fmtWidth d)
def cvtDstRegs (d c : Nat) : Nat := max 1 (fmtWidth d / fmtWidth c)

/-- The subfield codes checked with class and function (R138 check 2: R135, R139); the scope codes of FLADD, FLSET and
FENCE (R192) are counted among them. DESIGN CHOICE: notes/assumptions/41.md. -/
def Instr.subfieldsOk : Instr → Bool
  | .bctl _ _ _ _ _ fw iw _ _ => fw != 3 && iw != 3
  | .vcvt f _ _ rm c => isCvtFmt f && isCvtFmt c && isRm rm
  | .vcvts f _ _ rm c => isCvtFmt f && isCvtFmt c && isRm rm
  | .vquant _ _ rm n => isRm rm && isBlockFmt n
  | .vdeq _ _ rm n => isRm rm && isBlockFmt n
  | .fladd c .. | .flset c .. => isScope c
  | .fence c _ _ => isScope c
  | _ => true

/-- Three scalar operands (R156, R160). -/
def okS3 (d a b : BitVec 7) : Bool := dstS d && srcS a && srcS b
/-- Three cell scalar operands (R220). -/
def okX3 (d a b : BitVec 7) : Bool := dstX d && srcX a && srcX b
/-- Three vector operands (R221, R228). -/
def okV3 (d a b : BitVec 7) : Bool := vGroup d 1 && vGroup a 1 && vGroup b 1
/-- Two vector operands. -/
def okV2 (d a : BitVec 7) : Bool := vGroup d 1 && vGroup a 1
/-- A compare: a predicate destination and two vector sources (R222, R229). -/
def okC3 (d a b : BitVec 7) : Bool := isP d && vGroup a 1 && vGroup b 1
/-- Three predicates (R236). -/
def okP3 (d a b : BitVec 7) : Bool := isP d && isP a && isP b
/-- The event's layer key, 8·tower + logical layer. -/
def isLay (l : Nat) : Bool := l < 16
/-- A task context 0–3, or the supervisor context 4 (R15, R497). -/
def isCtx (c : Nat) : Bool := c < 5
def isTower (t : Nat) : Bool := t < 2
/-- An optical link 0–23 (R452). -/
def isLink (t f : Nat) : Bool := t < 2 && f < 24

/-- The operand codes and must-be-zero fields (R138 check 5), and the ranges of an event's operands. -/
def Instr.operandsOk : Instr → Bool
  | .nop | .tlaunch .. | .yield | .trap _ | .limm _ | .bctl .. => true
  | .texit a | .eret a | .eretKill a => srcS a
  | .mfsr d _ => dstS d
  | .mtsr a _ => srcS a
  | .lsleepDoze _ a | .lsleepOff _ a | .lwake _ a => srcS a
  | .lstld _ _ a b | .mpsld _ _ a b => srcS a && srcS b
  | .add d a b | .sub d a b | .and d a b | .or d a b | .xor d a b | .andn d a b | .shl d a b | .shr d a b
  | .sar d a b | .mul d a b | .mulh d a b | .mulhu d a b | .min d a b | .max d a b | .minu d a b | .maxu d a b
  | .seq d a b | .sne d a b | .slt d a b | .sltu d a b | .div d a b | .divu d a b | .rem d a b
  | .remu d a b => okS3 d a b
  | .addi d _ | .andi d _ | .ori d _ | .xori d _ | .shli d _ | .shri d _ | .sari d _ | .muli d _ | .mini d _
  | .maxi d _ | .slti d _ | .seqi d _ | .li d _ => dstS d
  | .ldd d a b | .ldw d a b | .ldwu d a b | .std d a b | .stw d a b => okS3 d a b
  | .bprepRelative .. => true
  | .bprepRegister _ a => srcS a
  | .bcmp c _ a b => c.toNat ≤ 7 && srcS a && srcS b
  | .bcmpi c _ a _ => c.toNat ≤ 7 && srcS a
  | .bxfer .. | .bpois .. => true
  | .call d _ => dstS d
  | .ret a => dstS a
  | .loopTable .. | .loopRegister .. => true
  | .vany k p | .vall k p => isK k && isP p
  | .vcount d p => dstS d && isP p
  | .pvote k | .pvoteClr k => isK k
  | .fladd _ _ a b | .flset _ _ a b | .flwait _ _ a b => srcS a && srcS b
  | .cwait _ _ => true
  | .fence _ acq rel => acq || rel
  | .epush _ a => srcS a
  | .epop d _ => dstS d
  | .send _ _ _ a => srcS a
  | .realign _ a => srcS a
  | .cderive d g a => isG d && isG g && a.toNat < 64 && !a.getLsbD 0
  | .cnarrow d _ _ _ => isG d
  | .cst v b o => isG v && isG b && srcS o
  | .cld _ _ b o => isG b && srcS o
  | .ccheck _ _ o l => srcS o && srcS l
  | .xadd d a b | .xsub d a b | .xmul d a b | .xand d a b | .xior d a b | .xeor d a b | .xshl d a b
  | .xshr d a b | .xsar d a b | .xmin d a b | .xmax d a b => okX3 d a b
  | .xaddi d _ | .xli d _ => dstX d
  | .vld d _ _ _ | .vldStraight d _ _ | .vldx d _ _ _ => vGroup d 1
  | .vst d _ _ _ | .vstStraight d _ _ | .vstx d _ _ _ => vGroup d 1
  | .vldDec d _ | .vstEnc d _ => vGroup d 2
  | .bcopy r rl w wl _ _ => (!r || rl == 0) && (!w || wl == 0)
  | .vperm d a _ => okV2 d a
  | .llast le _ => le.toNat < 56
  | .esend dm a _ => dm != 0 && vGroup a 1
  | .erecv d _ _ => vGroup d 1
  | .halo dm _ => dm != 0
  | .vadd d a b | .vsub d a b | .vadds d a b | .vsubs d a b | .vmul d a b | .vmulh d a b | .vmin d a b
  | .vmax d a b | .vand d a b | .vior d a b | .veor d a b | .vshl d a b | .vshr d a b => okV3 d a b
  | .vabs d a => okV2 d a
  | .vcmpeq d a b | .vcmplt d a b => okC3 d a b
  | .vsel d p a => vGroup d 1 && isP p && vGroup a 1
  | .vrng d g c => vGroup d (g.toNat + 1) && srcX c
  | .vfadd d a b | .vfsub d a b | .vfmul d a b | .vfma d a b | .vfnma d a b | .vfmin d a b
  | .vfmax d a b => okV3 d a b
  | .vfabs d a | .vfneg d a | .vfrcp d a | .vfrsq d a | .vfexp2 d a | .vflog2 d a | .vfsqrt d a => okV2 d a
  | .vfcmpeq d a b | .vfcmplt d a b | .vfcmple d a b => okC3 d a b
  | .vcvt f d a _ c | .vcvts f d a _ c =>
      vGroup d (cvtDstRegs f.toNat c.toNat) && vGroup a (cvtSrcRegs f.toNat c.toNat)
  | .vquant d a _ _ => vGroup d 2 && vGroup a 4
  | .vdeq d a _ _ => vGroup d 4 && vGroup a 2
  | .pand d a b | .pior d a b | .peor d a b | .pandn d a b => okP3 d a b
  | .pnot d a => isP d && isP a
  | .pall d | .pnone d => isP d
  | .scan d a _ op ty | .reduce d a _ op ty | .segscan d a _ op ty => okV2 d a && op != 3 && ty != 3
  | .topk d a _ _ ty => vGroup d 2 && vGroup a 1 && ty != 3
  | .sort d a g _ ty => vGroup d 2 && vGroup a 1 && g.toNat ≤ 5 && ty != 3
  | .compact d a _ => okV2 d a
  | .hist d a _ => okV2 d a
  | .awlGather le a pen pp | .awlScatter le a pen pp => 56 ≤ le.toNat && vGroup a 1 && (pen || pp == 0)
  | .mpar m a => isK m && srcX a
  | .mcall _ _ => true
  | .mldw _ fmt str le _ => fmt != 0 && fmt != 7 && (!str || le == 0)
  | .mldwScl _ str le _ => !str || le == 0
  | .msel _ => true
  | .amov d _ _ _ | .amovClr d _ _ _ | .amovTo d _ _ _ => vGroup d 1
  | .aclr _ _ => true
  | .atopk w le _ _ _ => !w || le == 0
  | .tld _ _ _ _ _ | .tst .. | .ald .. | .ast .. | .ntst .. | .drain _ => true
  | .amo _ _ d op ty _ => vGroup d 2 && op != 7 && ty != 3 && !(ty == 2 && (op == 3 || op == 4 || op == 5))
  | .cas _ _ d _ => vGroup d 3
  | .red _ _ d op ty =>
      vGroup d 2 && op != 7 && op != 6 && ty != 3 && !(ty == 2 && (op == 3 || op == 4 || op == 5))
  | .sbst v lg cnt _ | .sbld v lg cnt _ => vGroup v 1 && lg.toNat + cnt.toNat ≤ 31
  | .endm | .rowin | .step | .accum _ | .plane _ | .rstc | .abas _ | .tadd _ => true
  | .loopm len csrc n => len != 0 && (csrc == 0 || n == 0)
  | .waitin n => n != 0
  | .flrstWrite l _ | .fservWrite l _ => isLay l
  | .preqSave l c g => isLay l && c < 4 && g < 16
  | .preqKill l c => isLay l && c < 4
  | .hostPreemptRecord l c _ _ => isLay l && c < 4
  | .tinvAll | .tinvObject _ | .tinvPage .. => true
  | .plctlArm nent _ logp => nent != 0 && 14 ≤ logp.toNat && logp.toNat ≤ 24
  | .lstatClear t f _ => isLink t f
  | .sotWrite t n _ => isTower t && n < 16
  | .regionCommit l c | .waitSatisfied l c | .resumeHoldEnd l c | .watchdog l c => isLay l && isCtx c
  | .priorityAgeing l c | .starvationSwitch l c => isLay l && isCtx c
  | .freezeSwitch l | .waitPass l | .laggingHit l | .late l _ => isLay l
  | .timedLanding l c _ => isLay l && c < 64
  | .copyRowArrival _ | .cldDataArrival _ | .atomicReply _ | .loadPerform _ | .storePerform _
  | .atomicPerform _ | .releaseWaitEnd _ => true
  | .flagUpdateApply l _ => isLay l
  | .stackBusSlot t | .stackBeatApply t _ _ => isTower t
  | .epushDeferred l c | .tlaunchDeferredAppend l c => isLay l && isCtx c
  | .eyeletWordSend l e | .eyeletWordArrival l e _ | .eyeletCredit l e => isLay l && e < 16
  | .sendReady _ | .sendDepart _ => true
  | .flitArrival t f _ => isTower t && f < 33
  | .shortNetworkSlot t p => isTower t && p < 8
  | .flitReplay t f _ | .flitAck t f _ | .keyPhaseExhausted t f => isLink t f
  | .keyInstall t f _ | .keyRolloverComplete t f => isTower t && f < 32
  | .laneFailure t f k => isLink t f && k < 16
  | .linkEnable t f | .lanesLock t f _ | .trainTimeout t f | .identify t f _ _ _ _ | .quarantineRelease t f
  | .linkDisable t f | .timestampExchangeDone t f _ _ _ _ | .staleTimeout t f => isLink t f
  | .planSwitch => true
  | .slotTableLoad t p k _ => isTower t && p < 8 && k < 256
  | .launchFrame .. | .restoreFrame .. | .statusRingFree _ => true
  | .schedulerSelect t => isTower t
  | .headAgeing t q => isTower t && q < 16
  | .placementComplete l c | .gangStartTick l c => isLay l && c < 4
  | .gangReady .. | .gangTimeout _ | .gangFail _ => true
  | .gangStart t _ _ | .gangAbort t _ => isTower t
  | .taskRetire l c => isLay l && c < 4
  | .trapRecordWrite l c | .heldTrapEffect l c | .killRelease l c => isLay l && isCtx c
  | .preemptEffect l c | .saveRecordWrite l c => isLay l && c < 4
  | .taggedItemComplete _ => true
  | .hostTrapResume l c | .hostTrapKill l c => isLay l && isCtx c
  | .hostWalkReply _ _ lv => lv < 3
  | .hostFaultServiced l _ => isLay l
  | .hostServoReply c => isTower c.tower
  | .hostPlaceReply t _ => isTower t
  | .hostSpareReply t l => isTower t && l < 8
  | .translationWalk _ | .remoteRequest .. | .tinvComplete | .lastStoreLoadComplete _ => true
  | .layerTransitionStart l | .layerTransitionDone l | .keeperCopyDone l => isLay l
  | .powerCheck _ => true
  | .junctionHot t _ | .junctionCooled t _ | .junctionCritical t _ | .divChange t => isTower t
  | .softError code t p k c _ _ => 1 ≤ code && code ≤ 14 && isTower t && p < 9 && k < 64 && c < 8
  | .networkRetry l k c _ => isLay l && k < 64 && isCtx c
  | .columnRetryExcess t k => isTower t && k < 64
  | .layerFailure t p => isTower t && p < 9
  | .telemetryReadClear t => isTower t
  | .powerOnReset .. | .kcapInstall _ | .attestationRequest _ => true
  | .supervisorInstall i => isTower i.tower
  | .stavouxLinkFailure | .stavouxLinkRetrain => true
  | .stepAdvance l => isLay l

/-- Well-formed: every subfield and operand code is one the manual assigns. -/
def Instr.wellFormed (i : Instr) : Bool := i.subfieldsOk && i.operandsOk

end Sys2Proof
end

