-- ==== Sys2Proof/Machine/Numbers.lean ====
section
/-!
DEFINITION. Numbers: exact values, the element formats and one rounding to each (R66 to R71, R75 to R82).

An exact real other than zero is given by its sign, ⌊log2|x|⌋, ⌊|x|·2^k⌋ for each k, and whether |x|·2^k is an
integer. Every conversion rounds such a value once.
-/

namespace Sys2Proof.Machine

/-- An exact real, not zero. -/
structure Exact where
  neg : Bool
  lg  : Int
  fl  : Int → Nat
  int : Int → Bool

/-- A number with its special cases: a NaN keeps its sign and its fraction, aligned to 23 bits. -/
inductive Val where
  | nan (neg : Bool) (frac : Nat) (half : Bool)
  | inf (neg : Bool)
  | zero (neg : Bool)
  | real (x : Exact)

/-- ⌊m·2^e⌋. -/
def scaleNat (m : Nat) (e : Int) : Nat := if 0 ≤ e then m * 2 ^ e.toNat else m / 2 ^ (-e).toNat

/-- (−1)^s·m·2^e with m > 0. -/
def dyadic (neg : Bool) (m : Nat) (e : Int) : Exact :=
  { neg := neg, lg := (Nat.log2 m : Int) + e, fl := fun k => scaleNat m (e + k),
    int := fun k => 0 ≤ e + k || m % 2 ^ (-(e + k)).toNat == 0 }

def ofDyadic (neg : Bool) (m : Nat) (e : Int) : Val := if m = 0 then .zero neg else .real (dyadic neg m e)

/-- The integer square root, bit by bit from bit n. -/
def isqrtFrom : Nat → Nat → Nat → Nat
  | 0, _, r => r
  | n + 1, v, r => let t := r + 2 ^ n; isqrtFrom n v (if t * t ≤ v then t else r)
def isqrt (v : Nat) : Nat := isqrtFrom (Nat.log2 v / 2 + 1) v 0

/-- 2^(p/4) with a sign: the magnitude of an L6 element (R69). -/
def quarterPow (neg : Bool) (p : Int) : Exact :=
  { neg := neg, lg := p / 4,
    fl := fun k => if 0 ≤ p + 4 * k then isqrt (isqrt (2 ^ (p + 4 * k).toNat)) else 0,
    int := fun k => p % 4 == 0 && 0 ≤ p + 4 * k }

/-! ### Rounding to a grid of spacing 2^q (R75 to R77) -/

/-- |x| rounded to a multiple of 2^q, in units of 2^q. `u` is the draw of mode 4. -/
def Exact.round (x : Exact) (rm : Nat) (u : Nat) (q : Int) : Nat :=
  let lo := x.fl (-q)
  if x.int (-q) then lo
  else match rm with
    | 0 =>
      let h := x.fl (1 - q)
      if h % 2 = 0 then lo else if x.int (1 - q) then (if lo % 2 = 0 then lo else lo + 1) else lo + 1
    | 1 => lo
    | 2 => if x.neg then lo else lo + 1
    | 3 => if x.neg then lo + 1 else lo
    | _ => if u < x.fl (32 - q) - lo * 2 ^ 32 then lo + 1 else lo

/-! ### Float formats -/

/-- Exponent bits, fraction bits, bias, and whether infinities and NaNs exist (R66, R68). -/
structure FloatFmt where
  eb : Nat
  fb : Nat
  bias : Nat
  ieee : Bool
  deriving DecidableEq, Repr

def fp32 : FloatFmt := { eb := 8, fb := 23, bias := 127, ieee := true }
def bf16 : FloatFmt := { eb := 8, fb := 7, bias := 127, ieee := true }
def fp16 : FloatFmt := { eb := 5, fb := 10, bias := 15, ieee := true }
def e4m3 : FloatFmt := { eb := 4, fb := 3, bias := 7, ieee := false }
def e5m2 : FloatFmt := { eb := 5, fb := 2, bias := 15, ieee := false }

def FloatFmt.width (f : FloatFmt) : Nat := 1 + f.eb + f.fb
def FloatFmt.emin (f : FloatFmt) : Int := 1 - f.bias
/-- The largest finite code without its sign. -/
def FloatFmt.maxCode (f : FloatFmt) : Nat :=
  if f.ieee then (2 ^ f.eb - 1) * 2 ^ f.fb - 1 else 2 ^ (f.eb + f.fb) - 1
def FloatFmt.infCode (f : FloatFmt) : Nat := (2 ^ f.eb - 1) * 2 ^ f.fb
def FloatFmt.signCode (f : FloatFmt) (neg : Bool) : Nat := if neg then 2 ^ (f.eb + f.fb) else 0
/-- The canonical NaN (R67). -/
def FloatFmt.canonNan (f : FloatFmt) : Nat := f.infCode + 2 ^ (f.fb - 1)

/-- A finite magnitude n·2^q as a code without sign, exponent unbounded: codes beyond `maxCode` are overflow. -/
def FloatFmt.encodeMag (f : FloatFmt) (n : Nat) (q : Int) : Nat :=
  if n = 0 then 0
  else
    let l : Int := (Nat.log2 n : Int) + q
    if l < f.emin then scaleNat n (q - (f.emin - f.fb))
    else ((l + f.bias).toNat) * 2 ^ f.fb + (scaleNat n (q - (l - f.fb)) - 2 ^ f.fb)

/-- The value of a code (R66 to R68). -/
def FloatFmt.decode (f : FloatFmt) (c : Nat) : Val :=
  let neg := c / 2 ^ (f.eb + f.fb) % 2 == 1
  let e := c / 2 ^ f.fb % 2 ^ f.eb
  let m := c % 2 ^ f.fb
  if f.ieee && e == 2 ^ f.eb - 1 then
    if m = 0 then .inf neg else .nan neg (m * 2 ^ (23 - f.fb)) (f.eb == 5)
  else if e = 0 then ofDyadic neg m (f.emin - f.fb)
  else ofDyadic neg (2 ^ f.fb + m) ((e : Int) - f.bias - f.fb)

/-- A NaN operand as a result: its fraction's leading bit set; FP32 and BF16 NaNs become sign | 0x7E00 in FP16
(R67). -/
def FloatFmt.nanCode (f : FloatFmt) (neg : Bool) (frac : Nat) (half : Bool) : Nat :=
  f.signCode neg + (if f.eb = 5 ∧ ¬ half then f.canonNan
    else f.infCode + (frac / 2 ^ (23 - f.fb) ||| 2 ^ (f.fb - 1)))

/-- A wide float result (R67, R80); `sat` is the saturating form of VCVT. -/
def FloatFmt.roundWide (f : FloatFmt) (sat : Bool) (rm u : Nat) (v : Val) : Nat :=
  match v with
  | .nan neg frac half => f.nanCode neg frac half
  | .inf neg => f.signCode neg + f.infCode
  | .zero neg => f.signCode neg
  | .real x =>
    let q := max (x.lg - f.fb) (f.emin - f.fb)
    let c := f.encodeMag (x.round rm u q) q
    let c := if c ≤ f.maxCode then c
      else if sat then f.maxCode
      else match rm with
        | 1 => f.maxCode
        | 2 => if x.neg then f.maxCode else f.infCode
        | 3 => if x.neg then f.infCode else f.maxCode
        | _ => f.infCode
    f.signCode x.neg + c

/-- A narrow float result and whether it saturated (R78, R79). -/
def FloatFmt.roundNarrow (f : FloatFmt) (rm u : Nat) (v : Val) : Nat × Bool :=
  match v with
  | .nan neg _ _ => (f.signCode neg + f.maxCode, true)
  | .inf neg => (f.signCode neg + f.maxCode, true)
  | .zero neg => (f.signCode neg, false)
  | .real x =>
    let q := max (x.lg - f.fb) (f.emin - f.fb)
    let c := f.encodeMag (x.round rm u q) q
    (f.signCode x.neg + min c f.maxCode, f.maxCode < c)

/-! ### Integers (R78, R80, R83) -/

/-- The least and greatest value of an integer format. -/
def intRange (f : Nat) : Int × Int :=
  match f with
  | 7 => (-128, 127) | 8 => (0, 255) | 9 => (-32768, 32767) | 10 => (0, 65535)
  | 11 => (-2147483648, 2147483647) | _ => (0, 4294967295)

def isIntFmt (f : Nat) : Bool := 7 ≤ f && f ≤ 12
def isNarrow (f : Nat) : Bool := 3 ≤ f && f ≤ 8

/-- An integer result and whether a narrow destination saturated. -/
def roundInt (f rm u : Nat) (v : Val) : Nat × Bool :=
  let r := intRange f
  let w := fmtWidth f
  let bound := fun (neg : Bool) => wrapInt w (if neg then r.1 else r.2)
  match v with
  | .nan neg _ _ => if isNarrow f then (bound neg, true) else (0, false)
  | .inf neg => (bound neg, isNarrow f)
  | .zero _ => (0, false)
  | .real x =>
    let n : Int := x.round rm u 0
    let n := if x.neg then -n else n
    if n < r.1 then (bound true, isNarrow f) else if r.2 < n then (bound false, isNarrow f)
    else (wrapInt w n, false)

/-- The value of an integer code. -/
def decodeInt (f c : Nat) : Val :=
  let w := fmtWidth f
  let n : Int := if f = 8 ∨ f = 10 ∨ f = 12 then (c % 2 ^ w : Nat) else signed w c
  ofDyadic (n < 0) n.natAbs 0

/-! ### Block formats (R69 to R71, R81, R82) -/

/-- An MXINT8 element under scale byte e. -/
def decodeMx (e c : Nat) : Val :=
  if e = 255 then .nan false 0x400000 false
  else
    let n := signed 8 c
    ofDyadic (n < 0) n.natAbs ((e : Int) - 133)

/-- An L6 element under scale byte e. -/
def decodeL6 (e c : Nat) : Val :=
  let neg := c / 32 % 2 == 1
  let m := c % 32
  if e = 255 then .nan false 0x400000 false
  else if m = 0 then .zero neg else .real (quarterPow neg ((m : Int) - 16 + 4 * ((e : Int) - 127)))

/-- A value as an MXINT8 code under scale byte e, and whether it saturated. -/
def encodeMx (e rm u : Nat) (v : Val) : Nat × Bool :=
  let code := fun (neg : Bool) (n : Nat) => wrapInt 8 (if neg then -(n : Int) else n)
  match v with
  | .nan neg _ _ => (code neg 127, true)
  | .inf neg => (code neg 127, true)
  | .zero _ => (0, false)
  | .real x =>
    let n := x.round rm u ((e : Int) - 133)
    if 127 < n then (code x.neg 127, true) else (code x.neg n, false)

/-- Whether |x| > 2^(p/8), or ≥ for an exact power: |x|^8 against 2^p at 2^k precision, for |x| = m·2^e. -/
def above8 (m : Nat) (e p : Int) : Bool :=
  let d := 8 * e - p
  if 0 ≤ d then 1 < m ^ 8 * 2 ^ d.toNat else 2 ^ (-d).toNat < m ^ 8

/-- The nearest integer to 4·log2 y, found from the integer candidates around 4·⌊log2 y⌋ (R81). -/
def nearestQuarter (m : Nat) (e : Int) : Int :=
  let b := 4 * ((Nat.log2 m : Int) + e)
  let up := fun (n : Int) => above8 m e (2 * n + 1)
  if up (b + 3) then b + 4 else if up (b + 2) then b + 3 else if up (b + 1) then b + 2 else if up b then b + 1 else b

/-- ⌊4·log2 y⌋. -/
def floorQuarter (m : Nat) (e : Int) : Int :=
  let b := 4 * ((Nat.log2 m : Int) + e)
  let ge := fun (n : Int) => above8 m e (2 * n) || (let d := 8 * e - 2 * n
    if 0 ≤ d then m ^ 8 * 2 ^ d.toNat == 1 else m ^ 8 == 2 ^ (-d).toNat)
  if ge (b + 3) then b + 3 else if ge (b + 2) then b + 2 else if ge (b + 1) then b + 1 else b

/-- ⌊2^(p/4)·2^200⌋ for a quarter power. -/
def quarterFixed (p : Int) : Nat := (quarterPow false p).fl 200

/-- A dyadic value as an L6 code under scale byte e, and whether it saturated (R81). -/
def encodeL6 (e rm u : Nat) (neg : Bool) (m : Nat) (x : Int) : Nat × Bool :=
  let sg := if neg then 32 else 0
  let ex := x - ((e : Int) - 127)
  if m = 0 then (sg, false)
  else if rm = 0 then
    if above8 m ex (-38) then
      let n := max (nearestQuarter m ex) (-15)
      if 15 < n then (sg + 31, true) else (sg + (16 + n).toNat, false)
    else (sg, false)
  else
    let n := floorQuarter m ex
    let below := n < -15
    let exact := !below && n % 4 == 0 && scaleNat m (ex + 400) == quarterFixed n * 2 ^ 200
    let lo : Int := if below then 0 else 16 + n
    let loV := if below then 0 else quarterFixed n
    let hiV := quarterFixed (if below then -15 else n + 1)
    let y := scaleNat m (ex + 200)
    let up := !exact && (match rm with
      | 1 => false
      | 2 => !neg
      | 3 => neg
      | _ => u < (y - loV) * 2 ^ 32 / (hiV - loV))
    let c := if up then lo + 1 else lo
    if 31 < c then (sg + 31, true) else (sg + c.toNat, false)

/-- The scale code of a block whose largest finite magnitude has ⌊log2⌋ = l, or that has none (R82). -/
def scaleCode (l6 : Bool) (l : Option Int) : Nat :=
  match l with
  | none => 127
  | some l => (max 0 (min 254 (127 + l - (if l6 then 2 else 0)))).toNat

/-- ⌊log2⌋ of the largest finite magnitude among values, `none` when there is none or all are zero (R82). -/
def largestLog (vs : List Val) : Option Int :=
  vs.foldl (fun a v => match v with
    | .real x => (match a with | some l => some (if l < x.lg then x.lg else l) | none => some x.lg)
    | _ => a) none

/-! ### Any element format -/

def floatFmt (f : Nat) : FloatFmt :=
  match f with
  | 0 => fp32 | 1 => bf16 | 2 => fp16 | 3 => e4m3 | _ => e5m2

/-- The value of a code of a format without block scale (R66). -/
def decodeElem (f c : Nat) : Val := if f ≤ 4 then (floatFmt f).decode c else decodeInt f c

/-- A value rounded once to a format without block scale, and whether it saturated with poison (R75 to R80). -/
def encodeElem (f : Nat) (sat : Bool) (rm u : Nat) (v : Val) : Nat × Bool :=
  if f ≤ 2 then ((floatFmt f).roundWide sat rm u v, false)
  else if f ≤ 4 then (floatFmt f).roundNarrow rm u v
  else roundInt f rm u v

end Sys2Proof.Machine
end

