-- ==== Sys2Proof/Machine/Ops.lean ====
section
/-!
DEFINITION. The named operations over the state: places, registers and their share names, results that land, the
welt, counters, discards, and taking a trap (R40 to R51, R114, R115, R418 to R420).
-/

namespace Sys2Proof.Machine

/-- What a meaning answers. -/
abbrev Res := Host.Outcome State Fault Refusal

/-! ### Places -/

def ctxKey (lay c : Nat) : Nat := 8 * lay + c
def cellKey (lay k : Nat) : Nat := 64 * lay + k
def ccKey (lay k c : Nat) : Nat := 8 * (64 * lay + k) + c

def State.towerAt (s : State) (t : Nat) : Tower := mapGet .reset s.towers t
def State.setTower (s : State) (t : Nat) (x : Tower) : State := { s with towers := mapSet .reset s.towers t x }
def State.updTower (s : State) (t : Nat) (f : Tower → Tower) : State := s.setTower t (f (s.towerAt t))

def State.layerAt (s : State) (l : Nat) : Layer := mapGet .reset s.layers l
def State.setLayer (s : State) (l : Nat) (x : Layer) : State := { s with layers := mapSet .reset s.layers l x }
def State.updLayer (s : State) (l : Nat) (f : Layer → Layer) : State := s.setLayer l (f (s.layerAt l))

def State.ctxAt (s : State) (key : Nat) : Ctx := mapGet .free s.ctxs key
def State.setCtx (s : State) (key : Nat) (x : Ctx) : State := { s with ctxs := mapSet .free s.ctxs key x }
def State.updCtx (s : State) (key : Nat) (f : Ctx → Ctx) : State := s.setCtx key (f (s.ctxAt key))

def State.cellAt (s : State) (key : Nat) : Cell := mapGet .reset s.cells key
def State.setCell (s : State) (key : Nat) (x : Cell) : State := { s with cells := mapSet .reset s.cells key x }
def State.updCell (s : State) (key : Nat) (f : Cell → Cell) : State := s.setCell key (f (s.cellAt key))

def State.ccAt (s : State) (key : Nat) : CellCtx := mapGet .reset s.cellCtxs key
def State.setCc (s : State) (key : Nat) (x : CellCtx) : State := { s with cellCtxs := mapSet .reset s.cellCtxs key x }
def State.updCc (s : State) (key : Nat) (f : CellCtx → CellCtx) : State := s.setCc key (f (s.ccAt key))

/-- The context, layer and tower of the slot in hand. -/
def State.me (s : State) : Ctx := s.ctxAt (ctxKey s.lay s.ctx)
def State.updMe (s : State) (f : Ctx → Ctx) : State := s.updCtx (ctxKey s.lay s.ctx) f
def State.layer (s : State) : Layer := s.layerAt s.lay
def State.tower (s : State) : Tower := s.towerAt (s.lay / 8)
/-- The step at which the layer in hand stands (R34). -/
def State.now (s : State) : Nat := s.layer.step
def State.cycleOf (s : State) (lay : Nat) : Nat := (s.towerAt (lay / 8)).cycle
/-- The supervisor context (R497). -/
def State.sup (s : State) : Bool := s.ctx == 4

def cellRow (k : Nat) : Nat := k / 8
def cellCol (k : Nat) : Nat := k % 8
/-- skew(row,col) = 2·(row + col) (R30). -/
def skew (k : Nat) : Nat := 2 * (cellRow k + cellCol k)

/-- One free choice (notes/assumptions/2.md). -/
def State.choose (s : State) : Bool × State := (Config.freeChoice s.choice, { s with choice := s.choice + 1 })

/-- A number for an effect, a request or a record. -/
def State.fresh (s : State) : Nat × State := (s.nextId, { s with nextId := s.nextId + 1 })

/-! ### Names and physical numbers (R40, R410) -/

def Share.nb (h : Share) : Nat := 8 * h.banks.length
/-- The share's highest eight banks are physical banks 24–31, which hold the edge groups (R40, R104). -/
def Share.edgeBanks (h : Share) : Bool := h.banks.getLast? == some 3
def Share.physBank (h : Share) (n : Nat) : Option Nat := (h.banks[n / 8]?).map (fun g => 8 * g + n % 8)
def Share.physV (h : Share) (n : Nat) : Option Nat := (h.vregs[n / 24]?).map (fun g => 24 * g + n % 24)
def Share.physP (h : Share) (n : Nat) : Option Nat := (h.vregs[n / 4]?).map (fun g => 4 * g + n % 4)
def Share.physPlane (h : Share) (n : Nat) : Option Nat := h.planes[n]?
def Share.physTile (h : Share) (n : Nat) : Option Nat := (h.acc[n / 16]?).map (fun g => 16 * g + n % 16)
/-- Static entries 0–55 and awl entries 56–63. -/
def Share.physLast (h : Share) (n : Nat) : Option Nat :=
  if n < 56 then (h.lasts[n / 14]?).map (fun g => 14 * g + n % 14)
  else (h.awl[(n - 56) / 2]?).map (fun g => 56 + 2 * g + n % 2)

/-- The launch record's fields (R403). -/
def Launch.cflag (a : Launch) : BitVec 21 := a.word48.extractLsb' 32 21
def Launch.hostc (a : Launch) : Bool := a.word48.getLsbD 7
def Launch.prio (a : Launch) : BitVec 2 := a.word48.extractLsb' 0 2
def Launch.bar (a : Launch) : Bool := a.word48.getLsbD 2
def Launch.pin (a : Launch) : Bool := a.word48.getLsbD 3
def Launch.pinLayer (a : Launch) : Nat := fld a.word48 4 3
def Launch.dval (a : Launch) : Nat := fld a.word48 53 11
def Launch.gid (a : Launch) : BitVec 16 := a.word56.extractLsb' 0 16
def Launch.gcnt (a : Launch) : Nat := fld a.word56 16 13
def Launch.gmi (a : Launch) : Nat := fld a.word56 29 12
def Launch.dflag (a : Launch) : BitVec 21 := a.word56.extractLsb' 41 21

/-! ### Capabilities (R180, R433) -/

def capObj (c : Cap) : BitVec 24 := c.extractLsb' 104 24
def capRights (c : Cap) : BitVec 8 := c.extractLsb' 96 8
def capBase (c : Cap) : Nat := (c.extractLsb' 56 40).toNat
def capLimit (c : Cap) : Nat := (c.extractLsb' 16 40).toNat
def capPkg (c : Cap) : BitVec 8 := c.extractLsb' 120 8
def capIdx (c : Cap) : BitVec 16 := c.extractLsb' 104 16
/-- A g register holds a valid capability or null, all zeros (R180). -/
def capNull (c : Cap) : Bool := c == 0
def hasRight (c : Cap) (j : Nat) : Bool := (capRights c).getLsbD j
/-- The flag object (R188, R434). -/
def isFlagObj (c : Cap) : Bool := capObj c == 0xFFFFFF
/-- A remote object, a host window included (R434). -/
def isRemote (s : State) (c : Cap) : Bool :=
  capPkg c != s.pkg || (0xF000 ≤ (capIdx c).toNat && (capIdx c).toNat ≤ 0xF0FF)

def Ctx.gReg (c : Ctx) (n : Nat) : Cap := mapGet 0 c.g n
def Ctx.sReg (c : Ctx) (n : Nat) : DWord := mapGet 0 c.s n
def Ctx.nReg (c : Ctx) (n : Nat) : BitVec 24 := mapGet 0 c.n n
def Ctx.bReg (c : Ctx) (n : Nat) : DWord := mapGet 0 c.b n
def Ctx.bfmtOf (c : Ctx) (n : Nat) : DWord := mapGet 0 c.bfmt n
def Ctx.loopOf (c : Ctx) (j : Nat) : LoopLevel := (c.loops[j]?).getD .idle
def Ctx.loopEntry (c : Ctx) (j : Nat) : LoopEntry := (c.image.loops[j]?).getD .unused

/-! ### Regions and the welt (R44 to R51) -/

/-- The region that the bundle in hand belongs to: the open one, or the next. -/
def Ctx.regionId (c : Ctx) : Nat :=
  match c.regions.getLast? with
  | some r => if r.sealedAt.isSome then c.nextRegion else r.id
  | none => c.nextRegion

/-- A region with nothing in it; RNGC is restored on every discard (R225). -/
def Region.fresh (id : Nat) (pc : DWord) (loops : List LoopLevel) (rngc : DWord) : Region :=
  { id := id, entry := pc, sealedAt := none, effects := [], loops := loops, specials := [(0x027 + 4096 * 8, rngc)],
    entrySpecials := [], adds := [], marks := [], popped := 0 }

/-- Opens a region at the program counter when none is open. -/
def Ctx.openRegion (c : Ctx) : Ctx :=
  if c.regionId = c.nextRegion then
    { c with
      regions := c.regions ++ [Region.fresh c.nextRegion c.pc c.loops c.rngc]
      nextRegion := c.nextRegion + 1 }
  else c

/-- Changes the region in hand. -/
def Ctx.modRegion (c : Ctx) (f : Region → Region) : Ctx :=
  let o := c.openRegion
  match o.regions.getLast? with
  | some r => { o with regions := o.regions.dropLast ++ [f r] }
  | none => o

/-- The region in hand's place among the uncommitted ones, 0 the oldest (R48). -/
def Ctx.regionPlace (c : Ctx) : Nat :=
  match c.regions.getLast? with
  | some r => if r.sealedAt.isSome then c.regions.length else c.regions.length - 1
  | none => 0

/-- How many values of its pop log the region in hand has read (R48). -/
def Ctx.regionPopped (c : Ctx) : Nat :=
  match c.regions.getLast? with
  | some r => if r.sealedAt.isSome then 0 else r.popped
  | none => 0

/-- The place of a restored pop-log value that no region has read yet: a save record does not say which region a value was
popped in (R428; notes/assumptions/40.md). -/
def anyPlace : Nat := 65536

/-- The pop log once the oldest region has committed (R48). -/
def dropPops (log : List (Nat × BitVec 4 × DWord)) : List (Nat × BitVec 4 × DWord) :=
  (log.filter (fun e => e.1 != 0)).map (fun e => (if e.1 = anyPlace then e.1 else e.1 - 1, e.2))

/-- The first value of the log with no region becomes the given region's. -/
def claimPop (place : Nat) : List (Nat × BitVec 4 × DWord) → List (Nat × BitVec 4 × DWord)
  | [] => []
  | e :: r => if e.1 = anyPlace then (place, e.2) :: r else e :: claimPop place r

/-- Entry of the oldest uncommitted region (R51). -/
def Ctx.resumeEntry (c : Ctx) : DWord :=
  match c.regions with
  | r :: _ => r.entry
  | [] => c.pc

/-- Welt entries of the task's uncommitted regions (R47). -/
def Ctx.weltCount (c : Ctx) : Nat := (c.regions.map (fun r => r.effects.length)).sum

/-- Entries of the region in hand. -/
def Ctx.regionWelt (c : Ctx) : Nat :=
  match c.regions.getLast? with
  | some r => if r.sealedAt.isSome then 0 else r.effects.length
  | none => 0

/-- The effect enters the welt at t, tagged with its region (R46). -/
def weltAt (id : Nat) (e : Effect) (s : State) : State :=
  s.updMe (fun c => c.modRegion (fun r => { r with
    effects := r.effects ++ [(id, e)], forms := r.forms ++ [(id, s.latch.baddr, s.latch.slot)] }))

def welt (e : Effect) (s : State) : State :=
  weltAt s.nextId e { s with nextId := s.nextId + 1 }

/-- The shadow stack with the changes of the uncommitted regions applied, top first (R170). -/
def applyShadow (st : List DWord) (e : Nat × Effect) : List DWord :=
  match e.2 with
  | .shadow (.push ra) => ra :: st
  | .shadow .pop => st.tail
  | _ => st

def Ctx.shadowView (c : Ctx) : List DWord :=
  c.regions.foldl (fun st r => r.effects.foldl applyShadow st) c.shadow

/-! ### Results that land (R114, R115, R146) -/

/-- Puts a result on its way. -/
def State.pushPend (s : State) (lay : Nat) (p : Pend) : State :=
  s.updLayer lay (fun l => { l with pend := l.pend ++ [p] })

/-- land(loc, n, v) of a sequencer slot (R153). -/
def land (loc : Loc) (n : Nat) (mask val : Lanes) (s : State) : State :=
  s.pushPend s.lay { ctx := s.ctx, region := s.me.regionId, due := s.now + n, lag := 0, seq := s.latch.seq, loc := loc,
                     mask := mask, val := val, last := none, lm := s.me.lm, baddr := s.latch.baddr,
                     slot := s.latch.slot }

def landS (d : BitVec 7) (n : Nat) (v : DWord) (s : State) : State :=
  land (.s d.toNat) n (onesMask 64) (v.setWidth 32768) s
def landK (k : Nat) (n : Nat) (b : Bool) (s : State) : State :=
  land (.k k) n (onesMask 1) (if b then 1 else 0) s
def landG (g : Nat) (n : Nat) (v : Cap) (s : State) : State :=
  land (.g g) n (onesMask 128) (v.setWidth 32768) s

/-- A cell slot in execution: its bundle, the cell and the slot (R30). -/
structure Run where
  f    : Flight
  cell : Nat
  slot : FSlot
  deriving DecidableEq, Repr

/-- land(loc, n, v) of a cell slot, which executes now (R153). -/
def Run.landLag (r : Run) (lag : Nat) (loc : Loc) (n : Nat) (mask val : Lanes) (s : State) : State :=
  s.pushPend s.lay { ctx := r.f.ctx, region := r.f.region, due := s.now + n, lag := lag, seq := r.f.seq, loc := loc,
                     mask := mask, val := val, last := none, lm := r.f.lm, baddr := r.f.baddr, slot := r.slot.idx }
def Run.land (r : Run) (loc : Loc) (n : Nat) (mask val : Lanes) (s : State) : State :=
  r.landLag 0 loc n mask val s

/-! ### Counters (R196) -/

/-- Adds to a counter at t; a discard withdraws it (R292). -/
def ctrAdd (n : Nat) (s : State) : State :=
  s.updMe (fun c => ({ c with n := mapSet 0 c.n n (c.nReg n + 1) }).modRegion
    (fun r => { r with adds := r.adds ++ [(n, 1)] }))

def ctrDec (key n : Nat) (s : State) : State :=
  s.updCtx key (fun c => { c with n := mapSet 0 c.n n (c.nReg n - 1) })

/-- Takes back an addition of a region whose work has ended: a discard of the region no longer withdraws it (R292). -/
def ctrDone (key n region : Nat) (s : State) : State :=
  (ctrDec key n s).updCtx key (fun c => { c with
    regions := c.regions.map (fun r => if r.id = region then { r with adds := r.adds.erase (n, 1) } else r) })

/-! ### Memory bytes (R4, R24) -/

/-- A byte of HBM; a byte nothing has written reads as zero (notes/assumptions/4.md). -/
def State.memByte (s : State) (pa : Nat) : Byte := mapGet 0 s.mem pa
def State.setMemByte (s : State) (pa : Nat) (b : Byte) : State := { s with mem := mapSet 0 s.mem pa b }
/-- The canonical form of memory. -/
def Memory.wf (m : List Host.Cell) : Bool := mapWf (0 : Byte) m

def State.memBytes (s : State) (pa : Nat) : Nat → List Byte
  | 0 => []
  | n + 1 => s.memByte pa :: State.memBytes s (pa + 1) n

def State.memLe (s : State) (pa n : Nat) : Nat := ofLe (s.memBytes pa n)

/-- Writes bytes; every store clears the tags of the granules it touches (R435). -/
def writeMem (pa : Nat) : List Byte → State → State
  | [], s => s
  | b :: r, s =>
    let s := s.setMemByte pa b
    writeMem (pa + 1) r { s with tags := s.tags.filter (fun g => g != pa / 16) }

/-- Sequencer data memory (R159): 24 KiB for a task, the whole of it for the supervisor. -/
def dmemBase (c : Nat) : Nat := if c = 4 then 0 else 0x6000 * c
def dmemSize (c : Nat) : Nat := if c = 4 then 0x20000 else 0x6000

def Layer.dmemLe (l : Layer) (a : Nat) : Nat → Nat
  | 0 => 0
  | n + 1 => (mapGet (0 : Byte) l.dmem a).toNat + 256 * Layer.dmemLe l (a + 1) n

def writeDmem (a : Nat) : List Byte → Layer → Layer
  | [], l => l
  | b :: r, l => writeDmem (a + 1) r { l with dmem := mapSet 0 l.dmem a b }

/-! ### Special registers held in the context (R64, R65, R149, R166, R205, R224, R300, R349, R422, R430) -/

def ctxSpecial (c : Ctx) (num : Nat) : DWord :=
  if num = 0x020 then c.cmask
  else if num = 0x021 then BitVec.ofNat 64 (c.bprio.toNat + 4 * c.eprio.toNat + 16 * c.fzt.toNat + 256 * c.wdog.toNat)
  else if num = 0x022 then c.rm.setWidth 64
  else if num = 0x023 then (if c.spois then 1 else 0)
  else if num = 0x025 then BitVec.ofNat 64 ((if c.miss then 1 else 0) + 65536 * c.mcount.toNat)
  else if num = 0x026 then c.rngk
  else if num = 0x027 then c.rngc
  else if num = 0x028 then BitVec.ofNat 64 (c.swlo.toNat + 65536 * c.swhi.toNat)
  else if num = 0x029 then BitVec.ofNat 64 ((if c.prof then 1 else 0) + 2 * c.lm.toNat + (if c.ldm then 8 else 0))
  else if 0x02A ≤ num ∧ num ≤ 0x02D then mapGet 0 c.barm (num - 0x02A)
  else if num = 0x02E then c.tlast
  else if 0x040 ≤ num ∧ num ≤ 0x05F then mapGet 0 c.bfmt (num - 0x040)
  else 0

/-- Writes a context register whole (placement, restore and discard use it); reserved bits stay zero (R9). -/
def setCtxSpecial (num : Nat) (v : DWord) (c : Ctx) : Ctx :=
  if num = 0x020 then { c with cmask := v }
  else if num = 0x021 then
    { c with bprio := v.extractLsb' 0 2, eprio := v.extractLsb' 2 2, fzt := v.extractLsb' 4 4, wdog := v.extractLsb' 8 5 }
  else if num = 0x022 then { c with rm := v.extractLsb' 0 3 }
  else if num = 0x023 then { c with spois := v.getLsbD 0 }
  else if num = 0x025 then { c with miss := v.getLsbD 0, mcount := v.extractLsb' 16 16 }
  else if num = 0x026 then { c with rngk := v }
  else if num = 0x027 then { c with rngc := v }
  else if num = 0x028 then { c with swlo := v.extractLsb' 0 11, swhi := v.extractLsb' 16 12 }
  else if num = 0x029 then { c with prof := v.getLsbD 0, lm := v.extractLsb' 1 2, ldm := v.getLsbD 3 }
  else if 0x02A ≤ num ∧ num ≤ 0x02D then
    { c with barm := mapSet 0 c.barm (num - 0x02A) (v &&& 0xFFFFFFFF003FFFFF) }
  else if num = 0x02E then { c with tlast := v &&& 0xFFFFFFFFFF }
  else if 0x040 ≤ num ∧ num ≤ 0x05F then { c with bfmt := mapSet 0 c.bfmt (num - 0x040) (v &&& 0xFFFFFFF) }
  else c

/-! ### Taking a trap (R418 to R420, R501) -/

/-- The code of a cause (R418). -/
def Cause.code : Cause → Nat
  | .illegal => 1 | .bounds => 2 | .sched => 3 | .late => 4 | .latcheck => 5 | .cfi => 6 | .welt => 7
  | .flagPoison => 8 | .watchdog => 9 | .userTrap => 10 | .pgKill => 11 | .uncorr => 12

/-- A trap of the slot in hand, at decode or issue. -/
def State.issueTrap (s : State) (cause : Cause) (sub : Nat) (aux0 : Nat := 0) (aux1 : Nat := 0) : TrapInfo :=
  { cause := cause, sub := sub, code := 0, cell := none, dec := true, slot := s.latch.slot, baddr := s.latch.baddr,
    region := s.me.regionId, aux0 := BitVec.ofNat 64 aux0, aux1 := BitVec.ofNat 64 aux1 }

/-- A trap of a cell slot (R138). -/
def Run.trap (r : Run) (cause : Cause) (sub : Nat) (aux0 : Nat := 0) (aux1 : Nat := 0) : TrapInfo :=
  { cause := cause, sub := sub, code := 0, cell := some r.cell, dec := false, slot := r.slot.idx, baddr := r.f.baddr,
    region := r.f.region, aux0 := BitVec.ofNat 64 aux0, aux1 := BitVec.ofNat 64 aux1 }

/-- Which of two traps of one step the record takes (R419). DEDUCED: notes/assumptions/17.md. A slot's own trap on a ROWIN's
step stands over that step's SCHED of the same bundle and cell. DESIGN CHOICE: notes/assumptions/41.md. -/
def trapFirst (a b : TrapInfo) : Bool :=
  if a.region != b.region then a.region < b.region
  else if a.dec != b.dec then a.dec
  else if a.baddr != b.baddr then a.baddr.toNat < b.baddr.toNat
  else a.cell.getD 0 ≤ b.cell.getD 0

/-- The conditions that hold the domain, each with its owner (R35). -/
def Layer.holds (l : Layer) : List (Nat × Wait) :=
  match l.frozen with
  | some (_, o) => (o, l.frozenBy) :: l.alsoFrozen
  | none => []

/-- The freeze goes on for the conditions left, or ends. -/
def Layer.keepHolds (cs : List (Nat × Wait)) (l : Layer) : Layer :=
  match l.frozen, cs with
  | some (k, _), (o, w) :: r => { l with frozen := some (k, o), frozenBy := w, alsoFrozen := r }
  | some (k, _), [] => { l with frozen := none, frozenBy := .none, alsoFrozen := [], thaw := some k }
  | none, _ => l

/-- One more condition holds the domain in cycle `now`; a freeze without interruption counts from its first cycle (R35, R56). -/
def Layer.hold (now c : Nat) (w : Wait) (l : Layer) : Layer :=
  match l.frozen with
  | none => { l with frozen := some (l.thaw.getD now, c), frozenBy := w, alsoFrozen := [] }
  | some _ => if l.holds.contains (c, w) then l else { l with alsoFrozen := l.alsoFrozen ++ [(c, w)] }

/-- The freezes that the context owns end (R420, R426, R431). -/
def endFreeze (c : Nat) (l : Layer) : Layer := l.keepHolds (l.holds.filter (fun h => h.1 != c))

/-- Taking a trap at step s (R420, step 1): the context is discarding from here, its resume address is the entry of
its oldest uncommitted region, and the trap waits to be recorded. Of two traps of one step R419 chooses; a trap
that comes later is held, as is one of committed work that comes before the task issues again, or before a placed task is
Ready (R52, R501). The discard itself follows at the end of the step, after the commits due (R45). -/
def takeTrap (lay c : Nat) (tr : TrapInfo) (s : State) : State :=
  let x := s.ctxAt (ctxKey lay c)
  let step := (s.layerAt lay).step
  match x.state with
  | .resident =>
    if x.task = .trapped ∨ x.task = .placed ∨ (x.quieted ∧ tr.cause ≠ .watchdog ∧ !tr.dec) then
      s.updCtx (ctxKey lay c) (fun x => { x with held := x.held ++ [tr] })
    else
      (s.updCtx (ctxKey lay c) (fun x => { x with
        state := .discarding, trap := some tr, trapStep := step, trapCycle := s.cycleOf lay, resume := x.resumeEntry,
        wait := .none, waited := 0, untimed := true, quieted := true, fromHeld := false })).updLayer lay (endFreeze c)
  | .discarding =>
    match x.trap with
    | some old =>
      if x.trapStep = step ∧ !x.fromHeld then
        s.updCtx (ctxKey lay c) (fun x => { x with trap := some (if trapFirst old tr then old else tr) })
      else s.updCtx (ctxKey lay c) (fun x => { x with held := x.held ++ [tr] })
    | none =>
      -- R419: a trap of the step at which a pre-emption takes effect is taken
      if x.trapStep = step then s.updCtx (ctxKey lay c) (fun x => { x with trap := some tr, trapCycle := s.cycleOf lay })
      else s.updCtx (ctxKey lay c) (fun x => { x with held := x.held ++ [tr] })
  | .saving | .placing | .held => s.updCtx (ctxKey lay c) (fun x => { x with held := x.held ++ [tr] })
  | _ => s

/-- A trap of the bundle in hand: nothing more of the bundle issues (R155). -/
def trapHere (tr : TrapInfo) (s : State) : State :=
  takeTrap s.lay s.ctx tr { s with latch := .empty }

/-- A trap a cell raises (R138). -/
def Run.raise (r : Run) (cause : Cause) (sub : Nat) (s : State) (aux0 : Nat := 0) (aux1 : Nat := 0) : State :=
  takeTrap s.lay r.f.ctx (r.trap cause sub aux0 aux1) s

/-- Whether something of this context and region is uncommitted work of a discard from region `r0`. -/
def isGone (c r0 : Nat) (c' r' : Nat) : Bool := c' == c && r0 ≤ r'

/-- SOTn of a table replaced (R471). -/
def sotPut (t : BitVec 1024) (n : Nat) (w : DWord) : BitVec 1024 :=
  (t &&& ~~~ ((BitVec.allOnes 64).setWidth 1024 <<< (64 * n))) ||| (w.setWidth 1024 <<< (64 * n))

/-- Restores the special registers the regions' MTSRs wrote, newest region first (R211). A number is
special + 4096·(context + 0) for the task contexts and the supervisor, special + 4096·8 for the task's own. Status bits that
only hardware sets (BUSY, RES, COUNT) stay. -/
def restoreSpecial (lay c : Nat) (s : State) (e : Nat × DWord) : State :=
  let num := e.1 % 4096
  let sel := e.1 / 4096
  let key := if sel = 8 then ctxKey lay c else ctxKey lay sel
  if num = 0x010 then s.updLayer lay (fun l => { l with sctx := e.2.extractLsb' 0 3 })
  else if 0x060 ≤ num ∧ num ≤ 0x06F then
    s.updLayer lay (fun l =>
      let y := mapGet .reset l.eyelets (num - 0x060)
      let y : Eyelet := { y with en := e.2.getLsbD 0, dir := e.2.getLsbD 1, peer := e.2.extractLsb' 8 16 }
      { l with eyelets := mapSet .reset l.eyelets (num - 0x060) y })
  else if num = 0x030 then s.updTower (lay / 8) (fun t => { t with dsplit := e.2.extractLsb' 0 7 })
  else if num = 0x031 then
    s.updTower (lay / 8) (fun t => { t with qen := e.2.extractLsb' 0 16, gto := e.2.extractLsb' 16 4 })
  else if num = 0x032 then
    s.updLayer lay (fun l => { l with preqCtx := e.2.extractLsb' 0 2, preqKill := e.2.getLsbD 2,
                                      preqGsel := e.2.extractLsb' 3 4 })
  else if num = 0x070 then { s with otbase := e.2.extractLsb' 20 20 }
  else if num = 0x072 then
    { s with tinvMode := e.2.extractLsb' 0 2, tinvObj := e.2.extractLsb' 8 24, tinvVpn := e.2.extractLsb' 32 24 }
  else if 0x090 ≤ num ∧ num ≤ 0x09F then
    s.updTower (lay / 8) (fun t => { t with sotNext := some (sotPut (t.sotNext.getD t.sot) (num - 0x090) e.2) })
  else if 0x0A0 ≤ num ∧ num ≤ 0x0B7 then
    s.updTower (lay / 8) (fun t =>
      let k := mapGet .reset t.links (num - 0x0A0)
      { t with links := mapSet .reset t.links (num - 0x0A0) { k with
          asym := e.2.extractLsb' 40 8, latec := e.2.extractLsb' 48 8, ovf := e.2.extractLsb' 56 8 } })
  else if num = 0x0B9 then
    { s with plNent := e.2.extractLsb' 0 12, plNbase := e.2.extractLsb' 12 28, plLogp := e.2.extractLsb' 40 5,
             plArm := e.2.getLsbD 63, planNext := if e.2.getLsbD 63 then s.planNext else none }
  else if num = 0x0BA then { s with plTick := e.2 }
  else if num = 0x0BB then
    { s with ftUpl := e.2.extractLsb' 0 5, ftUpt := e.2.getLsbD 5, ftGm := e.2.getLsbD 6 }
  else if num = 0x0C0 then { s with pwrLimit := e.2.extractLsb' 0 16 }
  else s.updCtx key (setCtxSpecial num e.2)

/-- The counters after the additions of discarded regions are withdrawn (R292). -/
def withdraw (c : Ctx) (adds : List (Nat × Nat)) : Ctx :=
  adds.foldl (fun c a => { c with n := mapSet 0 c.n a.1 (c.nReg a.1 - BitVec.ofNat 24 a.2) }) c

/-- A cell's landing entries and routine of discarded regions are dropped (R51). -/
def dropWork (c r0 : Nat) (e : Cell) : Cell :=
  { e with
    landing := e.landing.filter (fun d => !isGone c r0 d.ctx d.region)
    halos := e.halos.filter (fun h => !isGone c r0 h.ctx h.region)
    routine := match e.routine with
      | some q => if isGone c r0 q.ctx q.region then none else some q
      | none => none }

/-- A register that a discarded region wrote, with its value at the entry of region `r`, the oldest, where the region has kept
one (R211). -/
def Region.entryOf (r : Region) (e : Nat × DWord) : Nat × DWord :=
  match r.specials.find? (fun x => x.1 == e.1), r.entrySpecials.find? (fun x => x.1 == e.1) with
  | some x, _ => x
  | none, some x => x
  | none, none => e

/-- R51: every uncommitted region of the task is discarded; the context stands at the entry of the oldest, with the
loop unit, special registers and counters as they stood there. The pop log stays (R48). -/
def discard (lay c : Nat) (s : State) : State :=
  let key := ctxKey lay c
  let x := s.ctxAt key
  match x.regions with
  | [] => s.updCtx key (fun x => { x with xfer := none, delay := 0 })
  | r0 :: _ =>
    let specials := (x.regions.reverse.map (fun r => r.specials)).flatten.map r0.entryOf
    let adds := (x.regions.map (fun r => r.adds)).flatten
    let s := specials.foldl (restoreSpecial lay c) s
    let s := s.updCtx key (fun x =>
      let y : Ctx := { x with
        regions := [], pc := r0.entry, loops := r0.loops, xfer := none, delay := 0, notBefore := 0,
        mcallUntil := if r0.id ≤ x.mcallRegion then 0 else x.mcallUntil,
        outs := x.outs.filter (fun o => o.region < r0.id) }
      withdraw y adds)
    let s := s.updLayer lay (fun l => { l with
      pend := l.pend.filter (fun p => !isGone c r0.id p.ctx p.region)
      votes := l.votes.filter (fun v => !isGone c r0.id v.ctx v.region)
      flight := l.flight.filter (fun f => !isGone c r0.id f.ctx f.region)
      beats := l.beats.filter (fun b => !(isGone c r0.id b.ctx b.region && b.ready.isNone)) })
    let s := (upto 64).foldl (fun s k => s.updCell (cellKey lay k) (dropWork c r0.id)) s
    { s with reqs := (s.reqs.filter (fun q => !(q.ctxKey == key && r0.id ≤ q.region && !q.committed
                        && q.state == .held))).map (fun q =>
                        if q.ctxKey == key && r0.id ≤ q.region && !q.committed then { q with dropped := true } else q) }

/-- Results in a layer's cells and on their way to its registers. -/
def inCells (lay c : Nat) (s : State) : Bool :=
  let l := s.layerAt lay
  l.pend.any (fun p => p.ctx == c) || l.votes.any (fun v => v.ctx == c) || l.flight.any (fun f => f.ctx == c)
    || (upto 64).any (fun k =>
      let e := s.cellAt (cellKey lay k)
      e.landing.any (fun d => d.ctx == c) || (match e.routine with | some q => q.ctx == c | none => false))

/-- A load that stands parked at a port, or has been withdrawn from it for a save (R427). -/
def Req.parkedLoad (q : Req) : Bool :=
  match q.kind, q.state with
  | .load .., .parked _ | .load .., .withdrawn | .cld _, .parked _ | .cld _, .withdrawn => true
  | _, _ => false

/-- The context's committed results that have not landed, parked rows apart (R51, R420). -/
def settling (lay c : Nat) (s : State) : Bool :=
  inCells lay c s
    || s.reqs.any (fun q => q.ctxKey == ctxKey lay c && !q.dropped && (match q.kind, q.state with
        | _, .parked _ | _, .withdrawn => false
        | .load _ _ _ _, _ => true
        | .cld _, _ => true
        | .atomic _ _ _ returns _ _ _, _ => returns
        | _, _ => false))

/-- Committed landings that hold a task back (R56, R420): every load, parked ones too, but for the ALD rows a restore
issued again (R429). -/
def holding (lay c : Nat) (s : State) : Bool :=
  inCells lay c s
    || s.reqs.any (fun q => q.ctxKey == ctxKey lay c && !q.dropped && (match q.kind, q.state with
        | .load _ _ _ _, _ => !(q.srid.isSome && q.ctr.isSome)
        | .cld _, _ => true
        | .atomic .., .parked _ => false
        | .atomic _ _ _ returns _ _ _, _ => returns
        | _, _ => false))

/-! ### A slot's issue -/

/-- Every slot's meaning at issue: a check of R138 or R155 that fails takes its trap; a hold of R358 issues nothing;
otherwise the effect. -/
def issueWith (fault : Option TrapInfo) (hold : Bool) (s : State) (k : State → State) : Host.Outcome State Fault Refusal :=
  match fault with
  | some tr => .next (trapHere tr s)
  | none => if hold then .next s else .next (k s)

/-- Whether two masks' cells overlap: the cell's bit of a bundle's mask (R31). -/
def cellOn (m : DWord) (k : Nat) : Bool := m.getLsbD k

/-- Failed cells of a layer (R31). -/
def State.failedCells (s : State) (lay : Nat) : BitVec 64 :=
  match s.config with
  | some c => mapGet 0 c.cmaskf lay
  | none => 0

/-- Sets a cell's poison summary bit for a context (R78): a mark of an earlier step no longer clears it (R178). -/
def setPois (lay k c : Nat) (s : State) : State :=
  let now := (s.layerAt lay).step
  (s.updCc (ccKey lay k c) (fun e => { e with pois := true })).updCtx (ctxKey lay c) (fun x => { x with
    regions := x.regions.map (fun g => { g with marks := g.marks.filter (fun m => !(m.1 == k && decide (m.2 < now))) }) })

end Sys2Proof.Machine
end

