-- ==== Sys2Proof/Machine/Crypto.lean ====
section
/-!
DEFINITION. AES-128 and its CMAC, with which a capability's check is computed (R433), and Philox4x32-10 (R226).
-/

namespace Sys2Proof.Machine

/-- The AES substitution box, byte n at bits 8n. -/
def sboxNat : Nat :=
  0x16bb54b00f2d99416842e6bf0d89a18cdf2855cee9871e9b948ed9691198f8e19e1dc186b95735610ef6034866b53e708a8bbd4b1f74dde8c6b4a61c2e2578ba08ae7a65eaf4566ca94ed58d6d37c8e779e4959162acd3c25c2406490a3a32e0db0b5ede14b8ee4688902a22dc4f816073195d643d7ea7c41744975fec130ccdd2f3ff1021dab6bcf5389d928f40a351a89f3c507f02f94585334d43fbaaefd0cf584c4a39becb6a5bb1fc20ed00d153842fe329b3d63b52a05a6e1b1a2c830975b227ebe28012079a059618c323c7041531d871f1e5a534ccf73f362693fdb7c072a49cafa2d4adf04759fa7dc982ca76abd7fe2b670130c56f6bf27b777c63

def sbox (b : Byte) : Byte := BitVec.ofNat 8 (sboxNat >>> (8 * b.toNat))

/-- Multiplication by x in GF(2^8). -/
def xtime (b : Byte) : Byte := (b <<< 1) ^^^ (if b.getLsbD 7 then 0x1B else 0)

/-- The next round key from the last, with the round constant. -/
def nextKey (rc : Byte) (k : List Byte) : List Byte :=
  let g := fun n => (k[n]?).getD 0
  let w0 := [g 0 ^^^ sbox (g 13) ^^^ rc, g 1 ^^^ sbox (g 14), g 2 ^^^ sbox (g 15), g 3 ^^^ sbox (g 12)]
  let w1 := List.zipWith (· ^^^ ·) w0 [g 4, g 5, g 6, g 7]
  let w2 := List.zipWith (· ^^^ ·) w1 [g 8, g 9, g 10, g 11]
  let w3 := List.zipWith (· ^^^ ·) w2 [g 12, g 13, g 14, g 15]
  w0 ++ w1 ++ w2 ++ w3

/-- ShiftRows on the column-major state. -/
def shiftRows (b : List Byte) : List Byte :=
  [0, 5, 10, 15, 4, 9, 14, 3, 8, 13, 2, 7, 12, 1, 6, 11].map (fun i => (b[i]?).getD 0)

def mixColumn (a b c d : Byte) : List Byte :=
  [xtime a ^^^ xtime b ^^^ b ^^^ c ^^^ d, a ^^^ xtime b ^^^ xtime c ^^^ c ^^^ d,
   a ^^^ b ^^^ xtime c ^^^ xtime d ^^^ d, xtime a ^^^ a ^^^ b ^^^ c ^^^ xtime d]

def mixColumns (s : List Byte) : List Byte :=
  let g := fun n => (s[n]?).getD 0
  mixColumn (g 0) (g 1) (g 2) (g 3) ++ mixColumn (g 4) (g 5) (g 6) (g 7)
    ++ mixColumn (g 8) (g 9) (g 10) (g 11) ++ mixColumn (g 12) (g 13) (g 14) (g 15)

/-- Rounds with the constants left; the last has no MixColumns. -/
def aesRounds : List Byte → List Byte → List Byte → List Byte
  | [], _, st => st
  | rc :: rest, k, st =>
    let k := nextKey rc k
    let st := shiftRows (st.map sbox)
    let st := if rest.isEmpty then st else mixColumns st
    aesRounds rest k (List.zipWith (· ^^^ ·) st k)

/-- AES-128 of one 16-byte block. -/
def aes128 (key block : List Byte) : List Byte :=
  aesRounds [0x01, 0x02, 0x04, 0x08, 0x10, 0x20, 0x40, 0x80, 0x1B, 0x36] key (List.zipWith (· ^^^ ·) block key)

/-- Doubling in GF(2^128), bytes in the standard's order (NIST SP 800-38B). -/
def cmacDouble (b : List Byte) : List Byte :=
  let v := ofLe b.reverse
  let d := (2 * v) % 2 ^ 128
  let d := if 2 ^ 127 ≤ v then d ^^^ 0x87 else d
  (leBytes 16 d).reverse

/-- The CMAC of a message shorter than one block. -/
def cmacShort (key msg : List Byte) : List Byte :=
  let k2 := cmacDouble (cmacDouble (aes128 key (List.replicate 16 0)))
  let m := msg ++ [0x80] ++ List.replicate (15 - msg.length) 0
  aes128 key (List.zipWith (· ^^^ ·) m k2)

/-- CHK of a capability under the domain key (R433). -/
def capChk (key : BitVec 128) (c : Cap) : BitVec 16 :=
  let t := cmacShort (leBytes 16 key.toNat) (leBytes 14 (c.toNat / 65536))
  BitVec.ofNat 16 ((t[0]?.getD 0).toNat + 256 * (t[1]?.getD 0).toNat)

/-- A capability with its check computed anew (R182, R433). DEDUCED: notes/assumptions/13.md. -/
def State.sealCap (s : State) (c : Cap) : Cap :=
  match s.kcap with
  | some k => (c.extractLsb' 16 112) ++ capChk k c
  | none => (c.extractLsb' 16 112) ++ (0 : BitVec 16)

/-- Valid: IDX ≠ 0, BASE ≤ LIMIT and CHK verifies; nothing verifies before KCAP is installed (R433, R473). -/
def State.capValid (s : State) (c : Cap) : Bool :=
  match s.kcap with
  | some k => capIdx c != 0 && capBase c ≤ capLimit c && c.extractLsb' 0 16 == capChk k c
  | none => false

/-- A capability's fields put together (R433). -/
def mkCap (obj : BitVec 24) (rights : BitVec 8) (base limit : Nat) : Cap :=
  obj ++ rights ++ BitVec.ofNat 40 base ++ BitVec.ofNat 40 limit ++ (0 : BitVec 16)

/-! ### Philox4x32-10 (R226) -/

def philoxRounds : Nat → Nat → Nat → Nat → Nat → Nat → Nat → Nat × Nat × Nat × Nat
  | 0, c0, c1, c2, c3, _, _ => (c0, c1, c2, c3)
  | n + 1, c0, c1, c2, c3, k0, k1 =>
    let p := 0xD2511F53 * c0
    let q := 0xCD9E8D57 * c2
    philoxRounds n ((q / 2 ^ 32) ^^^ c1 ^^^ k0) (q % 2 ^ 32) ((p / 2 ^ 32) ^^^ c3 ^^^ k1) (p % 2 ^ 32)
      ((k0 + 0x9E3779B9) % 2 ^ 32) ((k1 + 0xBB67AE85) % 2 ^ 32)

def philox (c0 c1 c2 c3 k0 k1 : Nat) : Nat × Nat × Nat × Nat := philoxRounds 10 c0 c1 c2 c3 k0 k1

/-- Word j of a block. -/
def philoxWord (b : Nat × Nat × Nat × Nat) : Nat → Nat
  | 0 => b.1 | 1 => b.2.1 | 2 => b.2.2.1 | _ => b.2.2.2

/-- The Philox block of a lane for a drawing slot (R226). -/
def Run.philox (r : Run) (s : State) (c3 : Nat) (l : Nat) : Nat × Nat × Nat × Nat :=
  let gmi := (s.ctxAt (ctxKey s.lay r.f.ctx)).launch.gmi
  Machine.philox (r.slot.draw.toNat % 2 ^ 32) (r.slot.draw.toNat / 2 ^ 32)
    ((l + 1024 * r.cell + 65536 * (gmi % 65536)) % 2 ^ 32) c3 (r.f.rngk.toNat % 2 ^ 32) (r.f.rngk.toNat / 2 ^ 32)

end Sys2Proof.Machine
end

