-- ==== Sys2Proof/Decode.lean ====
section
/-!
DEFINITION. The slot decoder, total on any 32-bit word and on any bytes, and the encoder, both written from the
class and function map of R135 and the encoding tables of the instruction chapters.

A decoded slot is well-formed only when its operand and subfield codes are (WellFormed.lean); the sequencer makes
that check, and the bundle's, after decoding (R138).
-/

namespace Sys2Proof

/-- Why a word is no slot form; each is ILLEGAL at decode (R133, R135). -/
inductive Reject where
  /-- CL 25–31 (R135). -/
  | unassignedClass
  /-- A function code the class leaves unassigned (R135). -/
  | unassignedFunction
  /-- A field the form marks as zero is not zero (R133). -/
  | nonzeroField (i : Instr)
  /-- Fewer than four bytes stand at the address. -/
  | truncated
  deriving DecidableEq, Repr

/-- The instruction, when the fields its form marks as zero are zero (R133). -/
def need (c : Bool) (i : Instr) : Except Reject Instr :=
  if c then .ok i else .error (.nonzeroField i)

/-- The high and low seven bits of a 14-bit Y:Z field. -/
def hi7 (i : BitVec 14) : BitVec 7 := i.extractLsb' 7 7
def lo7 (i : BitVec 14) : BitVec 7 := i.extractLsb' 0 7
/-- Five zero bits above a two-bit subfield. -/
abbrev pad5 : BitVec 5 := 0

/-- CL 0 (R207). -/
def decodeSys (fn : Nat) (x y z : BitVec 7) : Except Reject Instr :=
  match fn with
  | 0 => need (x == 0 && y == 0 && z == 0) .nop
  | 1 => need (x.extractLsb' 4 3 == 0 && y.extractLsb' 4 3 == 0 && z == 0)
      (.tlaunch (x.extractLsb' 0 4) (y.extractLsb' 0 4))
  | 2 => need (x == 0 && z == 0) (.texit y)
  | 3 => need (x == 0 && y == 0 && z == 0) .yield
  | 4 => need (x == 0) (.trap (y ++ z))
  | 5 => if x == 0 && z == 0 then .ok (.eret y) else need (x == 0 && z == 1) (.eretKill y)
  | 6 => need (y.extractLsb' 5 2 == 0) (.mfsr x (y.extractLsb' 0 5 ++ z))
  | 7 => need (y.extractLsb' 5 2 == 0) (.mtsr x (y.extractLsb' 0 5 ++ z))
  | 8 => if x.extractLsb' 5 2 == 0 && z == 0 then .ok (.lsleepDoze (x.extractLsb' 0 5) y)
      else need (x.extractLsb' 5 2 == 0 && z == 1) (.lsleepOff (x.extractLsb' 0 5) y)
  | 9 => need (x.extractLsb' 5 2 == 0 && z == 0) (.lwake (x.extractLsb' 0 5) y)
  | 10 => .ok (.lstld (x.extractLsb' 4 3) (x.extractLsb' 0 4) y z)
  | 11 => .ok (.mpsld (x.extractLsb' 4 3) (x.extractLsb' 0 4) y z)
  | _ => .error .unassignedFunction

/-- CL 1 (R139). -/
def decodeBctl (fn : Nat) (x y z : BitVec 7) : Except Reject Instr :=
  match fn with
  | 0 => need (x.extractLsb' 6 1 == 0)
      (.bctl (x.getLsbD 5) (x.getLsbD 4) (x.extractLsb' 0 4) y (z.getLsbD 6) (z.extractLsb' 4 2)
        (z.extractLsb' 2 2) (z.getLsbD 1) (z.getLsbD 0))
  | _ => .error .unassignedFunction

/-- CL 5 (R162 to R171). -/
def decodeFlow (fn : Nat) (x y z : BitVec 7) : Except Reject Instr :=
  match fn with
  | 0 => if x.getLsbD 6 then need (x.extractLsb' 2 4 == 0 && y == 0) (.bprepRegister (x.extractLsb' 0 2) z)
      else need (x.extractLsb' 2 4 == 0) (.bprepRelative (x.extractLsb' 0 2) (y ++ z))
  | 1 => .ok (.bcmp (x.extractLsb' 3 4) (x.extractLsb' 0 3) y z)
  | 2 => .ok (.bcmpi (x.extractLsb' 3 4) (x.extractLsb' 0 3) y z)
  | 3 => need (x.extractLsb' 2 5 == 0 && y.extractLsb' 5 2 == 0 && z == 0)
      (.bxfer (x.extractLsb' 0 2) (y.getLsbD 4) (y.getLsbD 3) (y.extractLsb' 0 3))
  | 4 => need (y.extractLsb' 2 5 == 0 && z == 0) (.call x (y.extractLsb' 0 2))
  | 5 => need (x == 0 && z == 0) (.ret y)
  | 6 => if x.getLsbD 4 then .ok (.loopRegister (x.extractLsb' 5 2) (x.extractLsb' 0 4) (y ++ z))
      else need (x.extractLsb' 0 4 == 0) (.loopTable (x.extractLsb' 5 2) (y ++ z))
  | 7 => need (x.extractLsb' 2 5 == 0 && y.extractLsb' 4 3 == 0 && y.extractLsb' 0 3 == 0 && z == 0)
      (.bpois (x.extractLsb' 0 2) (y.getLsbD 3))
  | _ => .error .unassignedFunction

/-- CL 6 (R176). -/
def decodeVote (fn : Nat) (x y z : BitVec 7) : Except Reject Instr :=
  match fn with
  | 0 => need (z == 0) (.vany x y)
  | 1 => need (z == 0) (.vall x y)
  | 2 => need (z == 0) (.vcount x y)
  | 3 => if y == 0 && z == 0 then .ok (.pvote x) else need (y == 0 && z == 1) (.pvoteClr x)
  | _ => .error .unassignedFunction

/-- CL 7 (R193). -/
def decodeSync (fn : Nat) (x y z : BitVec 7) : Except Reject Instr :=
  match fn with
  | 0 => .ok (.fladd (x.extractLsb' 4 3) (x.extractLsb' 0 4) y z)
  | 1 => .ok (.flset (x.extractLsb' 4 3) (x.extractLsb' 0 4) y z)
  | 2 => need (x.extractLsb' 6 1 == 0) (.flwait (x.extractLsb' 4 2) (x.extractLsb' 0 4) y z)
  | 3 => need (x.extractLsb' 5 2 == 0) (.cwait (x.extractLsb' 0 5) (y ++ z))
  | 4 => need (x.extractLsb' 5 2 == 0 && y == 0 && z == 0)
      (.fence (x.extractLsb' 2 3) (x.getLsbD 1) (x.getLsbD 0))
  | _ => .error .unassignedFunction

/-- CL 8 (R200). -/
def decodeLink (fn : Nat) (x y z : BitVec 7) : Except Reject Instr :=
  match fn with
  | 0 => need (x.extractLsb' 4 3 == 0 && z == 0) (.epush (x.extractLsb' 0 4) y)
  | 1 => need (y.extractLsb' 4 3 == 0 && z == 0) (.epop x (y.extractLsb' 0 4))
  | 2 => need (x.extractLsb' 5 2 == 0 && y.extractLsb' 4 3 == 0)
      (.send (x.getLsbD 4) (x.extractLsb' 0 4) (y.extractLsb' 0 4) z)
  | 3 => need (x.extractLsb' 5 2 == 0 && z == 0) (.realign (x.extractLsb' 0 5) y)
  | _ => .error .unassignedFunction

/-- CL 9 (R181). -/
def decodeCap (fn : Nat) (x y z : BitVec 7) : Except Reject Instr :=
  match fn with
  | 0 => .ok (.cderive x y z)
  | 1 => need (y.extractLsb' 5 2 == 0) (.cnarrow x (y.getLsbD 4) (y.extractLsb' 0 4) z)
  | 2 => .ok (.cst x y z)
  | 3 => .ok (.cld (x.extractLsb' 4 3) (x.extractLsb' 0 4) y z)
  | 4 => .ok (.ccheck (x.extractLsb' 3 4) (x.extractLsb' 0 3) y z)
  | _ => .error .unassignedFunction

/-- CL 11 (R240 to R247). -/
def decodeNet (fn : Nat) (x y z : BitVec 7) : Except Reject Instr :=
  match fn with
  | 0 => if !y.getLsbD 6 then .ok (.vld x (y.extractLsb' 0 6) (z.extractLsb' 3 4) (z.extractLsb' 0 3))
      else if y.getLsbD 0 then
        need (y.extractLsb' 1 5 == 0 && z.extractLsb' 3 4 == 0) (.vldDec x (z.extractLsb' 0 3))
      else need (y.extractLsb' 1 5 == 0) (.vldStraight x (z.extractLsb' 3 4) (z.extractLsb' 0 3))
  | 1 => if !y.getLsbD 6 then .ok (.vst x (y.extractLsb' 0 6) (z.extractLsb' 3 4) (z.extractLsb' 0 3))
      else if y.getLsbD 0 then
        need (y.extractLsb' 1 5 == 0 && z.extractLsb' 3 4 == 0) (.vstEnc x (z.extractLsb' 0 3))
      else need (y.extractLsb' 1 5 == 0) (.vstStraight x (z.extractLsb' 3 4) (z.extractLsb' 0 3))
  | 2 => need (y.extractLsb' 5 2 == 0)
      (.vldx x (y.extractLsb' 0 5) (z.extractLsb' 3 4) (z.extractLsb' 0 3))
  | 3 => need (y.extractLsb' 5 2 == 0)
      (.vstx x (y.extractLsb' 0 5) (z.extractLsb' 3 4) (z.extractLsb' 0 3))
  | 4 => need (z.extractLsb' 6 1 == 0)
      (.bcopy (x.getLsbD 6) (x.extractLsb' 0 6) (y.getLsbD 6) (y.extractLsb' 0 6)
        (z.extractLsb' 3 3) (z.extractLsb' 0 3))
  | 5 => need (z.extractLsb' 6 1 == 0) (.vperm x y (z.extractLsb' 0 6))
  | 6 => need (x.extractLsb' 6 1 == 0) (.llast (x.extractLsb' 0 6) (y ++ z))
  | _ => .error .unassignedFunction

/-- CL 12 (R248). -/
def decodeEdge (fn : Nat) (x y z : BitVec 7) : Except Reject Instr :=
  match fn with
  | 0 => need (x.extractLsb' 4 3 == 0 && z.extractLsb' 5 2 == 0)
      (.esend (x.extractLsb' 0 4) y (z.extractLsb' 0 5))
  | 1 => need (y.extractLsb' 2 5 == 0 && z.extractLsb' 5 2 == 0)
      (.erecv x (y.extractLsb' 0 2) (z.extractLsb' 0 5))
  | 2 => need (x.extractLsb' 4 3 == 0 && y == 0 && z.extractLsb' 3 4 == 0)
      (.halo (x.extractLsb' 0 4) (z.extractLsb' 0 3))
  | _ => .error .unassignedFunction

/-- CL 2 (R156). -/
def decodeSalu (fn : Nat) (x y z : BitVec 7) : Except Reject Instr :=
  match fn with
  | 0 => .ok (.add x y z)
  | 1 => .ok (.sub x y z)
  | 2 => .ok (.and x y z)
  | 3 => .ok (.or x y z)
  | 4 => .ok (.xor x y z)
  | 5 => .ok (.andn x y z)
  | 6 => .ok (.shl x y z)
  | 7 => .ok (.shr x y z)
  | 8 => .ok (.sar x y z)
  | 9 => .ok (.mul x y z)
  | 10 => .ok (.mulh x y z)
  | 11 => .ok (.mulhu x y z)
  | 12 => .ok (.min x y z)
  | 13 => .ok (.max x y z)
  | 14 => .ok (.minu x y z)
  | 15 => .ok (.maxu x y z)
  | 16 => .ok (.seq x y z)
  | 17 => .ok (.sne x y z)
  | 18 => .ok (.slt x y z)
  | 19 => .ok (.sltu x y z)
  | 20 => .ok (.div x y z)
  | 21 => .ok (.divu x y z)
  | 22 => .ok (.rem x y z)
  | 23 => .ok (.remu x y z)
  | _ => .error .unassignedFunction

/-- CL 3 (R158). -/
def decodeSimm (fn : Nat) (x y z : BitVec 7) : Except Reject Instr :=
  match fn with
  | 0 => .ok (.addi x (y ++ z))
  | 1 => .ok (.andi x (y ++ z))
  | 2 => .ok (.ori x (y ++ z))
  | 3 => .ok (.xori x (y ++ z))
  | 4 => .ok (.shli x (y ++ z))
  | 5 => .ok (.shri x (y ++ z))
  | 6 => .ok (.sari x (y ++ z))
  | 7 => .ok (.muli x (y ++ z))
  | 8 => .ok (.mini x (y ++ z))
  | 9 => .ok (.maxi x (y ++ z))
  | 10 => .ok (.slti x (y ++ z))
  | 11 => .ok (.seqi x (y ++ z))
  | 12 => .ok (.li x (y ++ z))
  | _ => .error .unassignedFunction

/-- CL 4 (R160). -/
def decodeSmem (fn : Nat) (x y z : BitVec 7) : Except Reject Instr :=
  match fn with
  | 0 => .ok (.ldd x y z)
  | 1 => .ok (.ldw x y z)
  | 2 => .ok (.ldwu x y z)
  | 3 => .ok (.std x y z)
  | 4 => .ok (.stw x y z)
  | _ => .error .unassignedFunction

/-- CL 10 (R220). -/
def decodeXalu (fn : Nat) (x y z : BitVec 7) : Except Reject Instr :=
  match fn with
  | 0 => .ok (.xadd x y z)
  | 1 => .ok (.xsub x y z)
  | 2 => .ok (.xmul x y z)
  | 3 => .ok (.xand x y z)
  | 4 => .ok (.xior x y z)
  | 5 => .ok (.xeor x y z)
  | 6 => .ok (.xshl x y z)
  | 7 => .ok (.xshr x y z)
  | 8 => .ok (.xsar x y z)
  | 9 => .ok (.xmin x y z)
  | 10 => .ok (.xmax x y z)
  | 11 => .ok (.xaddi x (y ++ z))
  | 12 => .ok (.xli x (y ++ z))
  | _ => .error .unassignedFunction

/-- CL 13 (R221 to R227). -/
def decodeVint (fn : Nat) (x y z : BitVec 7) : Except Reject Instr :=
  match fn with
  | 0 => .ok (.vadd x y z)
  | 1 => .ok (.vsub x y z)
  | 2 => .ok (.vadds x y z)
  | 3 => .ok (.vsubs x y z)
  | 4 => .ok (.vmul x y z)
  | 5 => .ok (.vmulh x y z)
  | 6 => .ok (.vmin x y z)
  | 7 => .ok (.vmax x y z)
  | 8 => .ok (.vand x y z)
  | 9 => .ok (.vior x y z)
  | 10 => .ok (.veor x y z)
  | 11 => .ok (.vshl x y z)
  | 12 => .ok (.vshr x y z)
  | 13 => need (z == 0) (.vabs x y)
  | 14 => .ok (.vcmpeq x y z)
  | 15 => .ok (.vcmplt x y z)
  | 16 => .ok (.vsel x y z)
  | 17 => need (y.extractLsb' 2 5 == 0) (.vrng x (y.extractLsb' 0 2) z)
  | _ => .error .unassignedFunction

/-- CL 14 (R228 to R230). -/
def decodeVflt (fn : Nat) (x y z : BitVec 7) : Except Reject Instr :=
  match fn with
  | 0 => .ok (.vfadd x y z)
  | 1 => .ok (.vfsub x y z)
  | 2 => .ok (.vfmul x y z)
  | 3 => .ok (.vfma x y z)
  | 4 => .ok (.vfnma x y z)
  | 5 => .ok (.vfmin x y z)
  | 6 => .ok (.vfmax x y z)
  | 7 => need (z == 0) (.vfabs x y)
  | 8 => need (z == 0) (.vfneg x y)
  | 9 => .ok (.vfcmpeq x y z)
  | 10 => .ok (.vfcmplt x y z)
  | 11 => .ok (.vfcmple x y z)
  | 12 => need (z == 0) (.vfrcp x y)
  | 13 => need (z == 0) (.vfrsq x y)
  | 14 => need (z == 0) (.vfexp2 x y)
  | 15 => need (z == 0) (.vflog2 x y)
  | 16 => need (z == 0) (.vfsqrt x y)
  | _ => .error .unassignedFunction

/-- CL 15 (R135, R231 to R235): the destination format is the function code. -/
def decodeVcvt (fn : Nat) (x y z : BitVec 7) : Except Reject Instr :=
  let rm := z.extractLsb' 4 3
  let c := z.extractLsb' 0 4
  match fn with
  | 5 | 6 | 13 | 14 | 15 | 21 | 22 | 31 => .error .unassignedFunction
  | 29 => .ok (.vquant x y rm c)
  | 30 => .ok (.vdeq x y rm c)
  | n => if n < 16 then .ok (.vcvt (BitVec.ofNat 4 n) x y rm c) else .ok (.vcvts (BitVec.ofNat 4 n) x y rm c)

/-- CL 16 (R236). -/
def decodeVpred (fn : Nat) (x y z : BitVec 7) : Except Reject Instr :=
  match fn with
  | 0 => .ok (.pand x y z)
  | 1 => .ok (.pior x y z)
  | 2 => .ok (.peor x y z)
  | 3 => .ok (.pandn x y z)
  | 4 => need (z == 0) (.pnot x y)
  | 5 => need (y == 0 && z == 0) (.pall x)
  | 6 => need (y == 0 && z == 0) (.pnone x)
  | _ => .error .unassignedFunction

/-- CL 17 (R251). -/
def decodeScan (fn : Nat) (x y z : BitVec 7) : Except Reject Instr :=
  match fn with
  | 0 => .ok (.scan x y (z.extractLsb' 4 3) (z.extractLsb' 2 2) (z.extractLsb' 0 2))
  | 1 => .ok (.segscan x y (z.extractLsb' 4 3) (z.extractLsb' 2 2) (z.extractLsb' 0 2))
  | 2 => .ok (.reduce x y (z.extractLsb' 4 3) (z.extractLsb' 2 2) (z.extractLsb' 0 2))
  | 3 => .ok (.topk x y (z.extractLsb' 3 4) (z.getLsbD 2) (z.extractLsb' 0 2))
  | 4 => need (z.extractLsb' 6 1 == 0) (.sort x y (z.extractLsb' 3 3) (z.getLsbD 2) (z.extractLsb' 0 2))
  | 5 => need (z.extractLsb' 5 2 == 0) (.compact x y (z.extractLsb' 0 5))
  | 6 => need (z.extractLsb' 1 6 == 0) (.hist x y (z.getLsbD 0))
  | _ => .error .unassignedFunction

/-- CL 18 (R257). -/
def decodeAwl (fn : Nat) (x y z : BitVec 7) : Except Reject Instr :=
  match fn with
  | 0 => need (z.extractLsb' 5 2 == 0)
      (if x.getLsbD 6 then .awlScatter (x.extractLsb' 0 6) y (z.getLsbD 4) (z.extractLsb' 0 4)
       else .awlGather (x.extractLsb' 0 6) y (z.getLsbD 4) (z.extractLsb' 0 4))
  | _ => .error .unassignedFunction

/-- CL 19 (R261). -/
def decodeMtx (fn : Nat) (x y z : BitVec 7) : Except Reject Instr :=
  match fn with
  | 0 => need (z == 0) (.mpar x y)
  | 1 => need (x.extractLsb' 5 2 == 0) (.mcall (x.extractLsb' 0 5) (y ++ z))
  | 2 => if x.getLsbD 4 then
        need (x.extractLsb' 0 4 == 0 && z.extractLsb' 3 4 == 0)
          (.mldwScl (x.extractLsb' 5 2) (y.getLsbD 6) (y.extractLsb' 0 6) (z.extractLsb' 0 3))
      else need (x.extractLsb' 0 1 == 0 && z.extractLsb' 3 4 == 0)
          (.mldw (x.extractLsb' 5 2) (x.extractLsb' 1 3) (y.getLsbD 6) (y.extractLsb' 0 6) (z.extractLsb' 0 3))
  | 3 => need (x.extractLsb' 2 5 == 0 && y == 0 && z == 0) (.msel (x.extractLsb' 0 2))
  | _ => .error .unassignedFunction

/-- CL 20 (R261). CLR with DIR = 1 is no form (R277). -/
def decodeAcc (fn : Nat) (x y z : BitVec 7) : Except Reject Instr :=
  match fn with
  | 0 => if z.getLsbD 6 then
        need (!y.getLsbD 6 && z.extractLsb' 3 2 == 0)
          (.amovTo x (y.extractLsb' 0 6) (z.getLsbD 5) (z.extractLsb' 0 3))
      else if y.getLsbD 6 then
        need (z.extractLsb' 3 2 == 0) (.amovClr x (y.extractLsb' 0 6) (z.getLsbD 5) (z.extractLsb' 0 3))
      else need (z.extractLsb' 3 2 == 0) (.amov x (y.extractLsb' 0 6) (z.getLsbD 5) (z.extractLsb' 0 3))
  | 1 => need (x == 0 && y.extractLsb' 6 1 == 0 && z.extractLsb' 6 1 == 0)
      (.aclr (y.extractLsb' 0 6) (z.extractLsb' 0 6))
  | 2 => need (y.extractLsb' 6 1 == 0)
      (.atopk (x.getLsbD 6) (x.extractLsb' 0 6) (y.extractLsb' 0 6) (z.extractLsb' 3 4) (z.extractLsb' 0 3))
  | _ => .error .unassignedFunction

/-- The fields of a COPY slot, bits 20:7 (R281). -/
def copyG (x : BitVec 7) : BitVec 4 := x.extractLsb' 3 4
def copyXa (x : BitVec 7) : BitVec 3 := x.extractLsb' 0 3
def copyXm (y : BitVec 7) : BitVec 5 := y.extractLsb' 2 5
def copyLn (y : BitVec 7) : BitVec 2 := y.extractLsb' 0 2

/-- CL 21 (R281). -/
def decodeCopy (fn : Nat) (x y z : BitVec 7) : Except Reject Instr :=
  match fn with
  | 0 => .ok (.tld (copyG x) (copyXa x) (copyXm y) (copyLn y) z)
  | 1 => need (z == 0) (.tst (copyG x) (copyXa x) (copyXm y) (copyLn y))
  | 2 => need (z.extractLsb' 5 2 == 0) (.ald (copyG x) (copyXa x) (copyXm y) (copyLn y) (z.extractLsb' 0 5))
  | 3 => need (z.extractLsb' 5 2 == 0) (.ast (copyG x) (copyXa x) (copyXm y) (copyLn y) (z.extractLsb' 0 5))
  | 4 => need (z == 0) (.ntst (copyG x) (copyXa x) (copyXm y) (copyLn y))
  | 5 => need (x == 0 && y == 0 && z.extractLsb' 5 2 == 0) (.drain (z.extractLsb' 0 5))
  | _ => .error .unassignedFunction

/-- CL 22 (R293). -/
def decodeAtom (fn : Nat) (x y z : BitVec 7) : Except Reject Instr :=
  match fn with
  | 0 => .ok (.amo (copyG x) (copyXa x) y (z.extractLsb' 4 3) (z.extractLsb' 2 2) (z.extractLsb' 0 2))
  | 1 => need (z.extractLsb' 2 5 == 0) (.cas (copyG x) (copyXa x) y (z.extractLsb' 0 2))
  | 2 => need (z.extractLsb' 0 2 == 0) (.red (copyG x) (copyXa x) y (z.extractLsb' 4 3) (z.extractLsb' 2 2))
  | _ => .error .unassignedFunction

/-- CL 23 (R297). -/
def decodeStack (fn : Nat) (x y z : BitVec 7) : Except Reject Instr :=
  match fn with
  | 0 => need (y.extractLsb' 5 2 == 0 && z.extractLsb' 6 1 == 0)
      (.sbst x (y.extractLsb' 0 5) (z.extractLsb' 3 3) (z.extractLsb' 0 3))
  | 1 => need (y.extractLsb' 5 2 == 0 && z.extractLsb' 6 1 == 0)
      (.sbld x (y.extractLsb' 0 5) (z.extractLsb' 3 3) (z.extractLsb' 0 3))
  | _ => .error .unassignedFunction

/-- The decoder of one class (R135). -/
def decodeClass (cl fn : Nat) (x y z : BitVec 7) : Except Reject Instr :=
  match cl with
  | 0 => decodeSys fn x y z
  | 1 => decodeBctl fn x y z
  | 2 => decodeSalu fn x y z
  | 3 => decodeSimm fn x y z
  | 4 => decodeSmem fn x y z
  | 5 => decodeFlow fn x y z
  | 6 => decodeVote fn x y z
  | 7 => decodeSync fn x y z
  | 8 => decodeLink fn x y z
  | 9 => decodeCap fn x y z
  | 10 => decodeXalu fn x y z
  | 11 => decodeNet fn x y z
  | 12 => decodeEdge fn x y z
  | 13 => decodeVint fn x y z
  | 14 => decodeVflt fn x y z
  | 15 => decodeVcvt fn x y z
  | 16 => decodeVpred fn x y z
  | 17 => decodeScan fn x y z
  | 18 => decodeAwl fn x y z
  | 19 => decodeMtx fn x y z
  | 20 => decodeAcc fn x y z
  | 21 => decodeCopy fn x y z
  | 22 => decodeAtom fn x y z
  | 23 => decodeStack fn x y z
  | 24 => if fn = 0 then .ok (.limm (x ++ y ++ z)) else .error .unassignedFunction
  | _ => .error .unassignedClass

/-- The stop bit of a slot word (R133). -/
def stopBit (w : Word) : Bool := w.getLsbD 31
def slotClass (w : Word) : BitVec 5 := w.extractLsb' 26 5
def slotFn (w : Word) : BitVec 5 := w.extractLsb' 21 5
def slotX (w : Word) : BitVec 7 := w.extractLsb' 14 7
def slotY (w : Word) : BitVec 7 := w.extractLsb' 7 7
def slotZ (w : Word) : BitVec 7 := w.extractLsb' 0 7

/-- One slot word, its stop bit aside (R133, R135). -/
def decodeSlot (w : Word) : Except Reject Instr :=
  decodeClass (slotClass w).toNat (slotFn w).toNat (slotX w) (slotY w) (slotZ w)

/-- The little-endian word of four bytes (R4). -/
def leWord (b0 b1 b2 b3 : Byte) : Word := b3 ++ b2 ++ b1 ++ b0

/-- One slot at the head of a list of bytes, with its stop bit and the bytes after it. -/
def decodeBytes : List Byte → Except Reject (Instr × Bool × List Byte)
  | b0 :: b1 :: b2 :: b3 :: rest =>
    let w := leWord b0 b1 b2 b3
    match decodeSlot w with
    | .ok i => .ok (i, stopBit w, rest)
    | .error e => .error e
  | _ => .error .truncated

/-- The bytes of a word as the machine stores it (R4). -/
def wordBytes (w : Word) : List Byte :=
  [w.extractLsb' 0 8, w.extractLsb' 8 8, w.extractLsb' 16 8, w.extractLsb' 24 8]

/-- The instruction the decoder reads from the bits of one table row. -/
def decodeTableWord (nbits w : Nat) : Option Instr :=
  if nbits ≤ 32 then
    match decodeBytes (wordBytes (BitVec.ofNat 32 (w % 2 ^ nbits))) with
    | .ok (i, _, _) => some i
    | .error _ => none
  else none

/-- A micro-word's operation and fields (R269); every bit not named must be zero. -/
def decodeMicro (w : DWord) : Option Instr :=
  let rest (hi lo : Nat) : Bool := (w.extractLsb' lo (hi + 1 - lo)).toNat == 0
  match (w.extractLsb' 60 4).toNat with
  | 0 => if rest 59 0 then some .endm else none
  | 1 => if rest 59 0 then some .rowin else none
  | 2 => if rest 59 0 then some .step else none
  | 3 => if rest 58 0 then some (.accum (w.getLsbD 59)) else none
  | 4 => if rest 59 2 then some (.plane (w.extractLsb' 0 2)) else none
  | 5 =>
    let csrc := w.extractLsb' 50 2
    let n := w.extractLsb' 0 24
    if rest 59 56 && rest 49 24 && w.extractLsb' 52 4 != 0 && (csrc == 0 || n == 0) then
      some (.loopm (w.extractLsb' 52 4) csrc n) else none
  | 6 => if rest 59 12 && w.extractLsb' 0 12 != 0 then some (.waitin (w.extractLsb' 0 12)) else none
  | 7 => if rest 59 0 then some .rstc else none
  | 8 => if rest 59 9 then some (.abas (w.extractLsb' 0 9)) else none
  | 9 => if rest 59 7 then some (.tadd (w.extractLsb' 0 7)) else none
  | _ => none

/-- A slot word from its fields (R133). -/
def asm (s : Bool) (cl fn : Nat) (x y z : BitVec 7) : Word :=
  BitVec.ofBool s ++ BitVec.ofNat 5 cl ++ BitVec.ofNat 5 fn ++ x ++ y ++ z

/-- The word of a slot form with stop bit `s` (R133, R135 and the encoding tables); the micro-operations and the
events have no slot word. -/
def encode (s : Bool) : Instr → Option Word
  | .nop => some (asm s 0 0 0 0 0)
  | .tlaunch g q => some (asm s 0 1 (0#3 ++ g) (0#3 ++ q) 0)
  | .texit a => some (asm s 0 2 0 a 0)
  | .yield => some (asm s 0 3 0 0 0)
  | .trap c => some (asm s 0 4 0 (hi7 c) (lo7 c))
  | .eret a => some (asm s 0 5 0 a 0)
  | .eretKill a => some (asm s 0 5 0 a 1)
  | .mfsr d r => some (asm s 0 6 d (0#2 ++ r.extractLsb' 7 5) (r.extractLsb' 0 7))
  | .mtsr a r => some (asm s 0 7 a (0#2 ++ r.extractLsb' 7 5) (r.extractLsb' 0 7))
  | .lsleepDoze n a => some (asm s 0 8 (0#2 ++ n) a 0)
  | .lsleepOff n a => some (asm s 0 8 (0#2 ++ n) a 1)
  | .lwake n a => some (asm s 0 9 (0#2 ++ n) a 0)
  | .lstld n g a b => some (asm s 0 10 (n ++ g) a b)
  | .mpsld n g a b => some (asm s 0 11 (n ++ g) a b)
  | .bctl ginv gen gp gap is fw iw sway sealed => some (asm s 1 0
      (0#1 ++ BitVec.ofBool ginv ++ BitVec.ofBool gen ++ gp) gap
      (BitVec.ofBool is ++ fw ++ iw ++ BitVec.ofBool sway ++ BitVec.ofBool sealed))
  | .bprepRelative b i => some (asm s 5 0 (pad5 ++ b) (hi7 i) (lo7 i))
  | .bprepRegister b a => some (asm s 5 0 (1#1 ++ 0#4 ++ b) 0 a)
  | .bcmp c k a b => some (asm s 5 1 (c ++ k) a b)
  | .bcmpi c k a i => some (asm s 5 2 (c ++ k) a i)
  | .bxfer b alw neg k => some (asm s 5 3 (pad5 ++ b) (0#2 ++ BitVec.ofBool alw ++ BitVec.ofBool neg ++ k) 0)
  | .call d b => some (asm s 5 4 d (pad5 ++ b) 0)
  | .ret a => some (asm s 5 5 0 a 0)
  | .loopTable lv off => some (asm s 5 6 (lv ++ 0#1 ++ 0#4) (hi7 off) (lo7 off))
  | .loopRegister lv sc off => some (asm s 5 6 (lv ++ 1#1 ++ sc) (hi7 off) (lo7 off))
  | .bpois b neg => some (asm s 5 7 (pad5 ++ b) (0#3 ++ BitVec.ofBool neg ++ 0#3) 0)
  | .vany k p => some (asm s 6 0 k p 0)
  | .vall k p => some (asm s 6 1 k p 0)
  | .vcount d p => some (asm s 6 2 d p 0)
  | .pvote k => some (asm s 6 3 k 0 0)
  | .pvoteClr k => some (asm s 6 3 k 0 1)
  | .fladd c g a b => some (asm s 7 0 (c ++ g) a b)
  | .flset c g a b => some (asm s 7 1 (c ++ g) a b)
  | .flwait c g a b => some (asm s 7 2 (0#1 ++ c ++ g) a b)
  | .cwait n t => some (asm s 7 3 (0#2 ++ n) (hi7 t) (lo7 t))
  | .fence c acq rel => some (asm s 7 4 (0#2 ++ c ++ BitVec.ofBool acq ++ BitVec.ofBool rel) 0 0)
  | .epush e a => some (asm s 8 0 (0#3 ++ e) a 0)
  | .epop d e => some (asm s 8 1 d (0#3 ++ e) 0)
  | .send b gd gs a => some (asm s 8 2 (0#2 ++ BitVec.ofBool b ++ gd) (0#3 ++ gs) a)
  | .realign n a => some (asm s 8 3 (0#2 ++ n) a 0)
  | .cderive d g a => some (asm s 9 0 d g a)
  | .cnarrow d h g m => some (asm s 9 1 d (0#2 ++ BitVec.ofBool h ++ g) m)
  | .cst v b o => some (asm s 9 2 v b o)
  | .cld n d b o => some (asm s 9 3 (n ++ d) b o)
  | .ccheck g k o l => some (asm s 9 4 (g ++ k) o l)
  | .vld d le em xa => some (asm s 11 0 d (0#1 ++ le) (em ++ xa))
  | .vldStraight d em xa => some (asm s 11 0 d (1#1 ++ 0#6) (em ++ xa))
  | .vldDec d xa => some (asm s 11 0 d (1#1 ++ 1#6) (0#4 ++ xa))
  | .vst d le em xa => some (asm s 11 1 d (0#1 ++ le) (em ++ xa))
  | .vstStraight d em xa => some (asm s 11 1 d (1#1 ++ 0#6) (em ++ xa))
  | .vstEnc d xa => some (asm s 11 1 d (1#1 ++ 1#6) (0#4 ++ xa))
  | .vldx d xe em xa => some (asm s 11 2 d (0#2 ++ xe) (em ++ xa))
  | .vstx d xe em xa => some (asm s 11 3 d (0#2 ++ xe) (em ++ xa))
  | .bcopy r rl w wl xd xs => some (asm s 11 4 (BitVec.ofBool r ++ rl) (BitVec.ofBool w ++ wl) (0#1 ++ xd ++ xs))
  | .vperm d a le => some (asm s 11 5 d a (0#1 ++ le))
  | .llast le n => some (asm s 11 6 (0#1 ++ le) (hi7 n) (lo7 n))
  | .esend dm a lg => some (asm s 12 0 (0#3 ++ dm) a (0#2 ++ lg))
  | .erecv d dir lg => some (asm s 12 1 d (pad5 ++ dir) (0#2 ++ lg))
  | .halo dm xa => some (asm s 12 2 (0#3 ++ dm) 0 (0#4 ++ xa))
  | .vcvt f d a rm c => some (asm s 15 f.toNat d a (rm ++ c))
  | .vcvts f d a rm c => some (asm s 15 (16 + f.toNat) d a (rm ++ c))
  | .vquant d a rm n => some (asm s 15 29 d a (rm ++ n))
  | .vdeq d a rm n => some (asm s 15 30 d a (rm ++ n))
  | .pand d a b => some (asm s 16 0 d a b)
  | .pior d a b => some (asm s 16 1 d a b)
  | .peor d a b => some (asm s 16 2 d a b)
  | .pandn d a b => some (asm s 16 3 d a b)
  | .pnot d a => some (asm s 16 4 d a 0)
  | .pall d => some (asm s 16 5 d 0 0)
  | .pnone d => some (asm s 16 6 d 0 0)
  | .scan d a lr op ty => some (asm s 17 0 d a (lr ++ op ++ ty))
  | .segscan d a hp op ty => some (asm s 17 1 d a (hp ++ op ++ ty))
  | .reduce d a lr op ty => some (asm s 17 2 d a (lr ++ op ++ ty))
  | .topk d a xk dir ty => some (asm s 17 3 d a (xk ++ BitVec.ofBool dir ++ ty))
  | .sort d a g dir ty => some (asm s 17 4 d a (0#1 ++ g ++ BitVec.ofBool dir ++ ty))
  | .compact d a xc => some (asm s 17 5 d a (0#2 ++ xc))
  | .hist d a acc => some (asm s 17 6 d a (0#6 ++ BitVec.ofBool acc))
  | .awlGather le a pen pp => some (asm s 18 0 (0#1 ++ le) a (0#2 ++ BitVec.ofBool pen ++ pp))
  | .awlScatter le a pen pp => some (asm s 18 0 (1#1 ++ le) a (0#2 ++ BitVec.ofBool pen ++ pp))
  | .mpar m a => some (asm s 19 0 m a 0)
  | .mcall r bc => some (asm s 19 1 (0#2 ++ r) (hi7 bc) (lo7 bc))
  | .mldw pl fmt str le xa => some (asm s 19 2 (pl ++ 0#1 ++ fmt ++ 0#1) (BitVec.ofBool str ++ le) (0#4 ++ xa))
  | .mldwScl pl str le xa => some (asm s 19 2 (pl ++ 1#1 ++ 0#4) (BitVec.ofBool str ++ le) (0#4 ++ xa))
  | .msel pl => some (asm s 19 3 (pad5 ++ pl) 0 0)
  | .amov d t xen xt => some (asm s 20 0 d (0#1 ++ t) (0#1 ++ BitVec.ofBool xen ++ 0#2 ++ xt))
  | .amovClr d t xen xt => some (asm s 20 0 d (1#1 ++ t) (0#1 ++ BitVec.ofBool xen ++ 0#2 ++ xt))
  | .amovTo d t xen xt => some (asm s 20 0 d (0#1 ++ t) (1#1 ++ BitVec.ofBool xen ++ 0#2 ++ xt))
  | .aclr t c => some (asm s 20 1 0 (0#1 ++ t) (0#1 ++ c))
  | .atopk w le t xk xd => some (asm s 20 2 (BitVec.ofBool w ++ le) (0#1 ++ t) (xk ++ xd))
  | .tld g xa xm ln lat => some (asm s 21 0 (g ++ xa) (xm ++ ln) lat)
  | .tst g xa xm ln => some (asm s 21 1 (g ++ xa) (xm ++ ln) 0)
  | .ald g xa xm ln n => some (asm s 21 2 (g ++ xa) (xm ++ ln) (0#2 ++ n))
  | .ast g xa xm ln n => some (asm s 21 3 (g ++ xa) (xm ++ ln) (0#2 ++ n))
  | .ntst g xa xm ln => some (asm s 21 4 (g ++ xa) (xm ++ ln) 0)
  | .drain n => some (asm s 21 5 0 0 (0#2 ++ n))
  | .amo g xm d op ty n => some (asm s 22 0 (g ++ xm) d (op ++ ty ++ n))
  | .cas g xm d n => some (asm s 22 1 (g ++ xm) d (pad5 ++ n))
  | .red g xm d op ty => some (asm s 22 2 (g ++ xm) d (op ++ ty ++ 0#2))
  | .sbst v lg cnt xo => some (asm s 23 0 v (0#2 ++ lg) (0#1 ++ cnt ++ xo))
  | .sbld v lg cnt xo => some (asm s 23 1 v (0#2 ++ lg) (0#1 ++ cnt ++ xo))
  | .limm i => some (asm s 24 0 (i.extractLsb' 14 7) (i.extractLsb' 7 7) (i.extractLsb' 0 7))
  | .add d a b => some (asm s 2 0 d a b)
  | .sub d a b => some (asm s 2 1 d a b)
  | .and d a b => some (asm s 2 2 d a b)
  | .or d a b => some (asm s 2 3 d a b)
  | .xor d a b => some (asm s 2 4 d a b)
  | .andn d a b => some (asm s 2 5 d a b)
  | .shl d a b => some (asm s 2 6 d a b)
  | .shr d a b => some (asm s 2 7 d a b)
  | .sar d a b => some (asm s 2 8 d a b)
  | .mul d a b => some (asm s 2 9 d a b)
  | .mulh d a b => some (asm s 2 10 d a b)
  | .mulhu d a b => some (asm s 2 11 d a b)
  | .min d a b => some (asm s 2 12 d a b)
  | .max d a b => some (asm s 2 13 d a b)
  | .minu d a b => some (asm s 2 14 d a b)
  | .maxu d a b => some (asm s 2 15 d a b)
  | .seq d a b => some (asm s 2 16 d a b)
  | .sne d a b => some (asm s 2 17 d a b)
  | .slt d a b => some (asm s 2 18 d a b)
  | .sltu d a b => some (asm s 2 19 d a b)
  | .div d a b => some (asm s 2 20 d a b)
  | .divu d a b => some (asm s 2 21 d a b)
  | .rem d a b => some (asm s 2 22 d a b)
  | .remu d a b => some (asm s 2 23 d a b)
  | .addi d i => some (asm s 3 0 d (hi7 i) (lo7 i))
  | .andi d i => some (asm s 3 1 d (hi7 i) (lo7 i))
  | .ori d i => some (asm s 3 2 d (hi7 i) (lo7 i))
  | .xori d i => some (asm s 3 3 d (hi7 i) (lo7 i))
  | .shli d i => some (asm s 3 4 d (hi7 i) (lo7 i))
  | .shri d i => some (asm s 3 5 d (hi7 i) (lo7 i))
  | .sari d i => some (asm s 3 6 d (hi7 i) (lo7 i))
  | .muli d i => some (asm s 3 7 d (hi7 i) (lo7 i))
  | .mini d i => some (asm s 3 8 d (hi7 i) (lo7 i))
  | .maxi d i => some (asm s 3 9 d (hi7 i) (lo7 i))
  | .slti d i => some (asm s 3 10 d (hi7 i) (lo7 i))
  | .seqi d i => some (asm s 3 11 d (hi7 i) (lo7 i))
  | .li d i => some (asm s 3 12 d (hi7 i) (lo7 i))
  | .ldd d a b => some (asm s 4 0 d a b)
  | .ldw d a b => some (asm s 4 1 d a b)
  | .ldwu d a b => some (asm s 4 2 d a b)
  | .std d a b => some (asm s 4 3 d a b)
  | .stw d a b => some (asm s 4 4 d a b)
  | .xadd d a b => some (asm s 10 0 d a b)
  | .xsub d a b => some (asm s 10 1 d a b)
  | .xmul d a b => some (asm s 10 2 d a b)
  | .xand d a b => some (asm s 10 3 d a b)
  | .xior d a b => some (asm s 10 4 d a b)
  | .xeor d a b => some (asm s 10 5 d a b)
  | .xshl d a b => some (asm s 10 6 d a b)
  | .xshr d a b => some (asm s 10 7 d a b)
  | .xsar d a b => some (asm s 10 8 d a b)
  | .xmin d a b => some (asm s 10 9 d a b)
  | .xmax d a b => some (asm s 10 10 d a b)
  | .xaddi d i => some (asm s 10 11 d (hi7 i) (lo7 i))
  | .xli d i => some (asm s 10 12 d (hi7 i) (lo7 i))
  | .vadd d a b => some (asm s 13 0 d a b)
  | .vsub d a b => some (asm s 13 1 d a b)
  | .vadds d a b => some (asm s 13 2 d a b)
  | .vsubs d a b => some (asm s 13 3 d a b)
  | .vmul d a b => some (asm s 13 4 d a b)
  | .vmulh d a b => some (asm s 13 5 d a b)
  | .vmin d a b => some (asm s 13 6 d a b)
  | .vmax d a b => some (asm s 13 7 d a b)
  | .vand d a b => some (asm s 13 8 d a b)
  | .vior d a b => some (asm s 13 9 d a b)
  | .veor d a b => some (asm s 13 10 d a b)
  | .vshl d a b => some (asm s 13 11 d a b)
  | .vshr d a b => some (asm s 13 12 d a b)
  | .vcmpeq d a b => some (asm s 13 14 d a b)
  | .vcmplt d a b => some (asm s 13 15 d a b)
  | .vsel d a b => some (asm s 13 16 d a b)
  | .vfadd d a b => some (asm s 14 0 d a b)
  | .vfsub d a b => some (asm s 14 1 d a b)
  | .vfmul d a b => some (asm s 14 2 d a b)
  | .vfma d a b => some (asm s 14 3 d a b)
  | .vfnma d a b => some (asm s 14 4 d a b)
  | .vfmin d a b => some (asm s 14 5 d a b)
  | .vfmax d a b => some (asm s 14 6 d a b)
  | .vfabs d a => some (asm s 14 7 d a 0)
  | .vfneg d a => some (asm s 14 8 d a 0)
  | .vfcmpeq d a b => some (asm s 14 9 d a b)
  | .vfcmplt d a b => some (asm s 14 10 d a b)
  | .vfcmple d a b => some (asm s 14 11 d a b)
  | .vfrcp d a => some (asm s 14 12 d a 0)
  | .vfrsq d a => some (asm s 14 13 d a 0)
  | .vfexp2 d a => some (asm s 14 14 d a 0)
  | .vflog2 d a => some (asm s 14 15 d a 0)
  | .vfsqrt d a => some (asm s 14 16 d a 0)
  | .vabs d a => some (asm s 13 13 d a 0)
  | .vrng d g c => some (asm s 13 17 d (pad5 ++ g) c)
  | .endm | .rowin | .step | .accum _ | .plane _ | .loopm .. | .waitin _ | .rstc | .abas _ | .tadd _ => none
  | .flrstWrite .. | .preqSave .. | .preqKill .. | .hostPreemptRecord .. | .tinvAll | .tinvObject _
  | .tinvPage .. | .fservWrite .. | .plctlArm .. | .lstatClear .. | .sotWrite .. => none
  | .regionCommit .. | .freezeSwitch _ | .waitSatisfied .. | .resumeHoldEnd .. | .watchdog ..
  | .priorityAgeing .. | .starvationSwitch .. | .waitPass _ | .laggingHit _ | .late .. => none
  | .timedLanding .. | .copyRowArrival _ | .cldDataArrival _ | .atomicReply _ | .loadPerform _
  | .storePerform _ | .atomicPerform _ | .releaseWaitEnd _ | .flagUpdateApply .. | .stackBusSlot _
  | .stackBeatApply .. | .epushDeferred .. | .eyeletWordSend .. | .eyeletWordArrival .. | .eyeletCredit ..
  | .tlaunchDeferredAppend .. => none
  | .sendReady _ | .sendDepart _ | .flitArrival .. | .shortNetworkSlot .. | .flitReplay .. | .flitAck ..
  | .keyInstall .. | .keyRolloverComplete .. | .keyPhaseExhausted .. | .laneFailure .. | .linkEnable ..
  | .lanesLock .. | .trainTimeout .. | .identify .. | .quarantineRelease .. | .linkDisable ..
  | .timestampExchangeDone .. | .staleTimeout .. | .planSwitch | .slotTableLoad .. => none
  | .launchFrame .. | .restoreFrame .. | .statusRingFree _ | .schedulerSelect _ | .headAgeing ..
  | .placementComplete .. | .gangReady .. | .gangStart .. | .gangStartTick .. | .gangTimeout _
  | .gangAbort .. | .gangFail _ => none
  | .taskRetire .. | .trapRecordWrite .. | .heldTrapEffect .. | .preemptEffect .. | .saveRecordWrite ..
  | .taggedItemComplete _ | .killRelease .. => none
  | .hostTrapResume .. | .hostTrapKill .. | .hostWalkReply .. | .hostFaultServiced .. | .hostServoReply ..
  | .hostPlaceReply .. | .hostSpareReply .. => none
  | .translationWalk _ | .remoteRequest .. | .tinvComplete | .lastStoreLoadComplete _ => none
  | .layerTransitionStart _ | .layerTransitionDone _ | .keeperCopyDone _ | .powerCheck _ | .junctionHot ..
  | .junctionCooled .. | .junctionCritical .. | .divChange _ => none
  | .softError .. | .networkRetry .. | .columnRetryExcess .. | .layerFailure .. | .telemetryReadClear _ => none
  | .powerOnReset .. | .kcapInstall _ | .supervisorInstall .. | .attestationRequest _ | .stavouxLinkFailure
  | .stavouxLinkRetrain | .stepAdvance _ => none

/-- The micro-word of a micro-operation (R269); the slots and the events have none. -/
def encodeMicro : Instr → Option DWord
  | .endm => some 0
  | .rowin => some (1#4 ++ 0#60)
  | .step => some (2#4 ++ 0#60)
  | .accum lag => some (3#4 ++ BitVec.ofBool lag ++ 0#59)
  | .plane p => some (4#4 ++ 0#58 ++ p)
  | .loopm len csrc n => some (5#4 ++ 0#4 ++ len ++ csrc ++ 0#26 ++ n)
  | .waitin n => some (6#4 ++ 0#48 ++ n)
  | .rstc => some (7#4 ++ 0#60)
  | .abas d => some (8#4 ++ 0#51 ++ d)
  | .tadd d => some (9#4 ++ 0#53 ++ d)
  | _ => none

end Sys2Proof
end

