-- ==== Sys2Proof/Machine/Operands.lean ====
section
/-!
DEFINITION. Operand forms: scalar codes and specials, immediates, vector and predicate operands, the guard; and the
registers, resources and shares each slot form names (R136, R137, R140 to R148, R186, R365).
-/

namespace Sys2Proof.Machine

/-! ### Scalar operands -/

/-- START + STRIDE·k in 32-bit two's complement (R38). -/
def loopVal (e : LoopEntry) (k : Nat) : Word := e.start.signExtend 32 + e.stride.signExtend 32 * BitVec.ofNat 32 k

/-- The iteration number a temporal level holds: 0 before it starts and after it ends (R38). -/
def LoopLevel.iter (l : LoopLevel) : Nat := if l.active then l.k else 0

/-- An index register at the sequencer (R142). -/
def Ctx.seqIndex (c : Ctx) (j : Nat) : Word :=
  let e := c.loopEntry j
  loopVal e (if e.kind = 1 then (c.loopOf j).iter else if e.kind = 4 then c.launch.gmi else 0)

/-- The specials 64–81 at the sequencer (R142); other codes do not decode. -/
def specialAt (s : State) (code : Nat) : DWord :=
  match code with
  | 65 => (s.me.seqIndex 0).signExtend 64
  | 66 => (s.me.seqIndex 1).signExtend 64
  | 67 => (s.me.seqIndex 2).signExtend 64
  | 68 => (s.me.seqIndex 3).signExtend 64
  | 71 => BitVec.ofNat 64 (s.lay % 8)
  | 72 => BitVec.ofNat 64 (s.lay / 8)
  | 73 => BitVec.ofNat 64 s.ctx
  | 74 => BitVec.ofNat 64 s.me.launch.gmi
  | 75 => BitVec.ofNat 64 (s.now % 2 ^ 48)
  | 76 => BitVec.ofNat 64 s.tower.cycle
  | 77 => s.tick
  | 78 => s.pkg.setWidth 64
  | 79 => s.dom.setWidth 64
  | 80 => 1
  | 81 => BitVec.allOnes 64
  | _ => 0

/-- A scalar source of a sequencer slot (R141). -/
def State.src (s : State) (c : BitVec 7) : DWord :=
  if c.toNat < 64 then s.me.sReg c.toNat else specialAt s c.toNat

/-- An immediate of width w, extended by a LIMM before the slot (R147). -/
def immNat (limm : Option (BitVec 21)) (w field : Nat) : Nat :=
  match limm with
  | some h => h.toNat * 2 ^ w + field
  | none => field
def immWidth (limm : Option (BitVec 21)) (w : Nat) : Nat := if limm.isSome then w + 21 else w
def immS (limm : Option (BitVec 21)) (w field : Nat) : DWord := sextNat (immWidth limm w) (immNat limm w field)
def immU (limm : Option (BitVec 21)) (w field : Nat) : DWord := BitVec.ofNat 64 (immNat limm w field)

/-- An index register in a cell (R38). -/
def Run.index (r : Run) (s : State) (j : Nat) : Word :=
  let c := s.ctxAt (ctxKey s.lay r.f.ctx)
  let e := c.loopEntry j
  loopVal e (match e.kind with
    | 1 => (r.f.ks[j]?).getD 0
    | 2 => cellRow r.cell
    | 3 => cellCol r.cell
    | 4 => c.launch.gmi
    | _ => 0)

/-- The specials in a cell, at its execution step (R142). -/
def Run.special (r : Run) (s : State) (code : Nat) : Word :=
  match code with
  | 65 => r.index s 0
  | 66 => r.index s 1
  | 67 => r.index s 2
  | 68 => r.index s 3
  | 69 => BitVec.ofNat 32 (cellRow r.cell)
  | 70 => BitVec.ofNat 32 (cellCol r.cell)
  | 71 => BitVec.ofNat 32 (s.lay % 8)
  | 72 => BitVec.ofNat 32 (s.lay / 8)
  | 73 => BitVec.ofNat 32 r.f.ctx
  | 74 => BitVec.ofNat 32 (s.ctxAt (ctxKey s.lay r.f.ctx)).launch.gmi
  | 75 => BitVec.ofNat 32 s.now
  | 76 => BitVec.ofNat 32 s.tower.cycle
  | 77 => s.tick.setWidth 32
  | 78 => s.pkg.setWidth 32
  | 79 => s.dom.setWidth 32
  | 80 => 1
  | 81 => BitVec.allOnes 32
  | _ => 0

def Run.key (r : Run) (s : State) : Nat := ccKey s.lay r.cell r.f.ctx
def Run.x (r : Run) (s : State) (n : Nat) : Word := mapGet 0 (s.ccAt (r.key s)).x n

/-- A scalar source of a cell slot: x0–x31, the carried s0–s31, or a special (R143). -/
def Run.src (r : Run) (s : State) (c : BitVec 7) : Word :=
  if c.toNat < 32 then r.x s c.toNat
  else if c.toNat < 64 then rowWord r.f.sregs (c.toNat - 32)
  else r.special s c.toNat

/-! ### Vector operands and the guard -/

def Run.share (r : Run) (s : State) : Share := (s.ctxAt (ctxKey s.lay r.f.ctx)).share
def Run.cellOf (r : Run) (s : State) : Cell := s.cellAt (cellKey s.lay r.cell)

/-- Vector register n of the share, and predicate n (R40, R144). -/
def Run.v (r : Run) (s : State) (n : Nat) : Lanes :=
  mapGet 0 (r.cellOf s).v (((r.share s).physV n).getD 0)
def Run.p (r : Run) (s : State) (n : Nat) : Row :=
  mapGet 0 (r.cellOf s).p (((r.share s).physP n).getD 0)
/-- A predicate operand's code is 96 + its number (R144). -/
def Run.pc (r : Run) (s : State) (c : BitVec 7) : Row := r.p s (c.toNat - 96)

/-- The lanes the bundle's guard leaves active (R140). -/
def Run.guard (r : Run) (s : State) : Row :=
  if r.f.bctl.gen then
    let p := r.p s r.f.bctl.gp.toNat
    if r.f.bctl.ginv then ~~~ p else p
  else BitVec.allOnes 1024

/-- A result for the active lanes of v[n]. -/
def Run.landV (r : Run) (n lat : Nat) (act : Row) (v : Lanes) (s : State) : State :=
  r.land (.v r.cell (((r.share s).physV n).getD 0)) lat (laneMask (fun l => act.getLsbD l)) v s
def Run.landP (r : Run) (n lat : Nat) (act : Row) (v : Row) (s : State) : State :=
  r.land (.p r.cell (((r.share s).physP n).getD 0)) lat (act.setWidth 32768) (v.setWidth 32768) s
def Run.landX (r : Run) (n lat : Nat) (v : Word) (s : State) : State :=
  r.land (.x r.cell n) lat (onesMask 32) (v.setWidth 32768) s

/-- Integer element width of the bundle (R139). -/
def Bctl.intWidth (b : Bctl) : Nat := match b.iw with | 0 => 32 | 1 => 16 | _ => 8

/-! ### What a slot names -/

/-- Register files for the checks of R41 and R137. -/
inductive RegFile where
  | s | g | k | b | x | v | p | m | last | plane | eyelet
  deriving DecidableEq, Repr

abbrev Reg := RegFile × Nat

def rng (f : RegFile) (a n : Nat) : List Reg := (upto n).map (fun i => (f, a + i))
def one (f : RegFile) (a : Nat) : List Reg := [(f, a)]
/-- Registers among scalar source codes. -/
def regS (c : BitVec 7) : List Reg := if c.toNat < 64 then [(.s, c.toNat)] else []
def regX (c : BitVec 7) : List Reg :=
  if c.toNat < 32 then [(.x, c.toNat)] else if c.toNat < 64 then [(.s, c.toNat - 32)] else []
def regP (c : BitVec 7) : List Reg := [(.p, c.toNat - 96)]
def lastReg (str : Bool) (le : BitVec 6) : List Reg := if str then [] else [(.last, le.toNat)]

/-- Destination registers (R137). -/
def dests : Instr → List Reg
  | .mfsr d _ => one .s d.toNat
  | .add d _ _ | .sub d _ _ | .and d _ _ | .or d _ _ | .xor d _ _ | .andn d _ _ | .shl d _ _ | .shr d _ _
  | .sar d _ _ | .mul d _ _ | .mulh d _ _ | .mulhu d _ _ | .min d _ _ | .max d _ _ | .minu d _ _ | .maxu d _ _
  | .seq d _ _ | .sne d _ _ | .slt d _ _ | .sltu d _ _ | .div d _ _ | .divu d _ _ | .rem d _ _ | .remu d _ _
  | .ldd d _ _ | .ldw d _ _ | .ldwu d _ _ => one .s d.toNat
  | .addi d _ | .andi d _ | .ori d _ | .xori d _ | .shli d _ | .shri d _ | .sari d _ | .muli d _ | .mini d _
  | .maxi d _ | .slti d _ | .seqi d _ | .li d _ => one .s d.toNat
  | .bprepRelative b _ | .bprepRegister b _ => one .b b.toNat
  | .bcmp _ k _ _ | .bcmpi _ k _ _ => one .k k.toNat
  | .call d _ => one .s d.toNat
  | .vany k _ | .vall k _ | .pvote k | .pvoteClr k => one .k k.toNat
  | .vcount d _ => one .s d.toNat
  | .epop d _ => one .s d.toNat
  | .cderive d _ _ | .cnarrow d _ _ _ => one .g d.toNat
  | .cld _ d _ _ => one .g d.toNat
  | .ccheck _ k _ _ => one .k k.toNat
  | .xadd d _ _ | .xsub d _ _ | .xmul d _ _ | .xand d _ _ | .xior d _ _ | .xeor d _ _ | .xshl d _ _ | .xshr d _ _
  | .xsar d _ _ | .xmin d _ _ | .xmax d _ _ => one .x d.toNat
  | .xaddi d _ | .xli d _ => one .x d.toNat
  | .vld d _ _ _ | .vldStraight d _ _ | .vldx d _ _ _ | .vperm d _ _ | .erecv d _ _ => one .v d.toNat
  | .vldDec d _ => rng .v d.toNat 2
  | .llast le _ => one .last le.toNat
  | .vadd d _ _ | .vsub d _ _ | .vadds d _ _ | .vsubs d _ _ | .vmul d _ _ | .vmulh d _ _ | .vmin d _ _ | .vmax d _ _
  | .vand d _ _ | .vior d _ _ | .veor d _ _ | .vshl d _ _ | .vshr d _ _ | .vsel d _ _ => one .v d.toNat
  | .vabs d _ => one .v d.toNat
  | .vcmpeq d _ _ | .vcmplt d _ _ | .vfcmpeq d _ _ | .vfcmplt d _ _ | .vfcmple d _ _ => regP d
  | .vrng d g _ => rng .v d.toNat (g.toNat + 1)
  | .vfadd d _ _ | .vfsub d _ _ | .vfmul d _ _ | .vfma d _ _ | .vfnma d _ _ | .vfmin d _ _ | .vfmax d _ _ => one .v d.toNat
  | .vfabs d _ | .vfneg d _ | .vfrcp d _ | .vfrsq d _ | .vfexp2 d _ | .vflog2 d _ | .vfsqrt d _ => one .v d.toNat
  | .vcvt f d _ _ c | .vcvts f d _ _ c => rng .v d.toNat (cvtDstRegs f.toNat c.toNat)
  | .vquant d _ _ _ => rng .v d.toNat 2
  | .vdeq d _ _ _ => rng .v d.toNat 4
  | .pand d _ _ | .pior d _ _ | .peor d _ _ | .pandn d _ _ => regP d
  | .pnot d _ => regP d
  | .pall d | .pnone d => regP d
  | .scan d _ _ _ _ | .segscan d _ _ _ _ | .reduce d _ _ _ _ => one .v d.toNat
  | .topk d _ _ _ _ | .sort d _ _ _ _ => rng .v d.toNat 2
  | .compact d _ xc => one .v d.toNat ++ one .x xc.toNat
  | .hist d _ _ => one .v d.toNat
  | .awlGather le _ _ _ | .awlScatter le _ _ _ => one .last le.toNat
  | .mpar m _ => one .m m.toNat
  | .amov d _ _ _ | .amovClr d _ _ _ => one .v d.toNat
  | .amo _ _ d _ _ _ | .cas _ _ d _ => one .v d.toNat
  | .sbld v _ _ _ => one .v v.toNat
  | _ => []

/-- Source registers, and the last-cache entries, planes and eyelets a slot names (R41, R351). -/
def srcs : Instr → List Reg
  | .tlaunch g _ => one .g g.toNat
  | .texit a | .eret a | .eretKill a => regS a
  | .mtsr a _ => regS a
  | .lsleepDoze _ a | .lsleepOff _ a | .lwake _ a => regS a
  | .lstld _ g a b | .mpsld _ g a b => one .g g.toNat ++ regS a ++ regS b
  | .add _ a b | .sub _ a b | .and _ a b | .or _ a b | .xor _ a b | .andn _ a b | .shl _ a b | .shr _ a b
  | .sar _ a b | .mul _ a b | .mulh _ a b | .mulhu _ a b | .min _ a b | .max _ a b | .minu _ a b | .maxu _ a b
  | .seq _ a b | .sne _ a b | .slt _ a b | .sltu _ a b | .div _ a b | .divu _ a b | .rem _ a b | .remu _ a b
  | .ldd _ a b | .ldw _ a b | .ldwu _ a b => regS a ++ regS b
  | .addi d _ | .andi d _ | .ori d _ | .xori d _ | .shli d _ | .shri d _ | .sari d _ | .muli d _ | .mini d _
  | .maxi d _ | .slti d _ | .seqi d _ => one .s d.toNat
  | .std d a b | .stw d a b => one .s d.toNat ++ regS a ++ regS b
  | .bprepRegister _ a => regS a
  | .bcmp _ _ a b => regS a ++ regS b
  | .bcmpi _ _ a _ => regS a
  | .bxfer b alw _ k => one .b b.toNat ++ (if alw then [] else one .k k.toNat)
  | .call _ b => one .b b.toNat
  | .ret a => regS a
  | .loopRegister _ sc _ => one .s sc.toNat
  | .bpois b _ => one .b b.toNat
  | .vany _ p | .vall _ p | .vcount _ p => regP p
  | .fladd _ g a b | .flset _ g a b | .flwait _ g a b => one .g g.toNat ++ regS a ++ regS b
  | .epush e a => one .eyelet e.toNat ++ regS a
  | .epop _ e => one .eyelet e.toNat
  | .send _ gd gs a => one .g gd.toNat ++ one .g gs.toNat ++ regS a
  | .realign _ a => regS a
  | .cderive _ g a => one .g g.toNat ++ rng .s a.toNat 2
  | .cnarrow _ _ g _ => one .g g.toNat
  | .cst v b o => one .g v.toNat ++ one .g b.toNat ++ regS o
  | .cld _ _ b o => one .g b.toNat ++ regS o
  | .ccheck g _ o l => one .g g.toNat ++ regS o ++ regS l
  | .xadd _ a b | .xsub _ a b | .xmul _ a b | .xand _ a b | .xior _ a b | .xeor _ a b | .xshl _ a b | .xshr _ a b
  | .xsar _ a b | .xmin _ a b | .xmax _ a b => regX a ++ regX b
  | .xaddi d _ => one .x d.toNat
  | .vld _ le _ xa => one .last le.toNat ++ one .x xa.toNat
  | .vldStraight _ _ xa => one .x xa.toNat
  | .vldDec _ xa => one .x xa.toNat
  | .vst d le _ xa => one .v d.toNat ++ one .last le.toNat ++ one .x xa.toNat
  | .vstStraight d _ xa => one .v d.toNat ++ one .x xa.toNat
  | .vstEnc d xa => rng .v d.toNat 2 ++ one .x xa.toNat
  | .vldx _ xe _ xa => one .x xe.toNat ++ one .x xa.toNat
  | .vstx d xe _ xa => one .v d.toNat ++ one .x xe.toNat ++ one .x xa.toNat
  | .bcopy rs rl ws wl xd xs => lastReg rs rl ++ lastReg ws wl ++ one .x xd.toNat ++ one .x xs.toNat
  | .vperm _ a le => one .v a.toNat ++ one .last le.toNat
  | .esend _ a _ => one .v a.toNat
  | .halo _ xa => one .x xa.toNat
  | .vadd _ a b | .vsub _ a b | .vadds _ a b | .vsubs _ a b | .vmul _ a b | .vmulh _ a b | .vmin _ a b | .vmax _ a b
  | .vand _ a b | .vior _ a b | .veor _ a b | .vshl _ a b | .vshr _ a b | .vcmpeq _ a b | .vcmplt _ a b
  | .vfadd _ a b | .vfsub _ a b | .vfmul _ a b | .vfmin _ a b | .vfmax _ a b | .vfcmpeq _ a b | .vfcmplt _ a b
  | .vfcmple _ a b => one .v a.toNat ++ one .v b.toNat
  | .vfma d a b | .vfnma d a b => one .v d.toNat ++ one .v a.toNat ++ one .v b.toNat
  | .vabs _ a | .vfabs _ a | .vfneg _ a | .vfrcp _ a | .vfrsq _ a | .vfexp2 _ a | .vflog2 _ a | .vfsqrt _ a => one .v a.toNat
  | .vsel d p a => one .v d.toNat ++ regP p ++ one .v a.toNat
  | .vrng _ _ c => regX c
  | .vcvt f _ a _ c | .vcvts f _ a _ c => rng .v a.toNat (cvtSrcRegs f.toNat c.toNat)
  | .vquant _ a _ _ => rng .v a.toNat 4
  | .vdeq _ a _ _ => rng .v a.toNat 2
  | .pand _ a b | .pior _ a b | .peor _ a b | .pandn _ a b => regP a ++ regP b
  | .pnot _ a => regP a
  | .scan _ a lr _ _ | .reduce _ a lr _ _ => one .v a.toNat ++ (if lr = 0 then [] else one .x lr.toNat)
  | .topk _ a xk _ _ => one .v a.toNat ++ one .x xk.toNat
  | .sort _ a _ _ _ | .compact _ a _ => one .v a.toNat
  | .segscan _ a hp _ _ => one .v a.toNat ++ one .p hp.toNat
  | .hist d a acc => one .v a.toNat ++ (if acc then one .v d.toNat else [])
  | .awlGather _ a pen pp | .awlScatter _ a pen pp => one .v a.toNat ++ (if pen then one .p pp.toNat else [])
  | .mpar _ a => regX a
  | .mldw pl _ str le xa | .mldwScl pl str le xa => one .plane pl.toNat ++ lastReg str le ++ one .x xa.toNat
  | .msel pl => one .plane pl.toNat
  | .amov _ _ xen xt | .amovClr _ _ xen xt => if xen then one .x xt.toNat else []
  | .amovTo d _ xen xt => one .v d.toNat ++ (if xen then one .x xt.toNat else [])
  | .atopk w le _ xk xd => lastReg w le ++ one .x xk.toNat ++ one .x xd.toNat
  | .tld g xa xm _ _ | .tst g xa xm _ | .ald g xa xm _ _ | .ast g xa xm _ _ | .ntst g xa xm _ =>
      one .g g.toNat ++ one .x xa.toNat ++ one .x xm.toNat
  | .amo g xm d _ _ _ | .red g xm d _ _ => one .g g.toNat ++ one .x xm.toNat ++ rng .v d.toNat 2
  | .cas g xm d _ => one .g g.toNat ++ one .x xm.toNat ++ rng .v d.toNat 3
  | .sbst v _ _ xo => one .v v.toNat ++ one .x xo.toNat
  | .sbld _ _ _ xo => one .x xo.toNat
  | _ => []

/-- Whether a named register, plane, entry or eyelet lies in the share (R40, R41). -/
def Share.has (h : Share) (r : Reg) : Bool :=
  match r.1 with
  | .v => (h.physV r.2).isSome
  | .p => (h.physP r.2).isSome
  | .last => (h.physLast r.2).isSome
  | .plane => (h.physPlane r.2).isSome
  | .eyelet => h.eye.getLsbD r.2
  | _ => true

/-- Cell slots whose meaning reads their guard predicate (R31, R139 and each form's rule). -/
def readsGuard : Instr → Bool
  | .vany .. | .vall .. | .vcount .. | .vld .. | .vldStraight .. | .vldDec .. | .vst .. | .vstStraight .. | .vstEnc ..
  | .vldx .. | .vstx .. | .bcopy .. | .vperm .. | .erecv .. | .vadd .. | .vsub .. | .vadds .. | .vsubs .. | .vmul ..
  | .vmulh .. | .vmin .. | .vmax .. | .vand .. | .vior .. | .veor .. | .vshl .. | .vshr .. | .vabs .. | .vcmpeq ..
  | .vcmplt .. | .vsel .. | .vrng .. | .vfadd .. | .vfsub .. | .vfmul .. | .vfma .. | .vfnma .. | .vfmin .. | .vfmax ..
  | .vfabs .. | .vfneg .. | .vfcmpeq .. | .vfcmplt .. | .vfcmple .. | .vfrcp .. | .vfrsq .. | .vfexp2 .. | .vflog2 ..
  | .vfsqrt .. | .vcvt .. | .vcvts .. | .vquant .. | .vdeq .. | .scan .. | .segscan .. | .reduce .. | .topk .. | .sort ..
  | .compact .. | .hist .. | .amov .. | .amovClr .. | .amovTo .. | .amo .. | .cas .. | .red .. | .sbst .. | .sbld .. => true
  | _ => false

/-- Slots the cells execute (R135); votes execute in the cells and end at the sequencer. -/
def isCellSlot : Instr → Bool
  | .vany .. | .vall .. | .vcount .. | .pvote _ | .pvoteClr _ => true
  | .xadd .. | .xsub .. | .xmul .. | .xand .. | .xior .. | .xeor .. | .xshl .. | .xshr .. | .xsar .. | .xmin ..
  | .xmax .. | .xaddi .. | .xli .. => true
  | .vld .. | .vldStraight .. | .vldDec .. | .vst .. | .vstStraight .. | .vstEnc .. | .vldx .. | .vstx .. | .bcopy ..
  | .vperm .. | .llast .. | .esend .. | .erecv .. | .halo .. => true
  | .vadd .. | .vsub .. | .vadds .. | .vsubs .. | .vmul .. | .vmulh .. | .vmin .. | .vmax .. | .vand .. | .vior ..
  | .veor .. | .vshl .. | .vshr .. | .vabs .. | .vcmpeq .. | .vcmplt .. | .vsel .. | .vrng .. => true
  | .vfadd .. | .vfsub .. | .vfmul .. | .vfma .. | .vfnma .. | .vfmin .. | .vfmax .. | .vfabs .. | .vfneg ..
  | .vfcmpeq .. | .vfcmplt .. | .vfcmple .. | .vfrcp .. | .vfrsq .. | .vfexp2 .. | .vflog2 .. | .vfsqrt .. => true
  | .vcvt .. | .vcvts .. | .vquant .. | .vdeq .. => true
  | .pand .. | .pior .. | .peor .. | .pandn .. | .pnot .. | .pall .. | .pnone .. => true
  | .scan .. | .segscan .. | .reduce .. | .topk .. | .sort .. | .compact .. | .hist .. => true
  | .awlGather .. | .awlScatter .. | .mpar .. | .mcall .. | .mldw .. | .mldwScl .. | .msel .. => true
  | .amov .. | .amovClr .. | .amovTo .. | .aclr .. | .atopk .. => true
  | .tld .. | .tst .. | .ald .. | .ast .. | .ntst .. | .amo .. | .cas .. | .red .. | .sbst .. | .sbld .. => true
  | _ => false

/-- VINT, VFLT and VCVT slots, always guarded, and the other guarded forms (R140). -/
def isGuarded : Instr → Bool
  | .mpar .. | .mcall .. | .msel .. | .mldw .. | .mldwScl .. | .llast .. => false
  | .tld .. | .tst .. | .ald .. | .ast .. | .ntst .. => false
  | .xadd .. | .xsub .. | .xmul .. | .xand .. | .xior .. | .xeor .. | .xshl .. | .xshr .. | .xsar .. | .xmin ..
  | .xmax .. | .xaddi .. | .xli .. | .pvote _ | .pvoteClr _ => false
  | .pand .. | .pior .. | .peor .. | .pandn .. | .pnot .. | .pall .. | .pnone .. => false
  | i => isCellSlot i

/-- The resources of R136, numbered in the table's order from 0. -/
def resources : Instr → List Nat
  | .bctl .. => [0]
  | .ldd .. | .ldw .. | .ldwu .. | .std .. | .stw .. => [2]
  | .bprepRelative .. | .bprepRegister .. | .bcmp .. | .bcmpi .. | .bxfer .. | .call .. | .ret .. | .loopTable ..
  | .loopRegister .. | .bpois .. => [3]
  | .nop | .tlaunch .. | .texit .. | .yield | .trap .. | .eret .. | .eretKill .. | .mfsr .. | .mtsr .. | .lsleepDoze ..
  | .lsleepOff .. | .lwake .. | .lstld .. | .mpsld .. => [4]
  | .cderive .. | .cnarrow .. | .cst .. | .cld .. | .ccheck .. => [5]
  | .fladd .. | .flset .. | .flwait .. | .cwait .. | .fence .. | .epush .. | .epop .. | .send .. | .realign ..
  | .tld .. | .tst .. | .ald .. | .ast .. | .ntst .. | .drain .. | .amo .. | .cas .. | .red .. | .sbst .. | .sbld .. => [6]
  | .vany .. | .vall .. | .vcount .. | .pvote .. | .pvoteClr .. => [7]
  | .xadd .. | .xsub .. | .xmul .. | .xand .. | .xior .. | .xeor .. | .xshl .. | .xshr .. | .xsar .. | .xmin ..
  | .xmax .. | .xaddi .. | .xli .. => [8]
  | .vld .. | .vldStraight .. | .vldDec .. | .vldx .. | .vperm .. => [9]
  | .bcopy .. => [9, 10]
  | .mldw .. | .mldwScl .. => [9, 14]
  | .vst .. | .vstStraight .. | .vstEnc .. | .vstx .. => [10]
  | .atopk .. => [10, 15]
  | .llast .. | .awlGather .. | .awlScatter .. => [11]
  | .scan .. | .segscan .. | .reduce .. | .topk .. | .sort .. | .compact .. | .hist .. => [13]
  | .mpar .. | .mcall .. | .msel .. => [14]
  | .amov .. | .amovClr .. | .amovTo .. | .aclr .. => [15]
  | .esend .. | .erecv .. | .halo .. => [16]
  | .limm _ => []
  | .add .. | .sub .. | .and .. | .or .. | .xor .. | .andn .. | .shl .. | .shr .. | .sar .. | .mul .. | .mulh ..
  | .mulhu .. | .min .. | .max .. | .minu .. | .maxu .. | .seq .. | .sne .. | .slt .. | .sltu .. | .div .. | .divu ..
  | .rem .. | .remu .. => [1]
  | .addi .. | .andi .. | .ori .. | .xori .. | .shli .. | .shri .. | .sari .. | .muli .. | .mini .. | .maxi .. | .slti ..
  | .seqi .. | .li .. => [1]
  | i => if isCellSlot i then [12] else []

/-- Slots per bundle of each resource (R136). -/
def resourceLimit : Nat → Nat
  | 1 | 8 | 12 => 2
  | _ => 1

/-- Forms that take an immediate (R147, R186, R193, R281). -/
def takesImm : Instr → Bool
  | .addi .. | .andi .. | .ori .. | .xori .. | .shli .. | .shri .. | .sari .. | .muli .. | .mini .. | .maxi .. | .slti ..
  | .seqi .. | .li .. | .bprepRelative .. | .bcmpi .. | .loopTable .. | .loopRegister .. | .cwait .. | .xaddi ..
  | .xli .. | .tld .. | .llast .. | .mcall .. => true
  | _ => false

/-- Supervisor-only forms (R135). -/
def supOnly : Instr → Bool
  | .eret _ | .eretKill _ | .lsleepDoze .. | .lsleepOff .. | .lwake .. | .lstld .. | .mpsld .. | .realign .. => true
  | _ => false

/-- Forms that must stand in a sealing bundle (R49, R209). -/
def needsSeal : Instr → Bool
  | .texit _ | .yield | .trap _ | .amo .. | .cas .. => true
  | _ => false

/-- Slots that take a welt entry (R365). -/
def takesWelt : Instr → Bool
  | .call .. | .ret _ | .cst .. | .fladd .. | .flset .. | .fence .. | .epush .. | .epop .. | .send .. | .realign ..
  | .tlaunch .. | .texit _ | .trap _ | .eret _ | .eretKill _ | .lsleepDoze .. | .lsleepOff .. | .lwake .. | .lstld ..
  | .mpsld .. | .tst .. | .ast .. | .ntst .. | .drain _ | .amo .. | .cas .. | .red .. | .sbst .. => true
  | _ => false

/-- Slots that draw a Philox block (R225); `rm` is FPCTL.RM. -/
def draws (rm : BitVec 3) : Instr → Bool
  | .vrng .. => true
  | .vcvt _ _ _ m _ | .vcvts _ _ _ m _ | .vquant _ _ m _ | .vdeq _ _ m _ => m == 4
  | .vfadd .. | .vfsub .. | .vfmul .. | .vfma .. | .vfnma .. | .vfrcp .. | .vfrsq .. | .vfsqrt .. | .vfexp2 ..
  | .vflog2 .. => rm == 4
  | _ => false

/-- Edge groups a net slot marks (R104). -/
def edgeMarks : Instr → BitVec 4
  | .vld _ _ em _ | .vldStraight _ em _ | .vst _ _ em _ | .vstStraight _ em _ | .vldx _ _ em _ | .vstx _ _ em _ => em
  | _ => 0

/-- Directions a slot sends toward: bit 0 north, 1 east, 2 south, 3 west. -/
def sendsToward : Instr → BitVec 4
  | .esend dm _ _ | .halo dm _ => dm
  | .vst _ _ em _ | .vstStraight _ em _ | .vstx _ _ em _ => em
  | _ => 0

/-- Whether a slot counts toward the copy port's 3072 requests, and how many per cell (R291). -/
def portRequests (nb : Nat) : Instr → Nat
  | .tld _ _ _ ln _ | .tst _ _ _ ln | .ald _ _ _ ln _ | .ast _ _ _ ln _ | .ntst _ _ _ ln => nb * 2 ^ ln.toNat
  | .amo .. | .cas .. | .red .. => 32
  | _ => 0

/-- The capability register of a copy or atomic slot. -/
def capOf : Instr → Option (BitVec 4)
  | .tld g .. | .tst g .. | .ald g .. | .ast g .. | .ntst g .. | .amo g .. | .cas g .. | .red g .. => some g
  | _ => none

/-- The counter a slot adds to at t (R184, R206, R213, R215, R284). -/
def addsTo : Instr → Option Nat
  | .ald _ _ _ _ n | .ast _ _ _ _ n | .drain n | .realign n _ | .lsleepDoze n _ | .lsleepOff n _ | .lwake n _ => some n.toNat
  | .amo _ _ _ _ _ n | .cas _ _ _ n => some n.toNat
  | .cld n _ _ _ | .lstld n _ _ _ | .mpsld n _ _ _ => some n.toNat
  | _ => none

end Sys2Proof.Machine
end

