-- ==== Sys2Proof/Machine/Special.lean ====
section
/-!
DEFINITION. The special registers: which numbers the manual assigns, how each reads, which bits a write of the user
or the supervisor changes, when an MTSR raises ILLEGAL, and what a write does when it lands (R9, R211, R212 and each
register's own map).
-/

namespace Sys2Proof.Machine

/-- Registers that belong to the context and that the supervisor reaches through SCTX (R212). -/
def isCtxSpecial (n : Nat) : Bool :=
  (0x020 ≤ n && n ≤ 0x023) || (0x025 ≤ n && n ≤ 0x02E) || (0x040 ≤ n && n ≤ 0x05F)
def isEcfg (n : Nat) : Bool := 0x060 ≤ n && n ≤ 0x06F
def isBfmt (n : Nat) : Bool := 0x040 ≤ n && n ≤ 0x05F

/-- Numbers a map of the manual assigns. -/
def specialAssigned (n : Nat) : Bool :=
  isCtxSpecial n || isEcfg n || n == 0x010 || n == 0x024 || (0x030 ≤ n && n ≤ 0x033) || (0x070 ≤ n && n ≤ 0x072)
    || (0x078 ≤ n && n ≤ 0x081) || (0x090 ≤ n && n ≤ 0x09F) || (0x0A0 ≤ n && n ≤ 0x0B7)
    || (0x0B9 ≤ n && n ≤ 0x0BB) || n == 0x0C0 || n == 0x0C1

/-- Registers with a user view. -/
def specialUser (n : Nat) : Bool := isCtxSpecial n || isEcfg n

/-- The context an MFSR or MTSR of the slot in hand reaches: its own, or in the supervisor the one CSEL selects. -/
def State.selCtx (s : State) : Nat := if s.sup then s.layer.sctx.toNat else s.ctx

def bnat (b : Bool) : Nat := if b then 1 else 0

/-- ECFG (R199). -/
def Eyelet.word (e : Eyelet) : DWord :=
  BitVec.ofNat 64 (bnat e.en + 2 * bnat e.dir + 2 ^ 8 * e.peer.toNat + 2 ^ 24 * e.words.length)

def LinkState.code : LinkState → Nat
  | .down => 0 | .train => 1 | .identify => 2 | .active => 3 | .narrowed => 4 | .quarantined => 5 | .rekey => 6

/-- LSTAT (R465). -/
def Link.word (l : Link) : DWord :=
  BitVec.ofNat 64 (l.state.code + 2 ^ 3 * l.width.toNat + 2 ^ 6 * l.lanes.toNat + 2 ^ 22 * bnat l.phase
    + 2 ^ 23 * bnat l.stale + 2 ^ 24 * l.delay.toNat + 2 ^ 40 * l.asym.toNat + 2 ^ 48 * l.latec.toNat
    + 2 ^ 56 * l.ovf.toNat)

/-- A special register as MFSR reads it (R211). -/
def readSpecial (s : State) (n : Nat) : DWord :=
  let l := s.layer
  let t := s.tower
  if isCtxSpecial n then ctxSpecial (s.ctxAt (ctxKey s.lay s.selCtx)) n
  else if isEcfg n then (mapGet .reset l.eyelets (n - 0x060)).word
  else if n = 0x010 then l.sctx.setWidth 64
  else if n = 0x030 then t.dsplit.setWidth 64
  else if n = 0x031 then BitVec.ofNat 64 (t.qen.toNat + 2 ^ 16 * t.gto.toNat)
  else if n = 0x032 then
    BitVec.ofNat 64 (l.preqCtx.toNat + 4 * bnat l.preqKill + 8 * l.preqGsel.toNat + 2 ^ 8 * l.preqRes.toNat
      + 2 ^ 63 * bnat l.preq.isSome)
  else if n = 0x033 then l.tpend.setWidth 64
  else if n = 0x070 then BitVec.ofNat 64 (2 ^ 20 * s.otbase.toNat)
  else if n = 0x072 then
    BitVec.ofNat 64 (s.tinvMode.toNat + 2 ^ 8 * s.tinvObj.toNat + 2 ^ 32 * s.tinvVpn.toNat + 2 ^ 63 * bnat s.tinvBusy)
  else if 0x078 ≤ n ∧ n ≤ 0x080 then (mapGet (0 : BitVec 40) s.hmask (n - 0x078)).setWidth 64
  else if n = 0x081 then s.hret.setWidth 64
  else if 0x090 ≤ n ∧ n ≤ 0x09F then t.sot.extractLsb' (64 * (n - 0x090)) 64
  else if 0x0A0 ≤ n ∧ n ≤ 0x0B7 then (mapGet .reset t.links (n - 0x0A0)).word
  else if n = 0x0B9 then
    BitVec.ofNat 64 (s.plNent.toNat + 2 ^ 12 * s.plNbase.toNat + 2 ^ 40 * s.plLogp.toNat + 2 ^ 45 * bnat s.plCur
      + 2 ^ 63 * bnat s.plArm)
  else if n = 0x0BA then s.plTick
  else if n = 0x0BB then
    BitVec.ofNat 64 (s.ftUpl.toNat + 2 ^ 5 * bnat s.ftUpt + 2 ^ 6 * bnat s.ftGm + 2 ^ 7 * bnat (s.ftLock || s.ftGm)
      + 2 ^ 8 * bnat (s.ftLock && !s.ftGm && (mapGet .reset (s.towerAt (bnat s.ftUpt)).links s.ftUpl.toNat).stale) + 2 ^ 16 * s.ftLoff.toNat)
  else if n = 0x0C0 then BitVec.ofNat 64 (s.pwrLimit.toNat + 2 ^ 16 * s.pwr.toNat)
  else if n = 0x0C1 then BitVec.ofNat 64 (t.div.toNat + 2 ^ 5 * bnat t.thr + 2 ^ 6 * bnat t.hot + 2 ^ 16 * t.tj.toNat)
  else 0

/-- A bit field of ones. -/
def ones64 (lo w : Nat) : DWord := BitVec.ofNat 64 ((2 ^ w - 1) * 2 ^ lo)

/-- The bits a write of `v` changes, in the user view or the supervisor view (R9, R64, R65, R199, R205, R430). -/
def writeMask (s : State) (sup : Bool) (n : Nat) (v : DWord) : DWord :=
  if n = 0x020 then
    (if sup && s.selCtx == 4 then BitVec.allOnes 64
     else if sup then BitVec.allOnes 64 else s.me.launch.lmask) &&& ~~~ s.failedCells s.lay
  else if n = 0x021 then if sup then ones64 0 2 ||| ones64 4 9 else ones64 4 4
  else if n = 0x022 then ones64 0 3
  else if n = 0x023 then 1
  else if n = 0x025 then if sup then 1 ||| ones64 16 16 else if v.getLsbD 0 then 0 else 1
  else if n = 0x026 ∨ n = 0x027 then BitVec.allOnes 64
  else if n = 0x028 then if sup then ones64 0 11 ||| ones64 16 12 else 0
  else if n = 0x029 then if sup then ones64 0 4 else ones64 1 3
  else if 0x02A ≤ n ∧ n ≤ 0x02D then ones64 0 22 ||| ones64 32 32
  else if n = 0x02E then if sup then ones64 0 40 else 0
  else if isBfmt n then ones64 0 28
  else if isEcfg n then if sup then ones64 0 2 ||| ones64 8 16 else 0
  else if n = 0x010 then ones64 0 3
  else if n = 0x024 then ones64 0 9
  else if n = 0x030 then ones64 0 7
  else if n = 0x031 then ones64 0 20
  else if n = 0x032 then ones64 0 7
  else if n = 0x070 then ones64 20 20
  else if n = 0x071 then ones64 0 16
  else if n = 0x072 then ones64 0 2 ||| ones64 8 48
  else if 0x090 ≤ n ∧ n ≤ 0x09F then BitVec.allOnes 64
  else if 0x0A0 ≤ n ∧ n ≤ 0x0B7 then ones64 40 24
  else if n = 0x0B9 then ones64 0 45 ||| ones64 63 1
  else if n = 0x0BA then BitVec.allOnes 64
  else if n = 0x0BB then ones64 0 7
  else if n = 0x0C0 then ones64 0 16
  else 0

/-- The value a write puts in the changed bits: a task's BARM write clears ARR (R430). -/
def writeValue (sup : Bool) (n : Nat) (v : DWord) : DWord :=
  if 0x02A ≤ n ∧ n ≤ 0x02D ∧ !sup then v &&& ~~~ ones64 48 16 else v

/-- A BFMT value an MTSR or a BANKFMT word may not hold (R73). -/
def bfmtBad (nb : Nat) (v : DWord) : Bool :=
  let f := fld v 0 4
  let tol := fld v 26 2
  let sparse := v.getLsbD 25
  f ≥ 13 || tol == 3 || fld v 10 15 % 128 != 0
    || (sparse && !(f == 3 || f == 4 || f == 5 || f == 7 || f == 8))
    || (tol == 1 && fmtWidth f != 8) || (tol == 2 && fmtWidth f != 16) || nb ≤ fld v 5 5

/-- Slots the base die owns in a slot owner table (R471). -/
def baseSlots (t : BitVec 1024) : Nat :=
  (upto 256).foldl (fun a i => if t.extractLsb' (4 * i) 4 == (8 : BitVec 4) then a + 1 else a) 0

/-- An owner field the map reserves (R471). -/
def badOwner (w : DWord) : Bool := (upto 16).any (fun j => 9 ≤ fld w (4 * j) 4 && fld w (4 * j) 4 ≤ 14)

/-- Values whose MTSR raises ILLEGAL at its issue step and leaves the register unchanged. -/
def mtsrBad (s : State) (n : Nat) (v : DWord) : Bool :=
  if n = 0x022 then 5 ≤ fld v 0 3
  else if n = 0x010 then 5 ≤ fld v 0 3
  else if n = 0x029 then fld v 1 2 == 3
  else if isBfmt n then bfmtBad (s.ctxAt (ctxKey s.lay s.selCtx)).share.nb v
  else if 0x02A ≤ n ∧ n ≤ 0x02D then !s.sup && 510 ≤ fld v 0 9
  else if n = 0x030 then
    v.getLsbD 2 && (upto 8).any (fun l => (upto 5).any (fun c =>
      let x := s.ctxAt (ctxKey (8 * (s.lay / 8) + l) c)
      x.task != .free && !x.share.awl.isEmpty))
  else if n = 0x032 then
    let kill := v.getLsbD 2
    let cap := s.me.gReg (fld v 3 4)
    s.layer.preq.isSome || (s.ctxAt (ctxKey s.lay (fld v 0 2))).task == .free
      || (!kill && (capNull cap || !hasRight cap 1 || capLimit cap - capBase cap < 512))
  else if n = 0x072 then fld v 0 2 == 3 || s.tinvBusy
  else if n = 0x0B9 then
    s.plArm || (v.getLsbD 63 && (fld v 0 12 == 0 || fld v 40 5 < 14 || 24 < fld v 40 5))
  else if 0x090 ≤ n ∧ n ≤ 0x09F then
    badOwner v || baseSlots (sotPut (s.tower.sotNext.getD s.tower.sot) (n - 0x090) v) < 8
  else if n = 0x0C0 then 3600 < fld v 0 16 || fld v 0 16 < 1200
  else false

/-- The priority rule of R54: a write of BPRIO raises EPRIO to it. -/
def raiseEprio (c : Ctx) : Ctx := if c.eprio.toNat < c.bprio.toNat then { c with eprio := c.bprio } else c

/-- An eyelet whose ECFG changes DIR or PEER loses its entries (R199). -/
def ecfgWrite (w : DWord) (e : Eyelet) : Eyelet :=
  let dir := w.getLsbD 1
  let peer := w.extractLsb' 8 16
  let keep := dir == e.dir && peer == e.peer
  { en := w.getLsbD 0, dir := dir, peer := peer, words := if keep then e.words else [],
    credit := if keep then e.credit else 16 }

/-- What a write of a special register does when it lands (R211). `sel` is the context it reaches; `v` holds the
register in bits 63:0 and, for PREQ, the save-area capability in bits 191:64. A write with an effect of its own puts
that event on the agenda. DEDUCED: notes/assumptions/23.md. -/
def landSpecial (lay sel n : Nat) (m v : Lanes) (s : State) : State :=
  let mk : DWord := m.setWidth 64
  let w : DWord := v.setWidth 64
  let upd := fun (old : DWord) => (old &&& ~~~ mk) ||| (w &&& mk)
  let s' := { s with lay := lay, ctx := 4 }
  if isCtxSpecial n then
    s.updCtx (ctxKey lay sel) (fun c =>
      let c' := setCtxSpecial n (upd (ctxSpecial c n)) c
      if n = 0x021 then raiseEprio c' else c')
  else if isEcfg n then
    s.updLayer lay (fun l =>
      let e := mapGet .reset l.eyelets (n - 0x060)
      { l with eyelets := mapSet .reset l.eyelets (n - 0x060) (ecfgWrite (upd e.word) e) })
  else if n = 0x010 then s.updLayer lay (fun l => { l with sctx := w.extractLsb' 0 3 })
  else if n = 0x024 then { s with agenda := s.agenda ++ [.flrstWrite lay (w.extractLsb' 0 9)] }
  else if n = 0x030 then s.updTower (lay / 8) (fun t => { t with dsplit := w.extractLsb' 0 7 })
  else if n = 0x031 then
    s.updTower (lay / 8) (fun t => { t with qen := w.extractLsb' 0 16, gto := w.extractLsb' 16 4 })
  else if n = 0x032 then
    let p : Preq := { ctx := fld w 0 2, kill := w.getLsbD 2, area := v.extractLsb' 64 128, host := false,
                      since := s.cycleOf lay + 1 }
    s.updLayer lay (fun l => { l with preq := some p, preqCtx := w.extractLsb' 0 2, preqKill := w.getLsbD 2,
                                      preqGsel := w.extractLsb' 3 4 })
  else if n = 0x070 then { s with otbase := w.extractLsb' 20 20 }
  else if n = 0x071 then { s with agenda := s.agenda ++ [.fservWrite lay (w.extractLsb' 0 16)] }
  else if n = 0x072 then
    let ev : Instr := if fld w 0 2 = 0 then .tinvAll
      else if fld w 0 2 = 1 then .tinvObject (w.extractLsb' 8 24)
      else .tinvPage (w.extractLsb' 8 24) (w.extractLsb' 32 24)
    { s with tinvMode := w.extractLsb' 0 2, tinvObj := w.extractLsb' 8 24, tinvVpn := w.extractLsb' 32 24,
             agenda := s.agenda ++ [ev] }
  else if 0x090 ≤ n ∧ n ≤ 0x09F then { s with agenda := s.agenda ++ [.sotWrite (lay / 8) (n - 0x090) w] }
  else if 0x0A0 ≤ n ∧ n ≤ 0x0B7 then
    { s with agenda := s.agenda ++ [.lstatClear (lay / 8) (n - 0x0A0) (w.extractLsb' 40 8)] }
  else if n = 0x0B9 then
    if w.getLsbD 63 then
      { s with agenda := s.agenda ++ [.plctlArm (w.extractLsb' 0 12) (w.extractLsb' 12 28) (w.extractLsb' 40 5)] }
    else { s with plNent := w.extractLsb' 0 12, plNbase := w.extractLsb' 12 28, plLogp := w.extractLsb' 40 5 }
  else if n = 0x0BA then { s with plTick := w }
  else if n = 0x0BB then
    let u := upd (readSpecial s' 0x0BB)
    { s with ftUpl := u.extractLsb' 0 5, ftUpt := u.getLsbD 5, ftGm := u.getLsbD 6 }
  else if n = 0x0C0 then { s with pwrLimit := w.extractLsb' 0 16 }
  else s

/-- The registers whose value at the region's entry a discard restores (R211): every one that an MTSR writes and that holds
what it wrote. -/
def restorable (n : Nat) : Bool :=
  isCtxSpecial n || isEcfg n || n == 0x010 || n == 0x030 || n == 0x031 || n == 0x032 || n == 0x070 || n == 0x072
    || (0x090 ≤ n && n ≤ 0x09F) || (0x0A0 ≤ n && n ≤ 0x0B7) || n == 0x0B9 || n == 0x0BA || n == 0x0BB || n == 0x0C0

/-- The name of a special register in a region's record: special + 4096·context, or + 4096·8 for the context's own. -/
def State.specialId (s : State) (n : Nat) : Nat := n + 4096 * (if s.selCtx = s.ctx then 8 else s.selCtx)

/-- The restorable registers as they stand: a context's own, and in the supervisor the others it reaches (R211, R212). -/
def entrySnapshot (s : State) : List (Nat × DWord) :=
  let own := (upto 64).filter (fun j => isCtxSpecial (0x020 + j))
  let mine := own.map (fun j => (0x020 + j + 4096 * 8, ctxSpecial s.me (0x020 + j)))
  if s.sup then
    mine ++ (upto 4).flatMap (fun c => own.map (fun j => (0x020 + j + 4096 * c, ctxSpecial (s.ctxAt (ctxKey s.lay c)) (0x020 + j))))
      ++ ((upto 256).filter (fun n => restorable n && !isCtxSpecial n)).flatMap (fun n =>
        let v := readSpecial s n
        (upto 4).map (fun c => (n + 4096 * c, v)) ++ [(n + 4096 * 8, v)])
  else mine

end Sys2Proof.Machine
end

