-- ==== Sys2Proof/Machine/Checks.lean ====
section
/-!
DEFINITION. The checks a slot passes before anything of its bundle issues: class, placement, operands, shares and
the issue-step checks of each chapter (R138, R155), the holds that delay a bundle (R358), and the waits that freeze
the domain (R35, R195, R196, R201).
-/

namespace Sys2Proof.Machine

abbrev Check := Option TrapInfo

def failIf (b : Bool) (t : TrapInfo) : Check := if b then some t else none

/-- The first check that fails. -/
def orElse (a : Check) (b : Unit → Check) : Check :=
  match a with
  | some t => some t
  | none => b ()

/-! ### Addresses -/

/-- The data memory address of an SMEM slot (R160). -/
def smemAddr (s : State) (a b : BitVec 7) : DWord := s.src a + s.src b
def smemBad (s : State) (size : Nat) (a b : BitVec 7) : Bool :=
  let x := (smemAddr s a b).toNat
  x % size != 0 || dmemSize s.ctx < x + size

/-- Reads a 64-bit word of the context's data memory. -/
def dmem64 (s : State) (a : Nat) : DWord := BitVec.ofNat 64 (s.layer.dmemLe (dmemBase s.ctx + a) 8)

/-- Flag addresses (R187): index, layer key (16 for another package), package. -/
def flagIdx (a : BitVec 21) : BitVec 9 := a.extractLsb' 0 9
def flagLayer (a : BitVec 21) : Nat := 8 * (a.extractLsb' 12 1).toNat + (a.extractLsb' 9 3).toNat
def flagPkg (a : BitVec 21) : BitVec 8 := a.extractLsb' 13 8
/-- The same flag in logical layer L. -/
def flagInLayer (a : BitVec 21) (l : Nat) : BitVec 21 :=
  (a &&& ~~~ (BitVec.ofNat 21 (7 * 2 ^ 9))) ||| BitVec.ofNat 21 ((l % 8) * 2 ^ 9)

/-- The address a flag operation names (R188); offsets beyond 21 bits are beyond any flag capability's use. -/
def flagAddrNat (c : Cap) (o : DWord) : Nat := capBase c + fld o 0 32

/-- The homes of FLADD (LM = 0) and FLSET (R194). -/
def flagHomes (a : BitVec 21) (lm : Nat) : List (BitVec 21) :=
  if lm = 0 then [a] else ((upto 8).filter (fun l => (lm >>> l) % 2 == 1)).map (flagInLayer a)

/-- A flag operation's capability checks (R188, R189): rights bit, clear bits of the offset, homes. -/
def flagBad (s : State) (c : Cap) (right : Nat) (o : DWord) (clearFrom : Nat) (homes : List (BitVec 21)) : Bool :=
  capNull c || !isFlagObj c || !hasRight c right || capLimit c ≤ flagAddrNat c o || 2 ^ 21 ≤ flagAddrNat c o
    || o.toNat / 2 ^ clearFrom != 0
    || homes.any (fun h => h.toNat < capBase c || capLimit c ≤ h.toNat
        || (flagPkg h != s.pkg && !hasRight c 7) || (!s.sup && 510 ≤ (flagIdx h).toNat))

def flagAddrOf (c : Cap) (o : DWord) : BitVec 21 := BitVec.ofNat 21 (flagAddrNat c o)

/-- A SEND descriptor (R202). -/
structure SendDesc where
  soff   : DWord
  doff   : DWord
  w2     : DWord
  depart : DWord
  deriving DecidableEq, Repr

def readDesc (s : State) (a : Nat) : SendDesc :=
  { soff := dmem64 s a, doff := dmem64 s (a + 8), w2 := dmem64 s (a + 16), depart := dmem64 s (a + 24) }
def SendDesc.len (d : SendDesc) : Nat := fld d.w2 0 32
def SendDesc.slack (d : SendDesc) : Nat := fld d.w2 32 10
def SendDesc.cidx (d : SendDesc) : Nat := fld d.w2 48 9
/-- The arrival counter (R202): the flag (CIDX, CLAY, CTWR) of the destination's package. -/
def SendDesc.ctr (d : SendDesc) (pkg : BitVec 8) : BitVec 21 :=
  BitVec.ofNat 21 (d.cidx + 2 ^ 9 * fld d.w2 57 3 + 2 ^ 12 * fld d.w2 60 1 + 2 ^ 13 * pkg.toNat)

/-- The target of a relative BPREP and the end of a LOOP (R162, R171). -/
def bprepTarget (s : State) (i : BitVec 14) : DWord := s.latch.baddr + 4 * immS s.latch.limm 14 i.toNat
def loopStop (s : State) (off : BitVec 14) : DWord := s.latch.baddr + 4 * immU s.latch.limm 14 off.toNat
def loopCount (s : State) (e : LoopEntry) (reg : Option (BitVec 4)) : Nat :=
  match reg with
  | some sc => (s.me.sReg sc.toNat).toNat
  | none => e.trip

/-- Where a LOOP may not stand: its level's kind is another, or the level is active, or its body is empty or does not end within the
active body it stands in, at this call depth (R173, R175). -/
def loopMisplaced (s : State) (lv : BitVec 2) (off : BitVec 14) : Bool :=
  let c := s.me
  let e := loopStop s off
  (c.loopEntry lv.toNat).kind != 1 || (c.loopOf lv.toNat).active || decide (e.toNat ≤ s.latch.next.toNat)
    || c.loops.any (fun l => l.active && l.depth == c.shadowView.length && l.start.toNat ≤ s.latch.baddr.toNat
        && s.latch.baddr.toNat < l.stop.toNat && l.stop.toNat < e.toNat)

/-- A LOOP's count at issue (R175). -/
def loopBad (s : State) (lv : BitVec 2) (reg : Option (BitVec 4)) : Check :=
  failIf (16777215 < loopCount s (s.me.loopEntry lv.toNat) reg) (s.issueTrap .illegal 5)

/-- Copy and atomic capability checks at issue (R283): the rights named. -/
def copyBad (s : State) (g : BitVec 4) (rights : List Nat) : Check :=
  let c := s.me.gReg g.toNat
  failIf (capNull c || rights.any (fun j => !hasRight c j) || isFlagObj c || (isRemote s c && !hasRight c 7))
    (s.issueTrap .bounds 2 0 (capObj c).toNat)

/-- CST and CLD (R183, R184). -/
def capAccessBad (s : State) (b o : BitVec 7) (rights : List Nat) : Check :=
  let c := s.me.gReg b.toNat
  let a := capBase c + (s.src o).toNat
  orElse (failIf (capNull c || rights.any (fun j => !hasRight c j) || isFlagObj c || (isRemote s c && !hasRight c 7))
      (s.issueTrap .bounds 2 0 (capObj c).toNat)) (fun _ =>
    failIf (a % 16 != 0 || capLimit c < a + 16) (s.issueTrap .bounds 3 a (capObj c).toNat))

/-- LSTLD and MPSLD (R215): `size` bytes an entry, the store's capacity. -/
def loadBad (s : State) (g : BitVec 4) (a : BitVec 7) (zero : Bool) (first cnt cap size : Nat) (taken : Bool) : Check :=
  let c := s.me.gReg g.toNat
  let base := capBase c + (s.src a).toNat
  orElse (failIf (!zero || cnt == 0 || cap < cnt) (s.issueTrap .illegal 5)) (fun _ =>
    orElse (failIf (cap < first + cnt || taken) (s.issueTrap .bounds 3)) (fun _ =>
      failIf (capNull c || !hasRight c 0 || isFlagObj c || capLimit c < base + size * cnt)
        (s.issueTrap .bounds 2 base (capObj c).toNat)))

/-- Last-store entries and directory entries named by resident tasks' tables (R101, R215, R380). -/
def State.resident (s : State) (lay : Nat) : List Ctx :=
  ((upto 5).map (fun c => s.ctxAt (ctxKey lay c))).filter (fun x => x.task != .free)
def lastNamed (s : State) (lay i : Nat) : Bool :=
  (s.resident lay).any (fun x => x.image.lasts.any (fun n => n == some i))
def routineNamed (s : State) (lay e : Nat) : Bool :=
  (s.resident lay).any (fun x => x.image.routines.contains e)
/-- A micro-word of a routine a resident task names. -/
def wordNamed (s : State) (lay w : Nat) : Bool :=
  (upto 32).any (fun e => routineNamed s lay e &&
    (let d := mapGet 0 (s.layerAt lay).mdir e
     d.getLsbD 63 && fld d 0 9 ≤ w && w ≤ fld d 0 9 + fld d 9 9))

/-- The store index of a task-relative last number (R99, R376). -/
def Ctx.lastIndex (c : Ctx) (n : Nat) : Option Nat := (c.image.lasts[n]?).getD none

/-- The wait a slot poses, met, unmet or poisoned (R195, R196, R201). -/
inductive WaitResult where
  | pass | freeze (w : Wait) | trap (t : TrapInfo)
  deriving DecidableEq, Repr

/-- A flag's P and V (R187). -/
def flagP (v : DWord) : Bool := v.getLsbD 63
def flagV (v : DWord) : BitVec 63 := v.extractLsb' 0 63
/-- The condition of FLWAIT (R195). -/
def flagCond (cond : BitVec 2) (v b : BitVec 63) : Bool :=
  match cond with
  | 0 => decide (b.toNat ≤ v.toNat)
  | 1 => v == b
  | 2 => v &&& b != 0
  | _ => v &&& b == b

def Layer.flag (l : Layer) (i : BitVec 9) : DWord := mapGet 0 l.flags i.toNat

/-- The logged value the next pop of the region in hand reads: its own in order, then a restored one that no region has read
yet (R48; notes/assumptions/40.md). -/
def Ctx.loggedPop (c : Ctx) : Option (Nat × BitVec 4 × DWord) :=
  match (c.popLog.filter (fun p => p.1 == c.regionPlace))[c.regionPopped]? with
  | some p => some p
  | none => c.popLog.find? (fun p => p.1 == anyPlace)

/-- The value an EPOP takes: from the log, else from the eyelet (R48, R201). -/
def popSource (s : State) (e : BitVec 4) : Option (Bool × DWord) :=
  match s.me.loggedPop with
  | some (_, _, v) => some (true, v)
  | none => match (mapGet .reset s.layer.eyelets e.toNat).words with
    | w :: _ => some (false, w)
    | [] => none

/-- CWAIT's threshold (R193). -/
def cwaitThr (s : State) (thr : BitVec 14) : Nat := immNat s.latch.limm 14 thr.toNat

def slotWait (i : Instr) (s : State) : WaitResult :=
  match i with
  | .flwait cond g a b =>
    let c := s.me.gReg g.toNat
    let adr := flagAddrOf c (s.src a)
    let f := s.layer.flag (flagIdx adr)
    if flagP f then .trap (s.issueTrap .flagPoison 0 adr.toNat)
    else if flagCond cond (flagV f) ((s.src b).extractLsb' 0 63) then .pass
    else .freeze (.flag (flagIdx adr) cond ((s.src b).extractLsb' 0 63))
  | .cwait n thr =>
    if (s.me.nReg n.toNat).toNat < cwaitThr s thr then .pass else .freeze (.counter n (cwaitThr s thr))
  | .epop _ e => if (popSource s e).isSome then .pass else .freeze (.eyelet e)
  | _ => .pass

/-- Operand codes that a form's own chapter forbids at decode (R138, check 5): special numbers (R211), a zero threshold (R193,
R196), a zero latency (R301), a call's size and routine (R266). -/
def operandFault (i : Instr) (s : State) : Check :=
  match i with
  | .mfsr _ n | .mtsr _ n =>
    failIf (!specialAssigned n.toNat || (!s.sup && !specialUser n.toNat)) (s.issueTrap .illegal 4)
  | .cwait _ thr => failIf (cwaitThr s thr == 0) (s.issueTrap .illegal 4)
  | .mcall r bc =>
    failIf (immNat s.latch.limm 14 bc.toNat == 0 || !(mapGet 0 s.layer.mdir r.toNat).getLsbD 63) (s.issueTrap .illegal 4)
  | .tld _ _ _ _ lat => failIf (immNat s.latch.limm 7 lat.toNat == 0) (s.issueTrap .illegal 4)
  | _ => none

/-- Names outside the share that are no source or destination register (R41, R138 check 6). -/
def shareFault (i : Instr) (s : State) : Check :=
  match i with
  | .mfsr _ n | .mtsr _ n =>
    failIf ((isBfmt n.toNat && !((s.ctxAt (ctxKey s.lay s.selCtx)).share.physBank (n.toNat - 0x040)).isSome)
      || (isEcfg n.toNat && !s.sup && !s.me.share.eye.getLsbD (n.toNat - 0x060))) (s.issueTrap .bounds 1)
  | .bctl _ gen gp .. => failIf (gen && !(s.me.share.physP gp.toNat).isSome) (s.issueTrap .bounds 1)
  | .llast _ n => failIf ((s.me.lastIndex (immNat s.latch.limm 14 n.toNat)).isNone) (s.issueTrap .bounds 1)
  | .halo .. => failIf (!s.me.share.edgeBanks) (s.issueTrap .bounds 1)
  | .amov _ t xen _ | .amovClr _ t xen _ | .amovTo _ t xen _ =>
    failIf (!xen && !(s.me.share.physTile t.toNat).isSome) (s.issueTrap .bounds 1)
  | .aclr t cnt => failIf (!(s.me.share.physTile (t.toNat + cnt.toNat)).isSome) (s.issueTrap .bounds 1)
  | .atopk _ _ t _ _ => failIf (!(s.me.share.physTile t.toNat).isSome) (s.issueTrap .bounds 1)
  | _ => failIf (edgeMarks i != 0 && !s.me.share.edgeBanks) (s.issueTrap .bounds 1)

/-- The checks at issue that a form's own chapter gives (R155). MCALL's SCHED, which R266 places at decode, stands among them,
after the bounds of the share. DESIGN CHOICE: notes/assumptions/34.md. -/
def issueFault (i : Instr) (s : State) : Check :=
  match i with
  | .tlaunch g _ =>
    let c := s.me.gReg g.toNat
    failIf (capNull c || !hasRight c 0 || isFlagObj c || capBase c % 64 != 0 || capLimit c - capBase c < 64)
      (s.issueTrap .bounds 2 0 (capObj c).toNat)
  | .eret a | .eretKill a =>
    failIf ((s.src a).toNat / 4 != 0 || (s.ctxAt (ctxKey s.lay (fld (s.src a) 0 2))).task != .trapped)
      (s.issueTrap .illegal 5)
  | .mtsr a n => failIf (mtsrBad s n.toNat (s.src a)) (s.issueTrap .illegal 5)
  | .lsleepDoze _ a | .lsleepOff _ a | .lwake _ a =>
    failIf (7 < (s.src a).toNat || (s.src a).toNat == s.lay % 8) (s.issueTrap .illegal 5)
  | .lstld _ g a b =>
    let w := (s.src b).toNat
    loadBad s g a (w / 2 ^ 24 == 0 && (w / 2 ^ 11) % 2 == 0) (w % 2048) (w / 2 ^ 12) 2048 4096
      ((upto (w / 2 ^ 12 % 4096)).any (fun j => lastNamed s s.lay (w % 2048 + j)))
  | .mpsld _ g a b =>
    let w := (s.src b).toNat
    if (w / 2 ^ 31) % 2 == 1 then
      loadBad s g a (w == 2 ^ 31) 0 32 32 8 ((upto 32).any (routineNamed s s.lay))
    else loadBad s g a (w / 2 ^ 20 == 0 && (w / 2 ^ 9) % 2 == 0) (w % 512) (w / 2 ^ 10) 512 8
      ((upto (w / 2 ^ 10 % 1024)).any (fun j => wordNamed s s.lay (w % 512 + j)))
  | .ldd _ a b | .std _ a b => failIf (smemBad s 8 a b) (s.issueTrap .bounds 3 (smemAddr s a b).toNat)
  | .ldw _ a b | .ldwu _ a b | .stw _ a b => failIf (smemBad s 4 a b) (s.issueTrap .bounds 3 (smemAddr s a b).toNat)
  | .bprepRegister _ a => failIf ((s.src a).toNat % 4 != 0) (s.issueTrap .bounds 3 (s.src a).toNat)
  | .call .. => failIf (64 ≤ s.me.shadowView.length) (s.issueTrap .cfi 3)
  | .ret a =>
    match s.me.shadowView with
    | [] => some (s.issueTrap .cfi 2 (s.src a).toNat)
    | top :: _ => failIf (top != s.src a) (s.issueTrap .cfi 1 (s.src a).toNat)
  | .loopTable lv _ => loopBad s lv none
  | .loopRegister lv sc _ => loopBad s lv (some sc)
  | .fladd _ g a _ =>
    let c := s.me.gReg g.toNat
    failIf (flagBad s c 1 (s.src a) 32 [flagAddrOf c (s.src a)]) (s.issueTrap .bounds 2 (flagAddrNat c (s.src a)) 0xFFFFFF)
  | .flset _ g a _ =>
    let c := s.me.gReg g.toNat
    failIf (flagBad s c 1 (s.src a) 40 (flagHomes (flagAddrOf c (s.src a)) (fld (s.src a) 32 8)))
      (s.issueTrap .bounds 2 (flagAddrNat c (s.src a)) 0xFFFFFF)
  | .flwait _ g a _ =>
    let c := s.me.gReg g.toNat
    let adr := flagAddrOf c (s.src a)
    failIf (flagBad s c 0 (s.src a) 32 [adr] || flagLayer adr != s.lay || flagPkg adr != s.pkg)
      (s.issueTrap .bounds 2 (flagAddrNat c (s.src a)) 0xFFFFFF)
  | .epush e _ =>
    let y := mapGet .reset s.layer.eyelets e.toNat
    failIf (!y.en || !y.dir) (s.issueTrap .illegal 5)
  | .epop _ e =>
    let y := mapGet .reset s.layer.eyelets e.toNat
    failIf (!y.en || y.dir) (s.issueTrap .illegal 5)
  | .send _ gd gs a =>
    let x := (s.src a).toNat
    let cs := s.me.gReg gs.toNat
    let cd := s.me.gReg gd.toNat
    orElse (failIf (x % 8 != 0 || dmemSize s.ctx < x + 32) (s.issueTrap .bounds 3 x)) (fun _ =>
      let d := readDesc s x
      orElse (failIf (capNull cs || !hasRight cs 0 || isFlagObj cs || isRemote s cs)
          (s.issueTrap .bounds 2 0 (capObj cs).toNat)) (fun _ =>
      orElse (failIf (capNull cd || !hasRight cd 1 || isFlagObj cd || (isRemote s cd && !hasRight cd 7))
          (s.issueTrap .bounds 2 0 (capObj cd).toNat)) (fun _ =>
      orElse (failIf (capLimit cs < capBase cs + d.soff.toNat + d.len)
          (s.issueTrap .bounds 3 (capBase cs + d.soff.toNat) (capObj cs).toNat)) (fun _ =>
        orElse (failIf (capLimit cd < capBase cd + d.doff.toNat + d.len || (!s.sup && 510 ≤ d.cidx))
            (s.issueTrap .bounds 3 (capBase cd + d.doff.toNat) (capObj cd).toNat)) (fun _ =>
          failIf (d.len % 4 != 0 || d.len < 4 || 2 ^ 30 < d.len || fld d.w2 42 6 != 0 || fld d.w2 61 3 != 0)
            (s.issueTrap .illegal 5))))))
  | .realign _ a => failIf ((s.src a).toNat / 2 ^ 24 != 0) (s.issueTrap .illegal 5)
  | .cderive _ g a =>
    let c := s.me.gReg g.toNat
    failIf (capNull c || !hasRight c 6
        || capLimit c - capBase c < (s.me.sReg a.toNat).toNat + (s.me.sReg (a.toNat + 1)).toNat)
      (s.issueTrap .bounds 2 0 (capObj c).toNat)
  | .cnarrow _ _ g _ => failIf (capNull (s.me.gReg g.toNat)) (s.issueTrap .bounds 2)
  | .cst _ b o => capAccessBad s b o [1, 4]
  | .cld _ _ b o => capAccessBad s b o [0]
  | .mcall .. => failIf (s.now < s.me.mcallUntil) (s.issueTrap .sched 1)
  | .tld g .. => copyBad s g [0]
  | .tst g .. => copyBad s g [1]
  | .ald g .. => copyBad s g [0]
  | .ast g .. => copyBad s g [1]
  | .ntst g .. => copyBad s g [1, 3]
  | .amo g .. | .cas g .. | .red g .. => copyBad s g [2]
  | _ => none

/-- The checks of a form's own chapter, in the order of R138: operands, share, then those at issue. -/
def formFault (i : Instr) (s : State) : Check :=
  orElse (operandFault i s) (fun _ => orElse (shareFault i s) (fun _ => issueFault i s))

/-- What forbids a slot in the bundle or context in hand (R137, R167, R148): supervisor-only forms, forms that need a
seal, FLOW in a delay bundle, a seal or mark in a transfer or its delay bundles, a LIMM before a form that takes
none, a LOOP at a level or place it may not take (R175), and AWL slots while the host solves routes (R416). -/
def placementFault (i : Instr) (s : State) : Check :=
  failIf ((supOnly i && !s.sup) || (needsSeal i && !s.latch.bctl.sealed)
      || (0 < s.me.delay && (resources i).contains 3)
      || (s.latch.limm.isSome && !takesImm i)
      || (match i with
          | .bctl _ _ _ _ _ _ _ sway sl => s.latch.slot != 0 || (0 < s.me.delay && (sway || sl))
          | .loopTable lv off | .loopRegister lv _ off => loopMisplaced s lv off
          | .awlGather .. | .awlScatter .. => s.tower.dsplit.getLsbD 2
          | _ => false)) (s.issueTrap .illegal 3)

/-- All the checks of one slot, in the order of R138, then its issue-step checks (R155), then the welt (R47). -/
def slotFault (i : Instr) (s : State) : Check :=
  orElse (failIf (!i.subfieldsOk) (s.issueTrap .illegal 1)) (fun _ =>
    orElse (placementFault i s) (fun _ =>
      orElse (failIf (!i.operandsOk) (s.issueTrap .illegal 4)) (fun _ =>
        orElse (failIf ((dests i ++ srcs i).any (fun r => !s.me.share.has r)) (s.issueTrap .bounds 1)) (fun _ =>
          orElse (formFault i s) (fun _ =>
            failIf (takesWelt i && 256 ≤ s.me.regionWelt) (s.issueTrap .welt 0))))))

/-! ### Requests -/

/-- A request of the slot in hand, as the sequencer or a cell sends it. -/
def newReq (s : State) (c cell region seq : Nat) (kind : ReqKind) (st : ReqState) (g : Cap) (off : Nat) (ctr : Option Nat)
    (data : Row) : Req :=
  { id := s.nextId, kind := kind, state := st, ctxKey := ctxKey s.lay c, cell := cell, region := region, seq := seq,
    eff := seq, lay := s.lay, obj := capObj g, off := off, asid := if c = 4 then 0 else (s.ctxAt (ctxKey s.lay c)).image.asid,
    ctr := ctr, data := data, pois := false, committed := false, ready := s.cycleOf s.lay, dropped := false,
    srid := none }

def pushReq (q : Req) (s : State) : State := { s with reqs := s.reqs ++ [q], nextId := s.nextId + 1 }

/-! ### Holds (R358) -/

/-- Requests outstanding at one cell's copy port, whoever's they are, rows that wait in its landing buffer among them (R26,
R291): an atomic counts 32, a store's row until it has performed. A discarded load gives its place back at the discard, whatever
the memory still does for it. DESIGN CHOICE: notes/assumptions/49.md. -/
def portLoad (s : State) (k : Nat) : Nat :=
  (s.reqs.filter (fun q => q.lay == s.lay && q.cell == k && !q.dropped)).foldl
    (fun a q => a + (match q.kind, q.state with
      | .atomic .., _ => 32
      | .store _, .performed => 0
      | _, _ => 1)) (s.cellAt (cellKey s.lay k)).landing.length

/-- The cell slots with an outward effect, which a commit releases, and the marks of PVOTE.CLR (R46, R178). -/
def isOutward : Instr → Bool
  | .tst .. | .ast .. | .ntst .. | .amo .. | .cas .. | .red .. | .sbst .. | .pvoteClr .. => true
  | _ => false

/-- Cell (7,7) has executed a slot of a sealing bundle whose step a freeze holds back (R45; notes/assumptions/36.md). -/
def Layer.sealedEarly (l : Layer) (f : Flight) (k : Nat) (x : FSlot) : Bool :=
  k == 63 && isOutward x.instr && l.seal77.contains f.seq

/-- A cell has still to execute a slot of a bundle that is on its way through the mesh (R30). -/
def Layer.ahead (l : Layer) (f : Flight) (k : Nat) (x : FSlot) : Bool :=
  cellOn f.cmask k && (if l.early then decide (l.step < f.t + skew k)
    else decide (l.step ≤ f.t + skew k) && !l.sealedEarly f k x)

/-- Requests of bundles in the mesh that the cell has still to make; rows sent ahead are at its port already. -/
def meshLoad (s : State) (k : Nat) : Nat :=
  s.layer.flight.foldl (fun a f =>
    f.slots.foldl (fun a x =>
      if !x.ahead && s.layer.ahead f k x then a + portRequests (s.ctxAt (ctxKey s.lay f.ctx)).share.nb x.instr else a) a) 0

/-- Unsent stack beats of the context in a cell, with those the mesh still carries (R121). -/
def beatLoad (s : State) (k : Nat) : Nat :=
  (s.layer.beats.filter (fun b => b.ctx == s.ctx && b.cell == k)).length
    + s.layer.flight.foldl (fun a f =>
        if f.ctx = s.ctx then
          f.slots.foldl (fun a x => match x.instr with
            | .sbst _ _ cnt _ => if s.layer.ahead f k x then a + 4 * (cnt.toNat + 1) else a
            | _ => a) a
        else a) 0

def slotHold (i : Instr) (s : State) : Bool :=
  (takesWelt i && 512 ≤ s.me.weltCount)
  || (match addsTo i with | some n => s.me.nReg n == BitVec.allOnes 24 | none => false)
  || (match portRequests s.me.share.nb i with
      | 0 => false
      | p => (upto 64).any (fun k => cellOn s.me.cmask k && 3072 < portLoad s k + meshLoad s k + p))
  || (match i with
      | .sbst _ _ cnt _ =>
        (upto 64).any (fun k => cellOn s.me.cmask k && 256 < beatLoad s k + 4 * (cnt.toNat + 1))
      | .mcall .. => (upto 5).any (fun c => c != s.ctx && s.now < (s.ctxAt (ctxKey s.lay c)).mcallUntil)
      | _ => false)

/-- A slot's issue with its own checks (R138, R155, R358). -/
def issue (i : Instr) (s : State) (k : State → State) : Host.Outcome State Fault Refusal :=
  issueWith (slotFault i s) (slotHold i s) s k

/-- The bundle the slot in hand belongs to, as its cells see it (R30). -/
def State.flightNow (s : State) : Flight :=
  let c := s.me
  { ctx := s.ctx, region := c.regionId, baddr := s.latch.baddr, t := s.now, seq := s.latch.seq, cmask := c.cmask,
    bctl := s.latch.bctl, ks := (upto 4).map (fun j => (c.loopOf j).iter),
    sregs := rowOf (fun n => (c.sReg n).setWidth 32), rm := c.rm, prof := c.prof, lm := c.lm, ldm := c.ldm,
    bfmt := c.bfmt, rngk := c.rngk, swlo := c.swlo, swhi := c.swhi, slots := s.latch.flight }

/-- The slot in hand as its bundle carries it down the mesh (R30, R148, R225, R283). -/
def slotOf (i : Instr) (s : State) : FSlot :=
  { idx := s.latch.slot, instr := i, limm := s.latch.limm, draw := s.me.rngc, eff := s.nextId,
    cap := match capOf i with
      | some g => s.me.gReg g.toNat
      | none => 0,
    ahead := false }

/-- The slot joins its bundle: it takes a number, its region is open, and one that draws advances RNGC (R225). -/
def joinBundle (i : Instr) (s : State) : State :=
  { s with nextId := s.nextId + 1, latch := { s.latch with flight := s.latch.flight ++ [slotOf i s] } }.updMe
    (fun c => if draws c.rm i then { c.openRegion with rngc := c.rngc + 1 } else c.openRegion)

/-- A slot that cells execute issues: it joins its bundle, the sequencer's own part `pre` (given the slot's number) runs
at t, and cell (0,0), whose skew is 0, executes it at once when the cell mask enables that cell (R29, R31). -/
def issueBoth (i : Instr) (pre : Nat → State → State) (f : Run → State → State) (s : State) : Res :=
  issue i s (fun s =>
    let t := pre s.nextId (joinBundle i s)
    if cellOn s.me.cmask 0 then f { f := t.flightNow, cell := 0, slot := slotOf i s } t else t)

/-- A cell slot with no part of its own at the sequencer. -/
def issueCell (i : Instr) (f : Run → State → State) (s : State) : Res := issueBoth i (fun _ s => s) f s

end Sys2Proof.Machine
end

