-- ==== Sys2Proof/Machine/Translate.lean ====
section
/-!
DEFINITION. Translation: the object table, the page tables and the walk (R436 to R440), the caches (R442, R443), the
HBM placement hash (R449, R450), and reading code through the code capability (R134, R441).
-/

namespace Sys2Proof.Machine

/-- What a walk finds (R439). -/
inductive Walk where
  | leaf (l : Leaf)
  /-- A fault with its policy, not present or not, and the unit's first offset and size (R444). -/
  | fault (pol : Nat) (np : Bool) (base size : Nat)
  /-- The walk is led to an address the package does not have. -/
  | nowhere (pa : Nat)
  /-- A miss that the host is to walk (R416). -/
  | host
  /-- The object is another package's, or a host window that takes the access (R434, R448). -/
  | away
  deriving DecidableEq, Repr

/-! ### Objects (R434, R436, R437, R448) -/

/-- The kinds of object a number names (R434): a memory object, a host window, and one that no request may name. -/
def isMemObj (o : BitVec 24) : Bool := 1 ≤ o.toNat % 65536 && o.toNat % 65536 ≤ 0xEFFF
def isWindow (o : BitVec 24) : Bool := 0xF000 ≤ o.toNat % 65536 && o.toNat % 65536 ≤ 0xF0FF
def isReserved (o : BitVec 24) : Bool := !isMemObj o && !isWindow o

/-- The object is another package's, or a host window, which is always treated as remote (R434). -/
def objRemote (s : State) (o : BitVec 24) : Bool := o.extractLsb' 16 8 != s.pkg || isWindow o

/-- An address space may reach an object of another: R437's check, for a table entry and for a window. -/
def asidOk (owner asid : Nat) : Bool := owner == 0 || asid == 0 || owner == asid

/-- The address of an object's table entry, and its first word (R436). -/
def objEntry (s : State) (o : BitVec 24) : Nat := s.otbase.toNat * 2 ^ 20 + 16 * (o.toNat % 65536)
def objWord (s : State) (o : BitVec 24) : DWord := BitVec.ofNat 64 (s.memLe (objEntry s o) 8)
/-- Bytes in an object, and the space it belongs to. -/
def objSize (s : State) (o : BitVec 24) : Nat := fld (objWord s o) 16 40
def objAsid (s : State) (o : BitVec 24) : Nat := fld (objWord s o) 4 12

/-- The object check of `n` bytes at an offset (R436, R437): no byte of the access is at or above SIZE. -/
def objOk (s : State) (o : BitVec 24) (off n : Nat) (asid : BitVec 12) : Bool :=
  (objWord s o).getLsbD 0 && off + n ≤ objSize s o && asidOk (objAsid s o) asid.toNat

/-- What a host window does with an access: one of another package is answered there; one of this package's adapter is taken
unless the window table refuses it (R448). -/
def windowOk (s : State) (o : BitVec 24) (off n : Nat) (asid : BitVec 12) (write : Bool) : Bool :=
  let e := mapGet ((0 : DWord), (0 : DWord)) s.windows (o.toNat % 256)
  o.extractLsb' 16 8 != s.pkg
    || (e.1.getLsbD 0 && off + n ≤ fld e.1 16 40 && asidOk (fld e.1 4 12) asid.toNat && (!write || e.1.getLsbD 1))

def levelSize : Nat → Nat
  | 2 => 2 ^ 30 | 1 => 2 ^ 21 | _ => 2 ^ 16
def levelIndex (off : Nat) : Nat → Nat
  | 2 => off / 2 ^ 30 % 1024 | 1 => off / 2 ^ 21 % 512 | _ => off / 2 ^ 16 % 32
/-- Alignment of the table of a level (R438). -/
def tableAlign : Nat → Nat
  | 2 => 2 ^ 13 | 1 => 2 ^ 12 | _ => 2 ^ 8

/-- A malformed entry (R438). -/
def pteBad (pte : DWord) (lvl : Nat) : Bool :=
  fld pte 40 24 != 0 || (lvl == 0 && !pte.getLsbD 1) || (pte.getLsbD 0 && pte.getLsbD 39)

def pteLeaf (pte : DWord) (lvl : Nat) : Leaf :=
  let size := levelSize lvl
  { base := (fld pte 8 32 * 2 ^ 8) / size * size, size := size, w := pte.getLsbD 4, cow := pte.getLsbD 5,
    tag := pte.getLsbD 6, x := pte.getLsbD 7, pol := fld pte 2 2 }

/-- The levels of the walk from `lvl` down, with the table's address (R439). -/
def walkFrom (s : State) (off dpol : Nat) : Nat → Nat → Walk
  | lvl, t =>
    let a := t + 8 * levelIndex off lvl
    if 2 ^ 39 ≤ a + 7 then .nowhere a
    else
      let pte : DWord := BitVec.ofNat 64 (s.memLe a 8)
      let base := off / levelSize lvl * levelSize lvl
      if pteBad pte lvl then .fault 3 true base (levelSize lvl)
      else if !pte.getLsbD 0 then .fault (if pte.getLsbD 1 then fld pte 2 2 else dpol) true base (levelSize lvl)
      else if pte.getLsbD 1 then .leaf (pteLeaf pte lvl)
      else match lvl with
        | 0 => .fault 3 true base (levelSize 0)
        | l + 1 => walkFrom s off dpol l (fld pte 8 32 * 2 ^ 8 / tableAlign l * tableAlign l)

/-- The walk of an object's offset for a request of an address space (R437, R439). -/
def walk (s : State) (o : BitVec 24) (off : Nat) (asid : BitVec 12) : Walk :=
  if !isMemObj o then .fault 3 true off 1
  else if 2 ^ 39 ≤ objEntry s o + 15 then .nowhere (objEntry s o)
  else if !objOk s o off 1 asid then .fault 3 true off 1
  else
    let w1 : DWord := BitVec.ofNat 64 (s.memLe (objEntry s o + 8) 8)
    walkFrom s off (fld (objWord s o) 1 2) 2 (fld w1 13 27 * 2 ^ 13)

/-- A leaf's check for a write (R439, R440). -/
def leafFault (l : Leaf) (write : Bool) : Bool := write && (!l.w || l.cow)

def Leaf.pa (l : Leaf) (off : Nat) : Nat := l.base + off % l.size

/-- Home port of a tower's miss, numbered after the 1024 first-level caches (R442). -/
def homePort (tower : Nat) (o : BitVec 24) (off : Nat) : Nat := 1024 + 4 * tower + (o.toNat % 65536 + off / 65536) % 4

/-- A request that asks for a page alone. -/
def ReqKind.page (k : ReqKind) : Bool := k == .recordRead || k == .recordWrite

/-- A cached leaf for an offset, in one cache. -/
def tlbFind (s : State) (home : Nat) (o : BitVec 24) (off : Nat) : Option Leaf :=
  (s.tlb.find? (fun e => e.home == home && e.obj == o && e.page == off / e.leaf.size * e.leaf.size)).map (fun e => e.leaf)

/-- The entry that leaves a full cache: the manual names no order, so a free choice takes it (notes/assumptions/12.md). -/
def victim {α : Type} : List α → State → Option α × State
  | [], s => (none, s)
  | [x], s => (some x, s)
  | x :: y :: r, s =>
    let c := s.choose
    if c.1 then (some x, c.2) else victim (y :: r) c.2

/-- Fills a cache of `cap` entries (R442). -/
def tlbFill (home cap : Nat) (o : BitVec 24) (off : Nat) (l : Leaf) (s : State) : State :=
  let e : Tlb := { home := home, obj := o, page := off / l.size * l.size, leaf := l }
  let mine := s.tlb.filter (fun x => x.home == home)
  if s.tlb.contains e then s
  else if cap ≤ mine.length then
    let v := victim mine s
    { v.2 with tlb := (match v.1 with | some x => v.2.tlb.erase x | none => v.2.tlb) ++ [e] }
  else { s with tlb := s.tlb ++ [e] }

/-- The translation of `n` bytes at an offset of an object for a request issued from a tower: the kind of object, the object
check, the first cache that holds the page among `homes`, else the walk, which is the host's with DSPLIT.WALK = 1 (R416, R434,
R437, R442, R448). -/
def translate (s : State) (tower : Nat) (homes : List Nat) (o : BitVec 24) (off n : Nat) (asid : BitVec 12) (write : Bool) : Walk :=
  if isReserved o then .fault 3 true off 1
  else if objRemote s o then
    (if isWindow o && !windowOk s o off n asid write then .fault 3 true off 1 else .away)
  else if 2 ^ 39 ≤ objEntry s o + 15 then .nowhere (objEntry s o)
  else if !objOk s o off n asid then .fault 3 true off 1
  else match homes.findSome? (fun h => tlbFind s h o off) with
    | some l => .leaf l
    | none => if (s.towerAt tower).dsplit.getLsbD 0 then .host else walk s o off asid

/-! ### HBM placement -/

/-- The target of a physical address (R449). -/
def hbmTarget (s : State) (pa : Nat) : Nat :=
  let b := fun j => if parity 40 (pa &&& (mapGet (0 : BitVec 40) s.hmask j).toNat) then 1 else 0
  64 * (4 * b 2 + 2 * b 1 + b 0) + (32 * b 8 + 16 * b 7 + 8 * b 6 + 4 * b 5 + 2 * b 4 + b 3)

/-- A line whose target is retired (R450). -/
def isRetired (s : State) (pa : Nat) : Bool := s.hret.getLsbD 9 && hbmTarget s pa == s.hret.toNat % 512

/-- An uncorrectable read of this cycle: bytes of its unit of 32 (R479). -/
def badRead (s : State) (pa n : Nat) : Bool := s.badReads.any (fun u => 32 * u < pa + n && pa < 32 * u + 32)

/-- The masks' conditions (R449): bits 6:0 zero, pivots distinct and at most bit 38. -/
def masksOk (m : Map (BitVec 40)) : Bool :=
  let pv := (upto 9).map (fun j => (mapGet (0 : BitVec 40) m j).toNat)
  pv.all (fun x => x != 0 && x % 128 == 0 && x < 2 ^ 39) && (pv.map Nat.log2).Nodup

/-! ### Code (R134, R372, R441) -/

/-- What a fetch of one word meets. -/
inductive Fetch where
  | word (w : Word)
  | bounds
  /-- A fault: it waits (park, or a walk of the host's) or, under another policy, kills. -/
  | fault (park : Bool) (off : Nat)
  | nowhere (pa : Nat)
  deriving DecidableEq, Repr

/-- The leaf for a code word: the second-level cache of the layer's tower, else a walk (R441, R442). -/
def codeLeaf (s : State) (lay : Nat) (c : Ctx) (off : Nat) : Walk :=
  let o := capObj c.launch.img
  translate s (lay / 8) [homePort (lay / 8) o off] o off 4 c.image.asid false

/-- The word of code at an address of the code capability; the supervisor's code is its installed image
(notes/assumptions/6.md), and the bytes of an image of another package are free (notes/assumptions/5.md). -/
def codeWord (s : State) (lay : Nat) (c : Ctx) (pc : Nat) : Fetch :=
  if pc % 4 != 0 || c.image.codeLen < pc + 4 then .bounds
  else if capNull c.launch.img then
    match (s.towerAt (lay / 8)).supImage with
    | some b => .word (BitVec.ofNat 32 (ofLe ((b.drop (c.image.code + pc)).take 4)))
    | none => .bounds
  else
    let off := capBase c.launch.img + c.image.code + pc
    match codeLeaf s lay c off with
    | .leaf l =>
      let missed := !(s.layerAt lay).icache.contains (some (capObj c.launch.img), off / 128)
      if !l.x then .bounds
      else if isRetired s (l.pa off) || (missed && badRead s (l.pa off) 4) then .fault false off
      else .word (BitVec.ofNat 32 (s.memLe (l.pa off) 4))
    | .fault pol _ _ _ => .fault (pol == 0) off
    | .nowhere pa => .nowhere pa
    | .host => .fault true off
    | .away => .word (BitVec.ofNat 32 (ofLe ((upto 4).map (fun i => Config.remoteByte s.choice (off + i)))))

/-- The words of the bundle at an address: up to the first stop bit, at most eight (R134), or the fetch that failed. -/
def bundleAt (s : State) (lay : Nat) (c : Ctx) : Nat → Nat → List Word → Except Fetch (List Word)
  | 0, _, acc => .ok acc
  | n + 1, pc, acc =>
    match codeWord s lay c pc with
    | .word w => if stopBit w then .ok (acc ++ [w]) else bundleAt s lay c n (pc + 4) (acc ++ [w])
    | e => .error e

/-- The address of the bundle after the one at `pc`, found from its stop bits (R168). -/
def nextBundle (s : State) (lay : Nat) (c : Ctx) (pc : Nat) : Nat :=
  match bundleAt s lay c 8 pc [] with
  | .ok ws => pc + 4 * ws.length
  | .error _ => pc + 4

end Sys2Proof.Machine
end

