-- ==== Sys2Proof/Machine/Float.lean ====
section
/-!
DEFINITION. Arithmetic on floating-point elements: exact sums, products, roots, reciprocals, powers and logarithms,
each rounded once (R67, R88, R228 to R230); comparison and total order (R229, R254).
-/

namespace Sys2Proof.Machine

/-- A decoded element: a NaN with its fraction aligned to 23 bits, an infinity, or ±m·2^e. -/
inductive Fp where
  | nan (neg : Bool) (frac : Nat) (half : Bool)
  | inf (neg : Bool)
  | fin (neg : Bool) (m : Nat) (e : Int)
  deriving DecidableEq, Repr

/-- The value of a float code, its significand explicit (R66 to R68). -/
def FloatFmt.fp (f : FloatFmt) (c : Nat) : Fp :=
  let neg := c / 2 ^ (f.eb + f.fb) % 2 == 1
  let e := c / 2 ^ f.fb % 2 ^ f.eb
  let m := c % 2 ^ f.fb
  if f.ieee && e == 2 ^ f.eb - 1 then
    if m = 0 then .inf neg else .nan neg (m * 2 ^ (23 - f.fb)) (f.eb == 5)
  else if e = 0 then .fin neg m (f.emin - f.fb)
  else .fin neg (2 ^ f.fb + m) ((e : Int) - f.bias - f.fb)

def Fp.val : Fp → Val
  | .nan n f h => .nan n f h
  | .inf n => .inf n
  | .fin n m e => ofDyadic n m e

/-- The canonical NaN, which every destination rounds to its own (R67). -/
def Fp.canon : Fp := .nan false 0x400000 false

def Fp.negate : Fp → Fp
  | .nan n f h => .nan n f h
  | .inf n => .inf (!n)
  | .fin n m e => .fin (!n) m e

def Fp.isNan : Fp → Bool
  | .nan .. => true
  | _ => false

/-- The signed significand of ±m·2^e at exponent q ≤ e. -/
def signedAt (neg : Bool) (m : Nat) (e q : Int) : Int :=
  let n : Int := m * 2 ^ (e - q).toNat
  if neg then -n else n

/-- The exact sum (R228): the sign of an exact zero sum, and the NaN rule of R67. -/
def Fp.add (rm : Nat) (a b : Fp) : Fp :=
  match a, b with
  | .nan n f h, _ => .nan n f h
  | _, .nan n f h => .nan n f h
  | .inf x, .inf y => if x = y then .inf x else .canon
  | .inf x, _ => .inf x
  | _, .inf y => .inf y
  | .fin x m e, .fin y n d =>
    if m = 0 ∧ n = 0 ∧ x = y then .fin x 0 0
    else
      let q := min e d
      let t := signedAt x m e q + signedAt y n d q
      if t = 0 then .fin (rm == 3) 0 0 else .fin (decide (t < 0)) t.natAbs q

/-- The exact product (R228). -/
def Fp.mul (a b : Fp) : Fp :=
  match a, b with
  | .nan n f h, _ => .nan n f h
  | _, .nan n f h => .nan n f h
  | .inf x, .inf y => .inf (x != y)
  | .inf x, .fin y m _ => if m = 0 then .canon else .inf (x != y)
  | .fin x m _, .inf y => if m = 0 then .canon else .inf (x != y)
  | .fin x m e, .fin y n d => .fin (x != y) (m * n) (e + d)

/-- a·b + c with the exact product; the first NaN operand in the order a, b, c (R67, R228). -/
def Fp.fma (rm : Nat) (a b c : Fp) : Fp :=
  if a.isNan then a else if b.isNan then b else if c.isNan then c else Fp.add rm (Fp.mul a b) c

/-- c − a·b (R228). -/
def Fp.fnma (rm : Nat) (a b c : Fp) : Fp :=
  if a.isNan then a else if b.isNan then b else if c.isNan then c else Fp.add rm c (Fp.mul a b).negate

/-- a − b, taken as a + (−b) (R228). -/
def Fp.sub (rm : Nat) (a b : Fp) : Fp := Fp.add rm a b.negate

/-- A number's place in order: its signed significand at a common exponent; infinities beyond. -/
def Fp.lt (a b : Fp) : Bool :=
  match a, b with
  | .nan .., _ => false
  | _, .nan .. => false
  | .inf x, .inf y => x && !y
  | .inf x, .fin .. => x
  | .fin .., .inf y => !y
  | .fin x m e, .fin y n d =>
    let q := min e d
    decide (signedAt x m e q < signedAt y n d q)

/-- Equality of numbers: +0 = −0, and no NaN equals anything (R229). -/
def Fp.eq (a b : Fp) : Bool := !a.isNan && !b.isNan && !Fp.lt a b && !Fp.lt b a
def Fp.le (a b : Fp) : Bool := !a.isNan && !b.isNan && !Fp.lt b a

def Fp.sign : Fp → Bool
  | .nan n _ _ => n | .inf n => n | .fin n _ _ => n

/-- Whether a is the smaller, with −0 < +0 (R228). -/
def Fp.below (a b : Fp) : Bool := Fp.lt a b || (Fp.eq a b && a.sign && !b.sign)

/-- Minimum and maximum; a NaN operand gives the result of R67 (R228). -/
def Fp.least (a b : Fp) : Fp := if a.isNan then a else if b.isNan then b else if Fp.below b a then b else a
def Fp.most (a b : Fp) : Fp := if a.isNan then a else if b.isNan then b else if Fp.below a b then b else a

/-! ### Roots, reciprocals, powers, logarithms (R230) -/

def isPow2 (m : Nat) : Bool := m == 2 ^ Nat.log2 m

/-- ⌊2^j / m⌋, 0 for a negative j. -/
def recip (m : Nat) (j : Int) : Nat := if 0 ≤ j then 2 ^ j.toNat / m else 0

/-- 1/(m·2^e). -/
def exactRcp (neg : Bool) (m : Nat) (e : Int) : Exact :=
  { neg := neg, lg := -e - (Nat.log2 m : Int) - (if isPow2 m then 0 else 1), fl := fun k => recip m (k - e),
    int := fun k => 0 ≤ k - e && 2 ^ (k - e).toNat % m == 0 }

/-- √(m·2^e). -/
def exactSqrt (m : Nat) (e : Int) : Exact :=
  { neg := false, lg := ((Nat.log2 m : Int) + e) / 2, fl := fun k => isqrt (scaleNat m (e + 2 * k)),
    int := fun k =>
      let v := scaleNat m (e + 2 * k)
      (dyadic false m e).int (2 * k) && isqrt v * isqrt v == v }

/-- 1/√(m·2^e). -/
def exactRsq (m : Nat) (e : Int) : Exact :=
  { neg := false, lg := (-((Nat.log2 m : Int) + e) - (if isPow2 m then 0 else 1)) / 2,
    fl := fun k => isqrt (recip m (2 * k - e)),
    int := fun k => 0 ≤ 2 * k - e && (let r := isqrt (recip m (2 * k - e)); r * r * m == 2 ^ (2 * k - e).toNat) }

/-- ⌊2^400 · ∏ 2^(b_i/2^i)⌋ over the fraction bits b_1 b_2 … of `fr`, n of them, most significant first;
`root` is 2^(1/2^(i−1)) at 400 fraction bits. -/
def expBits : Nat → Nat → Nat → Nat → Nat
  | 0, _, _, acc => acc
  | n + 1, fr, root, acc =>
    let root' := isqrt (root * 2 ^ 400)
    expBits n fr root' (if fr.testBit n then acc * root' / 2 ^ 400 else acc)

/-- 2^(i + fr/2^n) with 0 < fr < 2^n: irrational, found to 400 fraction bits (notes/assumptions/9.md). -/
def exactExp2 (i : Int) (n fr : Nat) : Exact :=
  let x := expBits n fr (2 ^ 401) (2 ^ 400)
  { neg := false, lg := i, fl := fun k => scaleNat x (k + i - 400), int := fun _ => false }

/-- The bits of log2(y/2^1000) for 1 ≤ y/2^1000 < 2, one squaring a bit. -/
def logBits : Nat → Nat → Nat → Nat
  | 0, _, acc => acc
  | n + 1, y, acc =>
    let z := y * y / 2 ^ 1000
    if 2 ^ 1001 ≤ z then logBits n (z / 2) (2 * acc + 1) else logBits n z (2 * acc)

/-- log2(m·2^e) for m no power of two: irrational, found to 160 fraction bits (notes/assumptions/9.md). -/
def exactLog2 (m : Nat) (e : Int) : Exact :=
  let l := Nat.log2 m
  let f : Int := logBits 160 (m * 2 ^ (1000 - l)) 0
  let v : Int := ((l : Int) + e) * 2 ^ 160 + f
  let a : Nat := if v < 0 then (-v - 1).toNat else v.toNat
  { neg := decide (v < 0), lg := (Nat.log2 a : Int) - 160, fl := fun k => scaleNat a (k - 160), int := fun _ => false }

def Fp.rcp : Fp → Val
  | .nan n f h => .nan n f h
  | .inf n => .zero n
  | .fin n m e => if m = 0 then .inf n else .real (exactRcp n m e)

def Fp.rsq : Fp → Val
  | .nan n f h => .nan n f h
  | .inf n => if n then Fp.canon.val else .zero false
  | .fin n m e => if m = 0 then .inf n else if n then Fp.canon.val else .real (exactRsq m e)

def Fp.sqrt : Fp → Val
  | .nan n f h => .nan n f h
  | .inf n => if n then Fp.canon.val else .inf false
  | .fin n m e => if m = 0 then .zero n else if n then Fp.canon.val else .real (exactSqrt m e)

/-- Beyond ±4096 every format over- or underflows; the exponent is held there. -/
def Fp.exp2 : Fp → Val
  | .nan n f h => .nan n f h
  | .inf n => if n then .zero false else .inf false
  | .fin n m e =>
    if 0 ≤ e then
      let i : Int := Nat.min 4096 (m * 2 ^ (Nat.min 13 e.toNat))
      .real (dyadic false 1 (if n then -i else i))
    else
      let w := (-e).toNat
      let v : Int := if n then -(m : Int) else m
      let i := v / 2 ^ w
      let fr := (v % 2 ^ w).toNat
      let i' := max (-4096) (min 4096 i)
      if fr = 0 then .real (dyadic false 1 i') else .real (exactExp2 i' w fr)

def Fp.log2 : Fp → Val
  | .nan n f h => .nan n f h
  | .inf n => if n then Fp.canon.val else .inf false
  | .fin n m e =>
    if m = 0 then .inf true
    else if n then Fp.canon.val
    else if isPow2 m then
      let i := (Nat.log2 m : Int) + e
      ofDyadic (decide (i < 0)) i.natAbs 0
    else .real (exactLog2 m e)

/-! ### FP32 in mode 0, as the scan tree and the atomics use it (R87, R294) -/

def fp32Bits (v : Val) : Word := BitVec.ofNat 32 (fp32.roundWide false 0 0 v)
def fp32Add (a b : Word) : Word := fp32Bits (Fp.add 0 (fp32.fp a.toNat) (fp32.fp b.toNat)).val
def fp32Min (a b : Word) : Word := fp32Bits (Fp.least (fp32.fp a.toNat) (fp32.fp b.toNat)).val
def fp32Max (a b : Word) : Word := fp32Bits (Fp.most (fp32.fp a.toNat) (fp32.fp b.toNat)).val

/-- The place of an FP32 code in totalOrder (R254). -/
def totalKey (w : Word) : Int := if w.toNat < 2 ^ 31 then w.toNat else 2 ^ 31 - 1 - (w.toNat : Int)

/-! ### Typed operations of scans and atomics (R252, R294): 0 INT32, 1 NAT32, 2 FP32 -/

def addTy (ty : Nat) (a b : Word) : Word := if ty = 2 then fp32Add a b else a + b
def minTy (ty : Nat) (a b : Word) : Word :=
  if ty = 2 then fp32Min a b else if ty = 0 then (if b.slt a then b else a) else (if b.ult a then b else a)
def maxTy (ty : Nat) (a b : Word) : Word :=
  if ty = 2 then fp32Max a b else if ty = 0 then (if a.slt b then b else a) else (if a.ult b then b else a)

end Sys2Proof.Machine
end

