-- ==== Sys2Proof/Machine/Lines.lean ====
section
/-!
DEFINITION. Wall lines and the two networks: net address words, bank rows at their ports, lasts at work, block
scales, bank writes and edge sends (R72 to R74, R89 to R98, R104, R239).
-/

namespace Sys2Proof.Machine

/-! ### Net addresses (R90, R239) -/

/-- A net address word. -/
structure NetAddr where
  base : Nat
  rot  : Nat
  phase : Nat
  deriving DecidableEq, Repr

/-- Base row BASE + OFF, rotation and phase of an x register's word. -/
def netAddr (x : Word) : NetAddr :=
  { base := (x.extractLsb' 0 8).toNat + (x.extractLsb' 18 8).toNat, rot := (x.extractLsb' 8 5).toNat,
    phase := (x.extractLsb' 13 5).toNat }

/-- row(k) for a base row. -/
def NetAddr.row (a : NetAddr) (b k : Nat) : Nat := b + (a.rot * k + a.phase) % 32
def NetAddr.bad (a : NetAddr) : Bool := 255 < a.base + 31

/-! ### Bank formats (R72 to R74) -/

def bfFmt (b : DWord) : Nat := fld b 0 4
def bfSmall (b : DWord) : Bool := b.getLsbD 4
def bfSparse (b : DWord) : Bool := b.getLsbD 25
def bfTol (b : DWord) : Nat := fld b 26 2
/-- Words per block and blocks per row. -/
def bfWords (b : DWord) : Nat := if bfSmall b then 4 else 8
def bfBlocks (b : DWord) : Nat := if bfSmall b then 8 else 4

/-- The scale byte's address in SBANK: block j of bank k at row w (R74). -/
def scaleAddr (b : DWord) (w k j : Nat) : Nat := fld b 10 15 + 32 * bfBlocks b * w + bfBlocks b * k + j

/-! ### Rows and ports (R89, R92, R94) -/

/-- A bank row of a cell, physical bank. -/
def Cell.row (e : Cell) (bank row : Nat) : Row := mapGet 0 e.banks (256 * bank + row)

/-- 2:4 expansion of a compressed row (R92). -/
def expandRow (x : Row) : Row :=
  rowOfBytes (fun b =>
    let g := b / 4
    let o := b % 4
    let n := (rowByte x (64 + g / 2)).toNat / (if g % 2 = 0 then 1 else 16) % 16
    if n / 4 = o then rowByte x (2 * g + 1) else if n % 4 = o then rowByte x (2 * g) else 0)

/-- Transposition within aligned groups of 16 bytes (R94). -/
def transposeRow (tol : Nat) (x : Row) : Row :=
  match tol with
  | 1 => rowOfBytes (fun i => let w := i / 4 % 4; rowByte x (16 * (i / 16) + 4 * (i % 4) + w))
  | 2 => rowOfBytes (fun i =>
      let w := i / 4 % 4
      let h := i / 2 % 2
      rowByte x (16 * (i / 16) + 4 * (2 * (w / 2) + h) + 2 * (w % 2) + i % 2))
  | _ => x

/-- The row of share bank k as its port group delivers it (R92, R94). -/
def Run.portRow (r : Run) (s : State) (k row : Nat) : Row :=
  let x := (r.cellOf s).row (((r.share s).physBank k).getD 0) row
  let b := mapGet 0 r.f.bfmt k
  transposeRow (bfTol b) (if bfSparse b then expandRow x else x)

def rowsNat (f : Nat → Row) : Nat → Nat
  | 0 => 0
  | n + 1 => rowsNat f n + (f n).toNat * 2 ^ (1024 * n)

/-- A wall line from its rows, zero beyond the share's banks (R91). -/
def lineOf (nb : Nat) (f : Nat → Row) : Lanes := BitVec.ofNat 32768 (rowsNat f nb)

/-- The edge direction share bank k stands for, when it is marked (R104). -/
def markedDir (nb : Nat) (em : BitVec 4) (k : Nat) : Option Nat :=
  if nb ≤ k + 4 ∧ k < nb ∧ em.getLsbD (k + 4 - nb) then some (k + 4 - nb) else none

/-- The 1024 port words of a read (R90 to R92, R94, R104). -/
def Run.readLine (r : Run) (s : State) (a : NetAddr) (base : Nat) (em : BitVec 4) : Lanes :=
  let nb := (r.share s).nb
  lineOf nb (fun k => match markedDir nb em k with
    | some d => mapGet 0 (s.ccAt (r.key s)).edge d
    | none => r.portRow s k (a.row base k))

/-- The poison bits of those ports (R96): only received edge words can carry one. -/
def Run.readPois (r : Run) (s : State) (em : BitVec 4) : Row :=
  let nb := (r.share s).nb
  bitsOf (fun p => match markedDir nb em (p / 32) with
    | some d => (mapGet (0 : Word) (s.ccAt (r.key s)).edgePois d).getLsbD (p % 32)
    | none => false)

/-! ### Networks (R95 to R97) -/

def Last.pAt (l : Last) (j : Nat) : Nat := (l.p.extractLsb' (10 * j) 10).toNat
def Last.fAt (l : Last) (j : Nat) : Nat := (l.f.extractLsb' (10 * j) 10).toNat
def Last.sAt (l : Last) (j b : Nat) : Nat := (l.sel.extractLsb' (8 * j + 2 * b) 2).toNat

/-- The byte stage within a lane. -/
def byteStage (l : Last) (j : Nat) (w : Word) : Word := elemsOf 8 (fun b => elemAt 8 w (l.sAt j b))

/-- mid[P(j)] ← port[j]. -/
def benesNat (l : Last) (port : Lanes) : Nat → Nat
  | 0 => 0
  | n + 1 => benesNat l port n + (lane port n).toNat * 2 ^ (32 * l.pAt n)

def readnet (l : Last) (port : Lanes) : Lanes :=
  let mid : Lanes := BitVec.ofNat 32768 (benesNat l port 1024)
  lanesOf (fun j => if l.m.getLsbD j then 0 else byteStage l j (lane mid (l.fAt j)))

/-- The port of which position P(j) of the Beneš carries the word; found from the last. -/
def originNat (l : Last) : Nat → Nat
  | 0 => 0
  | n + 1 => originNat l n + n * 2 ^ (10 * l.pAt n)

/-- g(j): the origin port of lane j (R245). -/
def originOf (l : Last) (inv : BitVec 10240) (j : Nat) : Nat := (inv.extractLsb' (10 * l.fAt j) 10).toNat
def originInv (l : Last) : BitVec 10240 := BitVec.ofNat 10240 (originNat l 1024)

/-- The poison of the delivered lanes (R96). -/
def readnetPois (l : Last) (pois : Row) : Row :=
  if pois = 0 then 0
  else
    let inv := originInv l
    bitsOf (fun j => !l.m.getLsbD j && pois.getLsbD (originOf l inv j))

/-- port[P(j)] ← the bytes of in[j], for lanes with `en` (R97). -/
def writeNat (l : Last) (en : Row) (x : Lanes) : Nat → Nat
  | 0 => 0
  | n + 1 => writeNat l en x n
      + (if en.getLsbD n && !l.m.getLsbD n then (byteStage l n (lane x n)).toNat * 2 ^ (32 * l.pAt n) else 0)

def wenNat (l : Last) (en : Row) : Nat → Nat
  | 0 => 0
  | n + 1 => wenNat l en n + (if en.getLsbD n && !l.m.getLsbD n then 2 ^ l.pAt n else 0)

/-- The port words and their write enables. -/
def writenet (l : Last) (en : Row) (x : Lanes) : Lanes × Row :=
  (BitVec.ofNat 32768 (writeNat l en x 1024), BitVec.ofNat 1024 (wenNat l en 1024))

/-- A last-cache entry of the share, when it is of the wanted kind (R98). -/
def Run.lastAt (r : Run) (s : State) (entry : Nat) (kind : LastKind) : Option Last :=
  match (r.share s).physLast entry with
  | some n =>
    let l := mapGet Last.none (r.cellOf s).lasts n
    if l.kind = kind then some l else none
  | none => none

/-! ### Writes and sends -/

/-- A result for the enabled words of a bank row, share bank k, `lat` steps on (R105). -/
def Run.landRow (r : Run) (lat k row : Nat) (en : Word) (w : Row) (s : State) : State :=
  match (r.share s).physBank k with
  | some pb =>
    if en = 0 then s
    else r.land (.bank r.cell pb row) lat ((rowOf (fun i => if en.getLsbD i then 0xFFFFFFFF else 0)).setWidth 32768)
      (w.setWidth 32768) s
  | none => s

/-- A result for single bytes of a bank row, given as a row and a mask of bytes. -/
def Run.landBytes (r : Run) (lat k row : Nat) (be : Nat → Bool) (w : Row) (s : State) : State :=
  match (r.share s).physBank k with
  | some pb =>
    r.land (.bank r.cell pb row) lat ((rowOfBytes (fun i => if be i then 0xFF else 0)).setWidth 32768)
      (w.setWidth 32768) s
  | none => s

/-- The neighbour of a cell in direction d: 0 north, 1 east, 2 south, 3 west (R33). -/
def neighbour (k d : Nat) : Option Nat :=
  match d with
  | 0 => if k < 8 then none else some (k - 8)
  | 1 => if k % 8 = 7 then none else some (k + 1)
  | 2 => if 56 ≤ k then none else some (k + 8)
  | _ => if k % 8 = 0 then none else some (k - 1)

def opposite (d : Nat) : Nat := (d + 2) % 4

/-- Sends the enabled words toward d; a missing neighbour discards them (R33, R104). The words of a register or a
bank carry no poison. -/
def Run.sendWords (r : Run) (d : Nat) (en : Word) (w : Row) (s : State) : State :=
  match neighbour r.cell d with
  | some k =>
    let m := (rowOf (fun i => if en.getLsbD i then 0xFFFFFFFF else 0)).setWidth 32768
    if en = 0 then s
    else r.land (.edgePois k (opposite d)) 3 (en.setWidth 32768) 0
      (r.land (.edge k (opposite d)) 3 m (w.setWidth 32768) s)
  | none => s

/-- A HALO of the cell keeps a direction busy at this step (R250). -/
def Run.busy (r : Run) (s : State) (dirs : BitVec 4) : Bool :=
  (r.cellOf s).halos.any (fun h => h.e ≤ s.now && s.now ≤ h.e + h.cnt && h.seq != r.f.seq && h.dm &&& dirs != 0)

/-- The port words of a store: bank rows written at `lat`, marked groups sent (R97, R104, R241). -/
def Run.storeLine (r : Run) (lat : Nat) (a : NetAddr) (em : BitVec 4) (w : Lanes) (wen : Row) (s : State) : State :=
  let nb := (r.share s).nb
  (upto nb).foldl (fun t k =>
    let en : Word := wen.extractLsb' (32 * k) 32
    match markedDir nb em k with
    | some d => r.sendWords d en (lanesRow w k) t
    | none => r.landRow lat k (a.row a.base k) en (lanesRow w k) t) s

/-- The block scale of bank k at a row, block j; `none` when its address is beyond the bank (R74). -/
def Run.scaleByte (r : Run) (s : State) (k row j : Nat) : Option Byte :=
  let b := mapGet 0 r.f.bfmt k
  let a := scaleAddr b row k j
  if 32767 < a then none
  else some (rowByte ((r.cellOf s).row (((r.share s).physBank (fld b 5 5)).getD 0) (a / 128)) (a % 128))

/-- Writes the block scale of bank k at a row, block j (R74). -/
def Run.landScale (r : Run) (lat k row j : Nat) (e : Nat) (s : State) : State :=
  let b := mapGet 0 r.f.bfmt k
  let a := scaleAddr b row k j
  r.landBytes lat (fld b 5 5) (a / 128) (fun i => i == a % 128)
    ((BitVec.ofNat 1024 e) <<< (8 * (a % 128))) s

end Sys2Proof.Machine
end

