-- ==== Sys2Proof/Machine/Scan.lean ====
section
/-!
DEFINITION. The scan unit (R251 to R256), the reduction tree (R87), ranking (R254), and the routing solver (R102, R103,
R257).
-/

namespace Sys2Proof.Machine

/-! ### Trees and prefixes over lists of lanes -/

/-- Identity of an operation (R87): OP 0 add, 1 min, 2 max; TY 0 INT32, 1 NAT32, 2 FP32. -/
def scanIdent (op ty : Nat) : Word :=
  match op, ty with
  | 0, 2 => 0x80000000
  | 0, _ => 0
  | 1, 0 => 0x7FFFFFFF
  | 1, 1 => 0xFFFFFFFF
  | 1, _ => 0x7F800000
  | _, 0 => 0x80000000
  | _, 1 => 0
  | _, _ => 0xFF800000

def scanOp (op ty : Nat) (a b : Word) : Word :=
  match op with
  | 0 => addTy ty a b
  | 1 => minTy ty a b
  | _ => maxTy ty a b

/-- One level of the reduction tree: t[2j] with t[2j+1], lower index first (R87). -/
def pairUp (f : Word → Word → Word) : List Word → List Word
  | a :: b :: r => f a b :: pairUp f r
  | l => l

/-- `n` levels of the tree. -/
def reduceTree (f : Word → Word → Word) : Nat → List Word → List Word
  | 0, t => t
  | n + 1, t => reduceTree f n (pairUp f t)

/-- One level of SCAN: t[l] ← op(t[l − 2^d], t[l]) for l ≥ 2^d (R253). -/
def scanLevel (f : Word → Word → Word) (t : List Word) (d : Nat) : List Word :=
  t.take (2 ^ d) ++ List.zipWith f t (t.drop (2 ^ d))

/-- One level of SEGSCAN, values with their head bits. -/
def segLevel (f : Word → Word → Word) (t : List (Word × Bool)) (d : Nat) : List (Word × Bool) :=
  t.take (2 ^ d) ++ List.zipWith (fun a b => (if b.2 then b.1 else f a.1 b.1, b.2 || a.2)) t (t.drop (2 ^ d))

/-- The value at a position of a list. -/
def listAt {α : Type} (d : α) (l : List α) (i : Nat) : α := (l[i]?).getD d

/-! ### Lanes and ranking -/

/-- The active lanes: guarded, and below the lane count that LR names (R252). -/
def Run.scanActive (r : Run) (s : State) (lr : BitVec 3) : Row :=
  let n := if lr = 0 then 1024 else Nat.min ((r.x s lr.toNat).toNat % 2048) 1024
  r.guard s &&& BitVec.ofNat 1024 (2 ^ n - 1)

/-- The lanes of a register, identities where inactive. -/
def maskedLanes (v : Lanes) (act : Row) (ident : Word) : List Word :=
  (upto 1024).map (fun l => if act.getLsbD l then lane v l else ident)

/-- The place of a value in the total order of R254. -/
def rankKey (ty : Nat) (w : Word) : Int := if ty = 0 then w.toInt else if ty = 1 then w.toNat else totalKey w

/-- Puts an entry before every entry that is not strictly better, so that equal keys keep their order. -/
def insertRank (better : Int → Int → Bool) (x : Int × Nat) : List (Int × Nat) → List (Int × Nat)
  | [] => [x]
  | y :: r => if better y.1 x.1 then y :: insertRank better x r else x :: y :: r

/-- Entries (key, index), best first; equal keys in ascending index (R254). -/
def rank (better : Int → Int → Bool) (l : List (Int × Nat)) : List (Int × Nat) := l.foldr (insertRank better) []

def largerFirst (a b : Int) : Bool := decide (b < a)
def smallerFirst (a b : Int) : Bool := decide (a < b)

/-! ### The scan forms -/

/-- SCAN (R253). -/
def cellScan (d a : BitVec 7) (lr : BitVec 3) (op ty : BitVec 2) (r : Run) (s : State) : State :=
  let act := r.scanActive s lr
  let t := maskedLanes (r.v s a.toNat) act (scanIdent op.toNat ty.toNat)
  let o := (upto 10).foldl (scanLevel (scanOp op.toNat ty.toNat)) t
  r.landV d.toNat 8 act (lanesOf (listAt 0 o)) s

/-- SEGSCAN: a head bit counts whether or not its lane is active (R253). -/
def cellSegscan (d a : BitVec 7) (hp : BitVec 3) (op ty : BitVec 2) (r : Run) (s : State) : State :=
  let act := r.guard s
  let t := maskedLanes (r.v s a.toNat) act (scanIdent op.toNat ty.toNat)
  let h := r.p s hp.toNat
  let f := (upto 1024).map (fun l => l == 0 || h.getLsbD l)
  let o := (upto 10).foldl (segLevel (scanOp op.toNat ty.toNat)) (List.zip t f)
  r.landV d.toNat 8 act (lanesOf (fun l => (listAt (0, false) o l).1)) s

/-- REDUCE: the tree's result in all 1024 lanes (R253). -/
def cellReduce (d a : BitVec 7) (lr : BitVec 3) (op ty : BitVec 2) (r : Run) (s : State) : State :=
  let t := maskedLanes (r.v s a.toNat) (r.scanActive s lr) (scanIdent op.toNat ty.toNat)
  let x := listAt 0 (reduceTree (scanOp op.toNat ty.toNat) 10 t) 0
  r.landV d.toNat 8 (BitVec.allOnes 1024) (lanesOf (fun _ => x)) s

/-- TOPK (R254). -/
def cellTopk (d a : BitVec 7) (xk : BitVec 4) (dir : Bool) (ty : BitVec 2) (r : Run) (s : State) : State :=
  let w := (r.x s xk.toNat).toNat
  let g := Nat.min (w / 4096 % 8) 5
  let n := 1024 / 2 ^ g
  let k := Nat.min (w % 2048) n
  let act := r.guard s
  let v := r.v s a.toNat
  let ranks := (upto (2 ^ g)).map (fun q =>
    rank (if dir then smallerFirst else largerFirst)
      (((upto n).filter (fun i => act.getLsbD (q * n + i))).map (fun i => (rankKey ty.toNat (lane v (q * n + i)), i))))
  let at_ := fun (l : Nat) => (listAt [] ranks (l / n))[l % n]?
  let below := fun (l : Nat) => decide (l % n < k)
  let t := r.landV d.toNat 8 (bitsOf (fun l => below l && (at_ l).isSome))
    (lanesOf (fun l => match at_ l with | some e => lane v (l / n * n + e.2) | none => 0)) s
  r.landV (d.toNat + 1) 8 (bitsOf below)
    (lanesOf (fun l => match at_ l with | some e => BitVec.ofNat 32 e.2 | none => 0xFFFFFFFF)) t

/-- SORT: the active lanes in rank order, then the inactive lanes in lane order (R254). -/
def cellSort (d a : BitVec 7) (g : BitVec 3) (dir : Bool) (ty : BitVec 2) (r : Run) (s : State) : State :=
  let n := 1024 / 2 ^ g.toNat
  let act := r.guard s
  let v := r.v s a.toNat
  let order := (upto (2 ^ g.toNat)).map (fun q =>
    (rank (if dir then largerFirst else smallerFirst)
      (((upto n).filter (fun i => act.getLsbD (q * n + i))).map (fun i => (rankKey ty.toNat (lane v (q * n + i)), i)))).map
        (fun e => e.2) ++ (upto n).filter (fun i => !act.getLsbD (q * n + i)))
  let src := fun (l : Nat) => listAt 0 (listAt [] order (l / n)) (l % n)
  let all := BitVec.allOnes 1024
  r.landV (d.toNat + 1) 8 all (lanesOf (fun l => BitVec.ofNat 32 (src l)))
    (r.landV d.toNat 8 all (lanesOf (fun l => lane v (l / n * n + src l))) s)

/-- COMPACT (R255). -/
def cellCompact (d a : BitVec 7) (xc : BitVec 5) (r : Run) (s : State) : State :=
  let act := r.guard s
  let ls := (upto 1024).filter (fun l => act.getLsbD l)
  let v := r.v s a.toNat
  r.landX xc.toNat 8 (BitVec.ofNat 32 ls.length)
    (r.landV d.toNat 8 (bitsOf (fun l => decide (l < ls.length))) (lanesOf (fun l => lane v (listAt 0 ls l))) s)

/-- HIST (R256). -/
def cellHist (d a : BitVec 7) (acc : Bool) (r : Run) (s : State) : State :=
  let act := r.guard s
  let v := r.v s a.toNat
  let old := r.v s d.toNat
  let ls := (upto 1024).filter (fun l => act.getLsbD l)
  let count := fun (b : Nat) => (ls.filter (fun l => (lane v l).toNat == b)).length
  let t := r.landV d.toNat 8 (BitVec.allOnes 1024)
    (lanesOf (fun b => (if acc then lane old b else 0) + BitVec.ofNat 32 (count b))) s
  if ls.any (fun l => 1024 ≤ (lane v l).toNat) then r.land (.pois r.cell) 8 (onesMask 1) 1 t else t

/-! ### The awl (R102, R103, R257) -/

def packNat (w : Nat) (f : Nat → Nat) : Nat → Nat
  | 0 => 0
  | n + 1 => packNat w f n + (f n % 2 ^ w) * 2 ^ (w * n)

/-- Identity maps and byte selectors. -/
def identPos : BitVec 10240 := BitVec.ofNat 10240 (packNat 10 id 1024)
def identSel : BitVec 8192 := BitVec.ofNat 8192 (packNat 8 (fun _ => 0xE4) 1024)

/-- A gather last: lanes that are not valid deliver zero (R102). -/
def gatherLast (valid : Nat → Bool) (idx : Nat → Nat) : Last :=
  { kind := .read, p := identPos, f := BitVec.ofNat 10240 (packNat 10 (fun j => if valid j then idx j else j) 1024),
    sel := identSel, m := bitsOf (fun j => !valid j) }

/-- The lanes a scatter keeps: of the valid lanes with one index, the lowest (R102). -/
def keptLanes (valid : Nat → Bool) (idx : Nat → Nat) : List Nat :=
  ((upto 1024).foldl (fun (a : List Nat × Nat) j =>
    if valid j && !a.2.testBit (idx j) then (a.1 ++ [j], a.2 + 2 ^ idx j) else a) ([], 0)).1

/-- A scatter last: dropped lanes take the positions left over, in order, which no effect shows (R102). -/
def scatterLast (valid : Nat → Bool) (idx : Nat → Nat) : Last :=
  let kept := keptLanes valid idx
  let used := kept.foldl (fun a j => a + 2 ^ idx j) 0
  let free := (upto 1024).filter (fun p => !used.testBit p)
  let isKept := kept.foldl (fun a j => a + 2 ^ j) 0
  let rest := (upto 1024).filter (fun j => !isKept.testBit j)
  let p := kept.foldl (fun a j => a + idx j * 2 ^ (10 * j)) 0
    + (List.zip rest free).foldl (fun a e => a + e.2 * 2 ^ (10 * e.1)) 0
  { kind := .write, p := BitVec.ofNat 10240 p, f := identPos, sel := identSel, m := bitsOf (fun j => !isKept.testBit j) }

/-- AWL: in force from t + 48 + skew; poison when a lane is invalid or dropped (R102, R103, R257). -/
def cellAwl (scatter : Bool) (le : BitVec 6) (a : BitVec 7) (pen : Bool) (pp : BitVec 4) (r : Run) (s : State) : State :=
  let v := r.v s a.toNat
  let p := if pen then r.p s pp.toNat else BitVec.allOnes 1024
  let valid := fun (j : Nat) => p.getLsbD j && decide ((lane v j).toNat < 1024)
  let idx := fun (j : Nat) => (lane v j).toNat % 1024
  let l := if scatter then scatterLast valid idx else gatherLast valid idx
  let s' := s.pushPend s.lay { ctx := r.f.ctx, region := r.f.region, due := s.now + 48, lag := 0, seq := r.f.seq,
                               loc := .last r.cell (((r.share s).physLast le.toNat).getD 0), mask := 0, val := 0,
                               last := some l, lm := r.f.lm, baddr := r.f.baddr, slot := r.slot.idx }
  let bad := (upto 1024).any (fun j => p.getLsbD j && !valid j)
    || (scatter && (keptLanes valid idx).length != ((upto 1024).filter valid).length)
  if bad then r.land (.pois r.cell) 48 (onesMask 1) 1 s' else s'

def cellAwlGather (le : BitVec 6) (a : BitVec 7) (pen : Bool) (pp : BitVec 4) (r : Run) (s : State) : State :=
  cellAwl false le a pen pp r s
def cellAwlScatter (le : BitVec 6) (a : BitVec 7) (pen : Bool) (pp : BitVec 4) (r : Run) (s : State) : State :=
  cellAwl true le a pen pp r s

/-- SCAN (R251 to R253). -/
def execScan (d a : BitVec 7) (lr : BitVec 3) (op ty : BitVec 2) (s : State) : Res :=
  issueCell (.scan d a lr op ty) (cellScan d a lr op ty) s
/-- SEGSCAN (R251 to R253). -/
def execSegscan (d a : BitVec 7) (hp : BitVec 3) (op ty : BitVec 2) (s : State) : Res :=
  issueCell (.segscan d a hp op ty) (cellSegscan d a hp op ty) s
/-- REDUCE (R251 to R253). -/
def execReduce (d a : BitVec 7) (lr : BitVec 3) (op ty : BitVec 2) (s : State) : Res :=
  issueCell (.reduce d a lr op ty) (cellReduce d a lr op ty) s
/-- TOPK (R251, R254). -/
def execTopk (d a : BitVec 7) (xk : BitVec 4) (dir : Bool) (ty : BitVec 2) (s : State) : Res :=
  issueCell (.topk d a xk dir ty) (cellTopk d a xk dir ty) s
/-- SORT (R251, R254). -/
def execSort (d a : BitVec 7) (g : BitVec 3) (dir : Bool) (ty : BitVec 2) (s : State) : Res :=
  issueCell (.sort d a g dir ty) (cellSort d a g dir ty) s
/-- COMPACT (R255). -/
def execCompact (d a : BitVec 7) (xc : BitVec 5) (s : State) : Res := issueCell (.compact d a xc) (cellCompact d a xc) s
/-- HIST (R256). -/
def execHist (d a : BitVec 7) (acc : Bool) (s : State) : Res := issueCell (.hist d a acc) (cellHist d a acc) s
/-- AWL, gather (R257). -/
def execAwlGather (le : BitVec 6) (a : BitVec 7) (pen : Bool) (pp : BitVec 4) (s : State) : Res :=
  issueCell (.awlGather le a pen pp) (cellAwlGather le a pen pp) s
/-- AWL, scatter (R257). -/
def execAwlScatter (le : BitVec 6) (a : BitVec 7) (pen : Bool) (pp : BitVec 4) (s : State) : Res :=
  issueCell (.awlScatter le a pen pp) (cellAwlScatter le a pen pp) s

end Sys2Proof.Machine
end

