-- ==== Sys2Proof/Machine/Acc.lean ====
section
/-!
DEFINITION. Accumulator slots (R277 to R279).
-/

namespace Sys2Proof.Machine

/-- T = tile + (XEN ? x[xt] bits 5:0 : 0) (R277). -/
def Run.tile (r : Run) (s : State) (t : BitVec 6) (xen : Bool) (xt : BitVec 3) : Nat :=
  t.toNat + (if xen then (r.x s xt.toNat).toNat % 64 else 0)

/-- AMOV from a tile; with `clr`, +0.0 goes into the words it read in phase 3 of the same step (R277). -/
def amovFrom (clr : Bool) (d : BitVec 7) (t : BitVec 6) (xen : Bool) (xt : BitVec 3) (r : Run) (s : State) : State :=
  match (r.share s).physTile (r.tile s t xen xt) with
  | none => r.raise .bounds 1 s
  | some p =>
    let act := r.guard s
    let u := r.landV d.toNat 5 act (mapGet 0 (r.cellOf s).acc p) s
    if clr then r.land (.acc r.cell p) 0 (laneMask (fun l => act.getLsbD l)) 0 u else u

def cellAmov (d : BitVec 7) (t : BitVec 6) (xen : Bool) (xt : BitVec 3) (r : Run) (s : State) : State :=
  amovFrom false d t xen xt r s
def cellAmovClr (d : BitVec 7) (t : BitVec 6) (xen : Bool) (xt : BitVec 3) (r : Run) (s : State) : State :=
  amovFrom true d t xen xt r s

/-- AMOV.TO (R277). -/
def cellAmovTo (d : BitVec 7) (t : BitVec 6) (xen : Bool) (xt : BitVec 3) (r : Run) (s : State) : State :=
  match (r.share s).physTile (r.tile s t xen xt) with
  | none => r.raise .bounds 1 s
  | some p => r.land (.acc r.cell p) 3 (laneMask (fun l => (r.guard s).getLsbD l)) (r.v s d.toNat) s

/-- ACLR: +0.0 in every word of the tiles (R278). -/
def cellAclr (t cnt : BitVec 6) (r : Run) (s : State) : State :=
  (upto (cnt.toNat + 1)).foldl (fun u i =>
    match (r.share s).physTile (t.toNat + i) with
    | some p => r.land (.acc r.cell p) 2 (BitVec.allOnes 32768) 0 u
    | none => u) s

/-- ATOPK (R279). -/
def cellAtopk (wstr : Bool) (le : BitVec 6) (t : BitVec 6) (xk : BitVec 4) (xd : BitVec 3) (r : Run) (s : State) : State :=
  let w := (r.x s xk.toNat).toNat
  let k := Nat.min (w % 32) 16
  let tn := w / 32 % 32 + 1
  let a := netAddr (r.x s xd.toNat)
  let h := r.share s
  if (h.physTile (t.toNat + tn - 1)).isNone then r.raise .bounds 1 s
  else if a.bad then r.raise .bounds 3 s
  else
    let last := if wstr then some Last.none else r.lastAt s le.toNat .write
    match last with
    | none => r.raise .illegal 6 s
    | some l =>
      let e := r.cellOf s
      let at_ := fun (row c : Nat) => lane (mapGet 0 e.acc ((h.physTile (t.toNat + c / 32)).getD 0)) (32 * row + c % 32)
      let ranks := (upto 32).map (fun row =>
        rank largerFirst ((upto (32 * tn)).map (fun c => (totalKey (at_ row c), c))))
      -- lane 64·j + row holds rank j's value of a row, lane 64·j + 32 + row its column
      let perm := lanesOf (fun n =>
        let j := n / 64
        let row := n % 32
        match (listAt [] ranks row)[j]? with
        | some x => if n / 32 % 2 = 0 then at_ row x.2 else BitVec.ofNat 32 x.2
        | none => 0)
      let en : Row := BitVec.ofNat 1024 (2 ^ (64 * k) - 1)
      let o := if wstr then (perm, en) else writenet l en perm
      r.storeLine 9 a 0 o.1 o.2 s

/-- AMOV (R277). -/
def execAmov (d : BitVec 7) (t : BitVec 6) (xen : Bool) (xt : BitVec 3) (s : State) : Res :=
  issueCell (.amov d t xen xt) (cellAmov d t xen xt) s
/-- AMOV.CLR (R277). -/
def execAmovClr (d : BitVec 7) (t : BitVec 6) (xen : Bool) (xt : BitVec 3) (s : State) : Res :=
  issueCell (.amovClr d t xen xt) (cellAmovClr d t xen xt) s
/-- AMOV.TO (R277). -/
def execAmovTo (d : BitVec 7) (t : BitVec 6) (xen : Bool) (xt : BitVec 3) (s : State) : Res :=
  issueCell (.amovTo d t xen xt) (cellAmovTo d t xen xt) s
/-- ACLR (R278). -/
def execAclr (t cnt : BitVec 6) (s : State) : Res := issueCell (.aclr t cnt) (cellAclr t cnt) s
/-- ATOPK (R279). -/
def execAtopk (wstr : Bool) (le : BitVec 6) (t : BitVec 6) (xk : BitVec 4) (xd : BitVec 3) (s : State) : Res :=
  issueCell (.atopk wstr le t xk xd) (cellAtopk wstr le t xk xd) s

end Sys2Proof.Machine
end

