-- ==== Sys2Proof/Machine/Net.lean ====
section
/-!
DEFINITION. Loads and stores through the networks, permutations, bank-to-bank copies, last loads, neighbour words
and face exchange (R240 to R250).
-/

namespace Sys2Proof.Machine

/-- The net address word of x0–x7 at e (R239). -/
def Run.addr (r : Run) (s : State) (xa : BitVec 3) : NetAddr := netAddr (r.x s xa.toNat)

/-- VLD's declared latency and the steps by which a Goluef part lags it (R347, R348). -/
def Run.vldLat (r : Run) : Nat × Nat := if r.f.prof then (4, 2) else (6, 0)

/-- A vector result of VLD or VLDX (R241, R348). -/
def Run.landLoad (r : Run) (n : Nat) (act : Row) (v : Lanes) (s : State) : State :=
  r.landLag r.vldLat.2 (.v r.cell (((r.share s).physV n).getD 0)) r.vldLat.1 (laneMask (fun l => act.getLsbD l)) v s

/-- A summary bit set by poison that reaches a register (R243). -/
def Run.landLoadPois (r : Run) (lat : Nat) (act pois : Row) (s : State) : State :=
  if act &&& pois = 0 then s else r.land (.pois r.cell) lat (onesMask 1) 1 s

/-- A load through a last, or straight when `entry` is none (R241). -/
def loadThrough (d : BitVec 7) (entry : Option Nat) (em : BitVec 4) (xa : BitVec 3) (r : Run) (s : State) : State :=
  let a := r.addr s xa
  let act := r.guard s
  if a.bad then r.raise .bounds 3 s
  else
    let port := r.readLine s a a.base em
    let pois := r.readPois s em
    match entry with
    | none => r.landLoadPois r.vldLat.1 act pois (r.landLoad d.toNat act port s)
    | some n => match r.lastAt s n .read with
      | none => r.raise .illegal 6 s
      | some l => r.landLoadPois r.vldLat.1 act (readnetPois l pois) (r.landLoad d.toNat act (readnet l port) s)

/-- A store through a last, or straight (R241). SCHED (R250) is taken before ILLEGAL (R98). DESIGN CHOICE:
notes/assumptions/41.md. -/
def storeThrough (v : BitVec 7) (entry : Option Nat) (em : BitVec 4) (xa : BitVec 3) (r : Run) (s : State) : State :=
  let a := r.addr s xa
  if a.bad then r.raise .bounds 3 s
  else if r.busy s em then r.raise .sched 6 s
  else match entry with
    | none => r.storeLine 3 a em (r.v s v.toNat) (r.guard s) s
    | some n => match r.lastAt s n .write with
      | none => r.raise .illegal 6 s
      | some l =>
        let o := writenet l (r.guard s) (r.v s v.toNat)
        r.storeLine 3 a em o.1 o.2 s

def cellVld (d : BitVec 7) (le : BitVec 6) (em : BitVec 4) (xa : BitVec 3) (r : Run) (s : State) : State :=
  loadThrough d (some le.toNat) em xa r s
def cellVldStraight (d : BitVec 7) (em : BitVec 4) (xa : BitVec 3) (r : Run) (s : State) : State :=
  loadThrough d none em xa r s
def cellVst (v : BitVec 7) (le : BitVec 6) (em : BitVec 4) (xa : BitVec 3) (r : Run) (s : State) : State :=
  storeThrough v (some le.toNat) em xa r s
def cellVstStraight (v : BitVec 7) (em : BitVec 4) (xa : BitVec 3) (r : Run) (s : State) : State :=
  storeThrough v none em xa r s

/-- The entry a VLDX or VSTX takes from x[xe], checked against the share at e (R240). -/
def Run.xEntry (r : Run) (s : State) (xe : BitVec 5) : Nat := (r.x s xe.toNat).toNat % 64

def cellVldx (d : BitVec 7) (xe : BitVec 5) (em : BitVec 4) (xa : BitVec 3) (r : Run) (s : State) : State :=
  if ((r.share s).physLast (r.xEntry s xe)).isNone then r.raise .bounds 1 s
  else loadThrough d (some (r.xEntry s xe)) em xa r s
def cellVstx (v : BitVec 7) (xe : BitVec 5) (em : BitVec 4) (xa : BitVec 3) (r : Run) (s : State) : State :=
  if ((r.share s).physLast (r.xEntry s xe)).isNone then r.raise .bounds 1 s
  else storeThrough v (some (r.xEntry s xe)) em xa r s

/-! ### CONV (R242) -/

/-- A bank whose codes CONV moves: FMT 5 or 6 with 32-element blocks. -/
def Run.convBank (r : Run) (k : Nat) : Bool :=
  let b := mapGet 0 r.f.bfmt k
  (bfFmt b == 5 || bfFmt b == 6) && !bfSmall b

/-- The four L6 codes of the 24-bit word at bytes 3w to 3w+2 (R69). -/
def l6Word (x : Row) (w : Nat) : Word :=
  let v := (x.toNat / 2 ^ (24 * w)) % 2 ^ 24
  elemsOf 8 (fun j => v / 2 ^ (6 * j) % 64)

/-- Bits 5:0 of the bytes of a lane word, packed by R69. -/
def l6Pack (x : Word) : Nat :=
  elemAt 8 x 0 % 64 + 64 * (elemAt 8 x 1 % 64) + 4096 * (elemAt 8 x 2 % 64) + 262144 * (elemAt 8 x 3 % 64)

/-- Whether some scale byte of the CONV banks wanted would lie beyond its bank (R74, R242): of all four blocks of the
bank's segment, also a block with no active lane. DESIGN CHOICE: notes/assumptions/42.md. -/
def Run.convBad (r : Run) (s : State) (a : NetAddr) (want : Nat → Bool) : Bool :=
  (upto (r.share s).nb).any (fun k => want k && (upto 4).any (fun j => (r.scaleByte s k (a.row a.base k) j).isNone))

/-- Any lane of a range is active. -/
def anyActive (act : Row) (lo n : Nat) : Bool := act.extractLsb' lo 1024 &&& BitVec.ofNat 1024 (2 ^ n - 1) != 0

/-- vld.dec (R242). -/
def cellVldDec (d : BitVec 7) (xa : BitVec 3) (r : Run) (s : State) : State :=
  let a := r.addr s xa
  let act := r.guard s
  let nb := (r.share s).nb
  if a.bad || r.convBad s a r.convBank then r.raise .bounds 3 s
  else
    let port := r.readLine s a a.base 0
    let codes := lanesOf (fun l =>
      if l < 32 * nb && r.convBank (l / 32) && bfFmt (mapGet 0 r.f.bfmt (l / 32)) == 6 then
        l6Word (lanesRow port (l / 32)) (l % 32)
      else lane port l)
    let conv := fun (k : Nat) => k < nb && r.convBank k && anyActive act (32 * k) 32
    let scales := lanesOf (fun k => if conv k then
        elemsOf 8 (fun j => ((r.scaleByte s k (a.row a.base k) j).getD 0).toNat) else 0)
    r.landLag r.vldLat.2 (.v r.cell (((r.share s).physV (d.toNat + 1)).getD 0)) r.vldLat.1 (laneMask conv) scales
      (r.landLoad d.toNat act codes s)

/-- vst.enc: the scale bytes are written after the codes of the same access (R242). -/
def cellVstEnc (v : BitVec 7) (xa : BitVec 3) (r : Run) (s : State) : State :=
  let a := r.addr s xa
  let act := r.guard s
  let nb := (r.share s).nb
  let raw := fun (k : Nat) => !r.convBank k || bfSparse (mapGet 0 r.f.bfmt k)
  if a.bad || r.convBad s a (fun k => !raw k) then r.raise .bounds 3 s
  else
    let vs := r.v s v.toNat
    let sc := r.v s (v.toNat + 1)
    let t := (upto nb).foldl (fun t k =>
      if bfFmt (mapGet 0 r.f.bfmt k) == 6 && !raw k then
        r.landBytes 3 k (a.row a.base k) (fun i => i < 96 && act.getLsbD (32 * k + i / 3))
          (rowOfBytes (fun i => if i < 96 then
            BitVec.ofNat 8 (l6Pack (lane vs (32 * k + i / 3)) / 256 ^ (i % 3)) else 0)) t
      else r.landRow 3 k (a.row a.base k) (act.extractLsb' (32 * k) 32) (lanesRow vs k) t) s
    (upto nb).foldl (fun t k =>
      if raw k then t
      else (upto 4).foldl (fun t j =>
        if anyActive act (32 * k + 8 * j) 8 then
          r.landScale 3 k (a.row a.base k) j (elemAt 8 (lane sc k) j) t
        else t) t) t

/-! ### BCOPY (R244, R245) -/

/-- Width class of a format: element width, 0 for L6. -/
def widthClass (f : Nat) : Nat := if f = 6 then 0 else fmtWidth f

/-- One lane on its way: the word, its source format and block scale, and its destination bank, when in the share. -/
structure CopyLane where
  word : Word
  fs   : Option Nat
  es   : Nat
  /-- The source scale lies in its bank. -/
  esOk : Bool
  fd   : Option Nat
  port : Nat
  deriving DecidableEq, Repr

/-- A lane converts (R245). -/
def CopyLane.converts (c : CopyLane) : Bool :=
  match c.fs, c.fd with
  | some a, some b => widthClass a != 0 && widthClass a == widthClass b && (a != b || a == 5)
  | _, _ => false

/-- The exact value of element j of a lane. -/
def CopyLane.elem (c : CopyLane) (j : Nat) : Val :=
  let f := c.fs.getD 0
  let x := elemAt (fmtWidth f) c.word j
  if f = 5 then decodeMx c.es x else decodeElem f x

/-- The destination block of a port word: bank and block. -/
def Run.blockOf (r : Run) (port : Nat) : Nat × Nat := (port / 32, port % 32 / bfWords (mapGet 0 r.f.bfmt (port / 32)))

/-- BCOPY's lanes, with the guard and the write last's drop mask (`wl` none: identity). A lane whose origin port lies at or
beyond 32·nb has no format: its zero word is moved raw. DESIGN CHOICE: notes/assumptions/41.md. -/
def Run.copyLanes (r : Run) (s : State) (a : NetAddr) (rl wl : Option Last) : List (Option CopyLane) :=
  let nb := (r.share s).nb
  let port := r.readLine s a a.base 0
  let out := match rl with | some l => readnet l port | none => port
  let inv := match rl with | some l => originInv l | none => 0
  let act := r.guard s
  (upto 1024).map (fun j =>
    let g := match rl with | some l => originOf l inv j | none => j
    let p := match wl with | some l => l.pAt j | none => j
    let dropped := match wl with | some l => l.m.getLsbD j | none => false
    if act.getLsbD j && !dropped && p < 32 * nb then
      let bs := mapGet 0 r.f.bfmt (g / 32)
      let bd := mapGet 0 r.f.bfmt (p / 32)
      let e := if bfFmt bs = 5 ∧ g < 32 * nb then
          r.scaleByte s (g / 32) (a.row a.base (g / 32)) (g % 32 / bfWords bs)
        else some 127
      some { word := lane out j, fs := if g < 32 * nb then some (bfFmt bs) else none, es := (e.getD 0).toNat,
             esOk := e.isSome,
             fd := if bfSparse bd then none else some (bfFmt bd), port := p }
    else none)

/-- Whether a scale address that the copy reads or writes lies beyond its bank (R74). -/
def Run.copyBad (r : Run) (s : State) (b : NetAddr) (ls : List CopyLane) : Bool :=
  ls.any (fun c => c.converts && (!c.esOk || (c.fd == some 5 &&
    (r.scaleByte s (c.port / 32) (b.row b.base (c.port / 32)) (r.blockOf c.port).2).isNone)))

/-- The scale of a destination block: fresh when every word is written by a converting lane, else the byte it holds
(R245). -/
def Run.blockScale (r : Run) (s : State) (b : NetAddr) (ls : List CopyLane) (blk : Nat × Nat) : Nat × Bool :=
  let mine := ls.filter (fun c => r.blockOf c.port == blk)
  let words := bfWords (mapGet 0 r.f.bfmt blk.1)
  if mine.length == words && mine.all (fun c => c.converts) then
    (scaleCode false (largestLog (mine.flatMap (fun c => (upto 4).map (fun j => c.elem j)))), true)
  else (((r.scaleByte s blk.1 (b.row b.base blk.1) blk.2).getD 0).toNat, false)

/-- A lane's word after conversion, and whether it saturated. DEDUCED: notes/assumptions/20.md. -/
def CopyLane.out (c : CopyLane) (scale : Nat) : Word × Bool :=
  if c.converts then
    let f := c.fd.getD 0
    let w := fmtWidth f
    let e := fun (j : Nat) => if f = 5 then (if scale = 255 then (0, true) else encodeMx scale 0 0 (c.elem j))
      else encodeElem f false 0 0 (c.elem j)
    (elemsOf w (fun j => (e j).1), (upto (32 / w)).any (fun j => (e j).2))
  else (c.word, false)

/-- BCOPY (R244, R245). A failing address comes before an empty or wrong-kind last, and that before a failing scale address.
DESIGN CHOICE: notes/assumptions/41.md. -/
def cellBcopy (rs : Bool) (rl : BitVec 6) (ws : Bool) (wl : BitVec 6) (xd xs : BitVec 3) (r : Run) (s : State) : State :=
  let a := r.addr s xs
  let b := r.addr s xd
  let le := if rs then some Last.none else r.lastAt s rl.toNat .read
  let we := if ws then some Last.none else r.lastAt s wl.toNat .write
  if a.bad || b.bad then r.raise .bounds 3 s
  else match le, we with
  | some l, some w =>
    let lanes := r.copyLanes s a (if rs then none else some l) (if ws then none else some w)
    let ls := lanes.filterMap id
    if r.copyBad s b ls then r.raise .bounds 3 s else
    let mx := ls.filter (fun c => c.converts && c.fd == some 5)
    let blocks := (mx.map (fun c => r.blockOf c.port)).eraseDups
    let scales := blocks.map (fun k => (k, r.blockScale s b ls k))
    let scaleAt := fun (c : CopyLane) => match scales.find? (fun e => e.1 == r.blockOf c.port) with
      | some e => e.2.1
      | none => 127
    let stage := fun (j : Nat) (x : Word) => if ws then x else byteStage w j x
    let outs := lanes.zipIdx.filterMap (fun e => match e.1 with
      | some c => some (c.port, stage e.2 (c.out (scaleAt c)).1, (c.out (scaleAt c)).2)
      | none => none)
    let words : Lanes := BitVec.ofNat 32768 (outs.foldl (fun n o => n + o.2.1.toNat * 2 ^ (32 * o.1)) 0)
    let wen : Row := BitVec.ofNat 1024 (outs.foldl (fun n o => n + 2 ^ o.1) 0)
    let t := r.storeLine 9 b 0 words wen s
    let t := scales.foldl (fun t e => if e.2.2 then r.landScale 9 e.1.1 (b.row b.base e.1.1) e.1.2 e.2.1 t else t) t
    if outs.any (fun o => o.2.2) then r.land (.pois r.cell) 9 (onesMask 1) 1 t else t
  | _, _ => r.raise .illegal 6 s

/-! ### VPERM and LLAST (R246, R247) -/

def cellVperm (d a : BitVec 7) (le : BitVec 6) (r : Run) (s : State) : State :=
  match r.lastAt s le.toNat .read with
  | some l => r.landV d.toNat 4 (r.guard s) (readnet l (r.v s a.toNat)) s
  | none => r.raise .illegal 6 s

/-- A last on its way to a last-cache entry, with its task-relative number (R100, R103, R428). -/
def Run.landLast (r : Run) (entry lat num : Nat) (l : Last) (s : State) : State :=
  s.pushPend s.lay { ctx := r.f.ctx, region := r.f.region, due := s.now + lat, lag := 0, seq := r.f.seq,
                     loc := .last r.cell (((r.share s).physLast entry).getD 0), mask := 0, val := BitVec.ofNat 32768 num, last := some l,
                     lm := r.f.lm, baddr := r.f.baddr, slot := r.slot.idx }

/-- LLAST: in force from t + 32 + skew; the guard is ignored (R100, R247). -/
def cellLlast (le : BitVec 6) (n : BitVec 14) (r : Run) (s : State) : State :=
  let num := immNat r.slot.limm 14 n.toNat
  let i := ((s.ctxAt (ctxKey s.lay r.f.ctx)).lastIndex num).getD 0
  r.landLast le.toNat 32 num (mapGet Last.none s.layer.store i) s

/-! ### Neighbour words (R248) and face exchange (R249, R250) -/

def cellEsend (dm : BitVec 4) (a : BitVec 7) (lg : BitVec 5) (r : Run) (s : State) : State :=
  if r.busy s dm then r.raise .sched 6 s
  else (upto 4).foldl (fun t d =>
    if dm.getLsbD d then r.sendWords d (BitVec.allOnes 32) (lanesRow (r.v s a.toNat) lg.toNat) t else t) s

def cellErecv (d : BitVec 7) (dir : BitVec 2) (lg : BitVec 5) (r : Run) (s : State) : State :=
  let x := mapGet 0 (s.ccAt (r.key s)).edge dir.toNat
  let en := (r.guard s).extractLsb' (32 * lg.toNat) 32
  r.land (.v r.cell (((r.share s).physV d.toNat).getD 0)) 2
    (rowLanes (rowOf (fun i => if en.getLsbD i then 0xFFFFFFFF else 0)) lg.toNat) (rowLanes x lg.toNat) s

/-- HALO at e: the rows go out one a step, the first at once (R249). Rows past 255 in a direction that is busy raise BOUNDS.
DESIGN CHOICE: notes/assumptions/41.md. -/
def cellHalo (dm : BitVec 4) (xa : BitVec 3) (r : Run) (s : State) : State :=
  let w := (r.x s xa.toNat).toNat
  let srow := w % 256
  let drow := w / 256 % 256
  let cnt := w / 65536 % 64
  if 255 < srow + cnt || 255 < drow + cnt then r.raise .bounds 3 s
  else if r.busy s dm then r.raise .sched 6 s
  else
    let h := r.share s
    let banks := (upto 4).map (fun d => (h.physBank (h.nb - 4 + d)).getD 0)
    let y : Halo := { ctx := r.f.ctx, region := r.f.region, seq := r.f.seq, e := s.now, dm := dm, srow := srow,
                      drow := drow, cnt := cnt, banks := banks }
    s.updCell (cellKey s.lay r.cell) (fun c => { c with halos := c.halos ++ [y] })

/-- Row k of a HALO leaves a cell, phase 1 of step e + k: toward each direction it becomes the receive state there,
and arrives as a row of the exchange (R249). The row is the bank's own: no expansion, no TOL. DESIGN CHOICE:
notes/assumptions/45.md. -/
def haloSend (lay k : Nat) (h : Halo) (s : State) : State :=
  let e := s.cellAt (cellKey lay k)
  let now := (s.layerAt lay).step
  let i := now - h.e
  if h.e ≤ now ∧ i ≤ h.cnt then
    (upto 4).foldl (fun t d =>
      match neighbour k d with
      | some n =>
        if h.dm.getLsbD d then
          let x := e.row ((h.banks[d]?).getD 0) (h.srow + i)
          let p : Pend := { ctx := h.ctx, region := h.region, due := now + 3, lag := 0, seq := h.seq,
                            loc := .edge n (opposite d), mask := onesMask 1024, val := x.setWidth 32768, last := none, lm := 0,
                            baddr := 0, slot := 0 }
          let q : Pend := { p with loc := .edgePois n (opposite d), mask := onesMask 32, val := 0 }
          let w : Pend := { p with loc := .haloRow n (opposite d) i }
          ((t.pushPend lay p).pushPend lay q).pushPend lay w
        else t
      | none => t) s
  else s

/-- A HALO row that arrives at a cell is written by the cell's own exchange of that bundle, at its own DROW + i,
whatever its own CNT, and within the bank (R249). DESIGN CHOICE: notes/assumptions/45.md. -/
def landHalo (lay k dir i : Nat) (p : Pend) (s : State) : State :=
  match (s.cellAt (cellKey lay k)).halos.find? (fun h => h.ctx == p.ctx && h.seq == p.seq) with
  | some h =>
    s.updCell (cellKey lay k) (fun c =>
      { c with banks := mapSet 0 c.banks (256 * (h.banks[dir]?).getD 0 + (h.drow + i) % 256) (p.val.setWidth 1024) })
  | none => s

/-- VLD through a last (R240, R241). -/
def execVld (d : BitVec 7) (le : BitVec 6) (em : BitVec 4) (xa : BitVec 3) (s : State) : Res :=
  issueCell (.vld d le em xa) (cellVld d le em xa) s
/-- VLD, straight (R240, R241). -/
def execVldStraight (d : BitVec 7) (em : BitVec 4) (xa : BitVec 3) (s : State) : Res :=
  issueCell (.vldStraight d em xa) (cellVldStraight d em xa) s
/-- VLD with CONV (R242). -/
def execVldDec (d : BitVec 7) (xa : BitVec 3) (s : State) : Res := issueCell (.vldDec d xa) (cellVldDec d xa) s
/-- VST through a last (R240, R241). -/
def execVst (d : BitVec 7) (le : BitVec 6) (em : BitVec 4) (xa : BitVec 3) (s : State) : Res :=
  issueCell (.vst d le em xa) (cellVst d le em xa) s
/-- VST, straight (R240, R241). -/
def execVstStraight (d : BitVec 7) (em : BitVec 4) (xa : BitVec 3) (s : State) : Res :=
  issueCell (.vstStraight d em xa) (cellVstStraight d em xa) s
/-- VST with CONV (R242). -/
def execVstEnc (d : BitVec 7) (xa : BitVec 3) (s : State) : Res := issueCell (.vstEnc d xa) (cellVstEnc d xa) s
/-- VLDX (R240, R241). -/
def execVldx (d : BitVec 7) (xe : BitVec 5) (em : BitVec 4) (xa : BitVec 3) (s : State) : Res :=
  issueCell (.vldx d xe em xa) (cellVldx d xe em xa) s
/-- VSTX (R240, R241). -/
def execVstx (d : BitVec 7) (xe : BitVec 5) (em : BitVec 4) (xa : BitVec 3) (s : State) : Res :=
  issueCell (.vstx d xe em xa) (cellVstx d xe em xa) s
/-- BCOPY (R244, R245). -/
def execBcopy (rs : Bool) (rl : BitVec 6) (ws : Bool) (wl : BitVec 6) (xd xs : BitVec 3) (s : State) : Res :=
  issueCell (.bcopy rs rl ws wl xd xs) (cellBcopy rs rl ws wl xd xs) s
/-- VPERM (R246). -/
def execVperm (d a : BitVec 7) (le : BitVec 6) (s : State) : Res := issueCell (.vperm d a le) (cellVperm d a le) s
/-- LLAST (R247). -/
def execLlast (le : BitVec 6) (n : BitVec 14) (s : State) : Res := issueCell (.llast le n) (cellLlast le n) s
/-- ESEND (R248). -/
def execEsend (dm : BitVec 4) (a : BitVec 7) (lg : BitVec 5) (s : State) : Res :=
  issueCell (.esend dm a lg) (cellEsend dm a lg) s
/-- ERECV (R248). -/
def execErecv (d : BitVec 7) (dir : BitVec 2) (lg : BitVec 5) (s : State) : Res :=
  issueCell (.erecv d dir lg) (cellErecv d dir lg) s
/-- HALO (R249). -/
def execHalo (dm : BitVec 4) (xa : BitVec 3) (s : State) : Res := issueCell (.halo dm xa) (cellHalo dm xa) s

end Sys2Proof.Machine
end

