-- ==== Sys2Proof/Machine/Vcvt.lean ====
section
/-!
DEFINITION. Conversion and quantisation in the vector registers (R231 to R235).
-/

namespace Sys2Proof.Machine

/-- The summary bit that a slot's saturation sets with its result (R78, R219). -/
def Run.landPois (r : Run) (lat : Nat) (any : Bool) (s : State) : State :=
  if any then r.land (.pois r.cell) lat (onesMask 1) 1 s else s

/-- Element q of lane l of the group at `base`, of width w (R218). -/
def Run.group (r : Run) (s : State) (base w q l : Nat) : Nat :=
  elemAt w (lane (r.v s (base + q / (32 / w))) l) (q % (32 / w))

/-- One element's conversion (R232): integer to wide integer wraps in VCVT, and integer to float overflows by the mode in
both. -/
def convert (sat : Bool) (src dst rm u code : Nat) : Nat × Bool :=
  if isIntFmt src && isIntFmt dst && 9 ≤ dst && !sat then
    (wrapInt (fmtWidth dst) (if src = 8 ∨ src = 10 ∨ src = 12 then (code : Int) else signed (fmtWidth src) code), false)
  else encodeElem dst (sat && !(isIntFmt src && !isIntFmt dst)) rm u (decodeElem src code)

/-- VCVT and VCVTS (R231). -/
def cellCvt (sat : Bool) (f : BitVec 4) (d a : BitVec 7) (rm : BitVec 3) (c : BitVec 4) (r : Run) (s : State) : State :=
  let ws := fmtWidth c.toNat
  let wd := fmtWidth f.toNat
  let nd := 32 / wd
  let act := r.guard s
  let one := fun (q l : Nat) =>
    convert sat c.toNat f.toNat rm.toNat (if rm = 4 then philoxWord (r.philox s 0 l) (q % nd) else 0)
      (r.group s a.toNat ws q l)
  let t := (upto (cvtDstRegs f.toNat c.toNat)).foldl (fun t k =>
    r.landV (d.toNat + k) 3 act (lanesOf (fun l => elemsOf wd (fun j => (one (nd * k + j) l).1))) t) s
  let sats := isNarrow f.toNat && (upto 1024).any (fun l =>
    act.getLsbD l && (upto (32 / min ws wd)).any (fun q => (one q l).2))
  r.landPois 3 sats t

def cellVcvt (f : BitVec 4) (d a : BitVec 7) (rm : BitVec 3) (c : BitVec 4) (r : Run) (s : State) : State :=
  cellCvt false f d a rm c r s
def cellVcvts (f : BitVec 4) (d a : BitVec 7) (rm : BitVec 3) (c : BitVec 4) (r : Run) (s : State) : State :=
  cellCvt true f d a rm c r s

/-- A value as a code of a block format under a scale byte, and whether it saturated. MXINT8 codes of finite
elements that do not exceed the block's largest and round up to 128 take ±127 with no poison (R234). -/
def encodeBlock (l6 : Bool) (e rm u : Nat) (within : Bool) (x : Fp) : Nat × Bool :=
  if l6 then
    match x with
    | .nan n _ _ => ((if n then 32 else 0) + 31, true)
    | .inf n => ((if n then 32 else 0) + 31, true)
    | .fin n m q => encodeL6 e rm u n m q
  else
    let c := encodeMx e rm u x.val
    match x with
    | .fin n m q =>
      if within && c.2 && (ofDyadic n m q |> fun v => match v with
          | .real y => y.round rm u ((e : Int) - 133) == 128
          | _ => false) then (c.1, false) else c
    | _ => c

/-- VQUANT (R234). -/
def cellVquant (d a : BitVec 7) (rm : BitVec 3) (n : BitVec 4) (r : Run) (s : State) : State :=
  let l6 := n == 6
  let act := r.guard s
  let src := (upto 4).map (fun j => r.v s (a.toNat + j))
  let x := fun (l j : Nat) => fp32.fp (lane ((src[j]?).getD 0) l).toNat
  let scales := (upto 128).map (fun b => scaleCode l6 (largestLog (((upto 8).filter (fun i => act.getLsbD (8 * b + i))).flatMap
    (fun i => (upto 4).map (fun j => (x (8 * b + i) j).val)))))
  let scale := fun (b : Nat) => (scales[b]?).getD 127
  let code := fun (l j : Nat) => encodeBlock l6 (scale (l / 8)) rm.toNat
    (if rm = 4 then philoxWord (r.philox s 0 l) j else 0) true (x l j)
  let t := r.landV d.toNat 5 act (lanesOf (fun l => elemsOf 8 (fun j => (code l j).1))) s
  let any := fun (b : Nat) => (upto 8).any (fun i => act.getLsbD (8 * b + i))
  let t := r.land (.v r.cell (((r.share s).physV (d.toNat + 1)).getD 0)) 5
    (lanesOf (fun l => if l < 32 then elemsOf 8 (fun j => if any (4 * l + j) then 255 else 0) else 0))
    (lanesOf (fun l => if l < 32 then elemsOf 8 (fun j => scale (4 * l + j)) else 0)) t
  r.landPois 5 ((upto 1024).any (fun l => act.getLsbD l && (upto 4).any (fun j => (code l j).2))) t

/-- VDEQ (R235): every element of a lane uses word 0 of the lane's block under RM = 4. -/
def cellVdeq (d a : BitVec 7) (rm : BitVec 3) (n : BitVec 4) (r : Run) (s : State) : State :=
  let codes := r.v s a.toNat
  let sc := r.v s (a.toNat + 1)
  let act := r.guard s
  (upto 4).foldl (fun t j =>
    r.landV (d.toNat + j) 3 act (lanesOf (fun l =>
      let e := elemAt 8 (lane sc (l / 32)) (l / 8 % 4)
      let c := elemAt 8 (lane codes l) j
      let u := if rm = 4 then philoxWord (r.philox s 0 l) 0 else 0
      BitVec.ofNat 32 (fp32.roundWide false rm.toNat u (if n == 6 then decodeL6 e (c % 64) else decodeMx e c)))) t) s

/-- VCVT (R231, R232). -/
def execVcvt (f : BitVec 4) (d a : BitVec 7) (rm : BitVec 3) (c : BitVec 4) (s : State) : Res :=
  issueCell (.vcvt f d a rm c) (cellVcvt f d a rm c) s
/-- VCVTS (R231, R232). -/
def execVcvts (f : BitVec 4) (d a : BitVec 7) (rm : BitVec 3) (c : BitVec 4) (s : State) : Res :=
  issueCell (.vcvts f d a rm c) (cellVcvts f d a rm c) s
/-- VQUANT (R233, R234). -/
def execVquant (d a : BitVec 7) (rm : BitVec 3) (n : BitVec 4) (s : State) : Res :=
  issueCell (.vquant d a rm n) (cellVquant d a rm n) s
/-- VDEQ (R233, R235). -/
def execVdeq (d a : BitVec 7) (rm : BitVec 3) (n : BitVec 4) (s : State) : Res :=
  issueCell (.vdeq d a rm n) (cellVdeq d a rm n) s

end Sys2Proof.Machine
end

