-- ==== Sys2Proof/Machine/Vflt.lean ====
section
/-!
DEFINITION. Floating-point lanes (R228 to R230).
-/

namespace Sys2Proof.Machine

/-- The element format of BCTL.FW (R139). -/
def Bctl.floatFmt (b : Bctl) : FloatFmt := match b.fw with | 0 => fp32 | 1 => bf16 | _ => fp16

/-- land(vd[l].elem[j], n, g) in the active lanes; `g` is given the element's draw and the codes of vd, va, vb. -/
def cellF (lat : Nat) (g : FloatFmt → Nat → Nat → Nat → Nat → Nat) (d a b : BitVec 7) (r : Run) (s : State) : State :=
  let vd := r.v s d.toNat
  let va := r.v s a.toNat
  let vb := r.v s b.toNat
  let f := r.f.bctl.floatFmt
  let w := f.width
  r.landV d.toNat lat (r.guard s) (lanesOf (fun l => elemsOf w (fun j =>
    g f (if r.f.rm = 4 then philoxWord (r.philox s 0 l) j else 0) (elemAt w (lane vd l) j) (elemAt w (lane va l) j)
      (elemAt w (lane vb l) j)))) s

/-- A rounded result of two or three operands (R228): `h` is given the mode, vd, va and vb. -/
def cellFr (lat : Nat) (h : Nat → Fp → Fp → Fp → Val) (d a b : BitVec 7) (r : Run) (s : State) : State :=
  cellF lat (fun f u c x y => f.roundWide false r.f.rm.toNat u (h r.f.rm.toNat (f.fp c) (f.fp x) (f.fp y))) d a b r s

/-- A compare (R229). -/
def cellFcmp (h : Fp → Fp → Bool) (d a b : BitVec 7) (r : Run) (s : State) : State :=
  let va := r.v s a.toNat
  let vb := r.v s b.toNat
  let f := r.f.bctl.floatFmt
  let w := f.width
  r.landP (d.toNat - 96) 2 (r.guard s) (bitsOf (fun l => (upto (32 / w)).all (fun j =>
    h (f.fp (elemAt w (lane va l) j)) (f.fp (elemAt w (lane vb l) j))))) s

def cellVfadd (d a b : BitVec 7) (r : Run) (s : State) : State := cellFr 4 (fun m _ x y => (Fp.add m x y).val) d a b r s
def cellVfsub (d a b : BitVec 7) (r : Run) (s : State) : State := cellFr 4 (fun m _ x y => (Fp.sub m x y).val) d a b r s
def cellVfmul (d a b : BitVec 7) (r : Run) (s : State) : State := cellFr 4 (fun _ _ x y => (Fp.mul x y).val) d a b r s
def cellVfma (d a b : BitVec 7) (r : Run) (s : State) : State := cellFr 4 (fun m c x y => (Fp.fma m x y c).val) d a b r s
def cellVfnma (d a b : BitVec 7) (r : Run) (s : State) : State := cellFr 4 (fun m c x y => (Fp.fnma m x y c).val) d a b r s
/-- Minimum and maximum do not round: the result is one operand's code, a NaN quieted (R228). -/
def cellVfmin (d a b : BitVec 7) (r : Run) (s : State) : State :=
  cellF 2 (fun f _ _ x y => f.roundWide false 0 0 (Fp.least (f.fp x) (f.fp y)).val) d a b r s
def cellVfmax (d a b : BitVec 7) (r : Run) (s : State) : State :=
  cellF 2 (fun f _ _ x y => f.roundWide false 0 0 (Fp.most (f.fp x) (f.fp y)).val) d a b r s
/-- VFABS and VFNEG act on the sign bit alone (R228). -/
def cellVfabs (d a : BitVec 7) (r : Run) (s : State) : State :=
  cellF 2 (fun f _ _ x _ => x % 2 ^ (f.width - 1)) d a a r s
def cellVfneg (d a : BitVec 7) (r : Run) (s : State) : State :=
  cellF 2 (fun f _ _ x _ => x ^^^ 2 ^ (f.width - 1)) d a a r s
def cellVfcmpeq (d a b : BitVec 7) (r : Run) (s : State) : State := cellFcmp Fp.eq d a b r s
def cellVfcmplt (d a b : BitVec 7) (r : Run) (s : State) : State := cellFcmp Fp.lt d a b r s
def cellVfcmple (d a b : BitVec 7) (r : Run) (s : State) : State := cellFcmp Fp.le d a b r s
def cellVfrcp (d a : BitVec 7) (r : Run) (s : State) : State := cellFr 6 (fun _ _ x _ => x.rcp) d a a r s
def cellVfrsq (d a : BitVec 7) (r : Run) (s : State) : State := cellFr 6 (fun _ _ x _ => x.rsq) d a a r s
def cellVfexp2 (d a : BitVec 7) (r : Run) (s : State) : State := cellFr 6 (fun _ _ x _ => x.exp2) d a a r s
def cellVflog2 (d a : BitVec 7) (r : Run) (s : State) : State := cellFr 6 (fun _ _ x _ => x.log2) d a a r s
def cellVfsqrt (d a : BitVec 7) (r : Run) (s : State) : State := cellFr 6 (fun _ _ x _ => x.sqrt) d a a r s

/-- VFADD (R228). -/
def execVfadd (d a b : BitVec 7) (s : State) : Res := issueCell (.vfadd d a b) (cellVfadd d a b) s
/-- VFSUB (R228). -/
def execVfsub (d a b : BitVec 7) (s : State) : Res := issueCell (.vfsub d a b) (cellVfsub d a b) s
/-- VFMUL (R228). -/
def execVfmul (d a b : BitVec 7) (s : State) : Res := issueCell (.vfmul d a b) (cellVfmul d a b) s
/-- VFMA (R228). -/
def execVfma (d a b : BitVec 7) (s : State) : Res := issueCell (.vfma d a b) (cellVfma d a b) s
/-- VFNMA (R228). -/
def execVfnma (d a b : BitVec 7) (s : State) : Res := issueCell (.vfnma d a b) (cellVfnma d a b) s
/-- VFMIN (R228). -/
def execVfmin (d a b : BitVec 7) (s : State) : Res := issueCell (.vfmin d a b) (cellVfmin d a b) s
/-- VFMAX (R228). -/
def execVfmax (d a b : BitVec 7) (s : State) : Res := issueCell (.vfmax d a b) (cellVfmax d a b) s
/-- VFABS (R228). -/
def execVfabs (d a : BitVec 7) (s : State) : Res := issueCell (.vfabs d a) (cellVfabs d a) s
/-- VFNEG (R228). -/
def execVfneg (d a : BitVec 7) (s : State) : Res := issueCell (.vfneg d a) (cellVfneg d a) s
/-- VFCMPEQ (R229). -/
def execVfcmpeq (d a b : BitVec 7) (s : State) : Res := issueCell (.vfcmpeq d a b) (cellVfcmpeq d a b) s
/-- VFCMPLT (R229). -/
def execVfcmplt (d a b : BitVec 7) (s : State) : Res := issueCell (.vfcmplt d a b) (cellVfcmplt d a b) s
/-- VFCMPLE (R229). -/
def execVfcmple (d a b : BitVec 7) (s : State) : Res := issueCell (.vfcmple d a b) (cellVfcmple d a b) s
/-- VFRCP (R230). -/
def execVfrcp (d a : BitVec 7) (s : State) : Res := issueCell (.vfrcp d a) (cellVfrcp d a) s
/-- VFRSQ (R230). -/
def execVfrsq (d a : BitVec 7) (s : State) : Res := issueCell (.vfrsq d a) (cellVfrsq d a) s
/-- VFEXP2 (R230). -/
def execVfexp2 (d a : BitVec 7) (s : State) : Res := issueCell (.vfexp2 d a) (cellVfexp2 d a) s
/-- VFLOG2 (R230). -/
def execVflog2 (d a : BitVec 7) (s : State) : Res := issueCell (.vflog2 d a) (cellVflog2 d a) s
/-- VFSQRT (R230). -/
def execVfsqrt (d a : BitVec 7) (s : State) : Res := issueCell (.vfsqrt d a) (cellVfsqrt d a) s

end Sys2Proof.Machine
end

