-- ==== Sys2Proof/Machine/Vint.lean ====
section
/-!
DEFINITION. Integer lanes and random numbers (R221 to R227), and the predicate slots (R236).
-/

namespace Sys2Proof.Machine

/-- A lane word from an operation on the elements of two lane words (R218). -/
def zipElems (w : Nat) (f : Nat → Nat → Nat) (a b : Word) : Word := elemsOf w (fun j => f (elemAt w a j) (elemAt w b j))

/-- Every element of the lane satisfies the relation. -/
def allElems (w : Nat) (f : Nat → Nat → Bool) (a b : Word) : Bool :=
  (upto (32 / w)).all (fun j => f (elemAt w a j) (elemAt w b j))

/-- The value of an element under BCTL.IS: signed when IS = 0 (R139, R221). -/
def intVal (b : Bctl) (x : Nat) : Int := if b.is then (x : Int) else signed b.intWidth x

/-- The exact result held to the range of the element type (R83). -/
def clampInt (b : Bctl) (x : Int) : Nat :=
  let w := b.intWidth
  if b.is then (if x < 0 then 0 else if 2 ^ w - 1 < x then 2 ^ w - 1 else x.toNat)
  else wrapInt w (if x < -(2 ^ (w - 1)) then -(2 ^ (w - 1)) else if 2 ^ (w - 1) - 1 < x then 2 ^ (w - 1) - 1 else x)

/-- land(vd[l].elem[j], 2, f(a, b)) in the active lanes (R221). -/
def cellV3 (f : Bctl → Nat → Nat → Nat) (d a b : BitVec 7) (r : Run) (s : State) : State :=
  let va := r.v s a.toNat
  let vb := r.v s b.toNat
  let bc := r.f.bctl
  r.landV d.toNat 2 (r.guard s) (lanesOf (fun l => zipElems bc.intWidth (f bc) (lane va l) (lane vb l))) s

/-- A compare: bit l of pd is 1 when the relation holds in every element of lane l (R222). -/
def cellVcmp (f : Bctl → Nat → Nat → Bool) (d a b : BitVec 7) (r : Run) (s : State) : State :=
  let va := r.v s a.toNat
  let vb := r.v s b.toNat
  let bc := r.f.bctl
  r.landP (d.toNat - 96) 2 (r.guard s) (bitsOf (fun l => allElems bc.intWidth (f bc) (lane va l) (lane vb l))) s

def iAdd (c : Bctl) (a b : Nat) : Nat := wrapInt c.intWidth (a + b : Int)
def iSub (c : Bctl) (a b : Nat) : Nat := wrapInt c.intWidth ((a : Int) - b)
def iAdds (c : Bctl) (a b : Nat) : Nat := clampInt c (intVal c a + intVal c b)
def iSubs (c : Bctl) (a b : Nat) : Nat := clampInt c (intVal c a - intVal c b)
def iMul (c : Bctl) (a b : Nat) : Nat := a * b % 2 ^ c.intWidth
def iMulh (c : Bctl) (a b : Nat) : Nat := wrapInt c.intWidth ((intVal c a * intVal c b) / 2 ^ c.intWidth)
def iMin (c : Bctl) (a b : Nat) : Nat := if intVal c b < intVal c a then b else a
def iMax (c : Bctl) (a b : Nat) : Nat := if intVal c a < intVal c b then b else a
def iAnd (_ : Bctl) (a b : Nat) : Nat := a &&& b
def iIor (_ : Bctl) (a b : Nat) : Nat := a ||| b
def iEor (_ : Bctl) (a b : Nat) : Nat := a ^^^ b
def iShl (c : Bctl) (a b : Nat) : Nat := a * 2 ^ (b % c.intWidth) % 2 ^ c.intWidth
/-- Arithmetic when IS = 0, logical when IS = 1. -/
def iShr (c : Bctl) (a b : Nat) : Nat := wrapInt c.intWidth (intVal c a / 2 ^ (b % c.intWidth))
def iAbs (c : Bctl) (a _ : Nat) : Nat := if c.is then a else wrapInt c.intWidth (intVal c a).natAbs

def cellVadd (d a b : BitVec 7) (r : Run) (s : State) : State := cellV3 iAdd d a b r s
def cellVsub (d a b : BitVec 7) (r : Run) (s : State) : State := cellV3 iSub d a b r s
def cellVadds (d a b : BitVec 7) (r : Run) (s : State) : State := cellV3 iAdds d a b r s
def cellVsubs (d a b : BitVec 7) (r : Run) (s : State) : State := cellV3 iSubs d a b r s
def cellVmul (d a b : BitVec 7) (r : Run) (s : State) : State := cellV3 iMul d a b r s
def cellVmulh (d a b : BitVec 7) (r : Run) (s : State) : State := cellV3 iMulh d a b r s
def cellVmin (d a b : BitVec 7) (r : Run) (s : State) : State := cellV3 iMin d a b r s
def cellVmax (d a b : BitVec 7) (r : Run) (s : State) : State := cellV3 iMax d a b r s
def cellVand (d a b : BitVec 7) (r : Run) (s : State) : State := cellV3 iAnd d a b r s
def cellVior (d a b : BitVec 7) (r : Run) (s : State) : State := cellV3 iIor d a b r s
def cellVeor (d a b : BitVec 7) (r : Run) (s : State) : State := cellV3 iEor d a b r s
def cellVshl (d a b : BitVec 7) (r : Run) (s : State) : State := cellV3 iShl d a b r s
def cellVshr (d a b : BitVec 7) (r : Run) (s : State) : State := cellV3 iShr d a b r s
def cellVabs (d a : BitVec 7) (r : Run) (s : State) : State := cellV3 iAbs d a a r s
def cellVcmpeq (d a b : BitVec 7) (r : Run) (s : State) : State := cellVcmp (fun _ x y => x == y) d a b r s
def cellVcmplt (d a b : BitVec 7) (r : Run) (s : State) : State :=
  cellVcmp (fun c x y => decide (intVal c x < intVal c y)) d a b r s

/-- VSEL: active lanes whose bit of pc is 1 take va (R223). -/
def cellVsel (d p a : BitVec 7) (r : Run) (s : State) : State :=
  r.landV d.toNat 2 (r.guard s &&& r.pc s p) (r.v s a.toNat) s

/-- VRNG: register vd + j takes word j of the lane's block (R227). -/
def cellVrng (d : BitVec 7) (g : BitVec 2) (c : BitVec 7) (r : Run) (s : State) : State :=
  let c3 := (r.src s c).toNat
  let act := r.guard s
  (upto (g.toNat + 1)).foldl (fun t j =>
    r.landV (d.toNat + j) 6 act (lanesOf (fun l => BitVec.ofNat 32 (philoxWord (r.philox s c3 l) j))) t) s

/-- A predicate result: all 1024 bits, the guard ignored (R236). -/
def cellP (d : BitVec 7) (v : Row) (r : Run) (s : State) : State :=
  r.landP (d.toNat - 96) 1 (BitVec.allOnes 1024) v s

def cellPand (d a b : BitVec 7) (r : Run) (s : State) : State := cellP d (r.pc s a &&& r.pc s b) r s
def cellPior (d a b : BitVec 7) (r : Run) (s : State) : State := cellP d (r.pc s a ||| r.pc s b) r s
def cellPeor (d a b : BitVec 7) (r : Run) (s : State) : State := cellP d (r.pc s a ^^^ r.pc s b) r s
def cellPandn (d a b : BitVec 7) (r : Run) (s : State) : State := cellP d (r.pc s a &&& ~~~ r.pc s b) r s
def cellPnot (d a : BitVec 7) (r : Run) (s : State) : State := cellP d (~~~ r.pc s a) r s
def cellPall (d : BitVec 7) (r : Run) (s : State) : State := cellP d (BitVec.allOnes 1024) r s
def cellPnone (d : BitVec 7) (r : Run) (s : State) : State := cellP d 0 r s

/-- VADD (R221). -/
def execVadd (d a b : BitVec 7) (s : State) : Res := issueCell (.vadd d a b) (cellVadd d a b) s
/-- VSUB (R221). -/
def execVsub (d a b : BitVec 7) (s : State) : Res := issueCell (.vsub d a b) (cellVsub d a b) s
/-- VADDS (R221). -/
def execVadds (d a b : BitVec 7) (s : State) : Res := issueCell (.vadds d a b) (cellVadds d a b) s
/-- VSUBS (R221). -/
def execVsubs (d a b : BitVec 7) (s : State) : Res := issueCell (.vsubs d a b) (cellVsubs d a b) s
/-- VMUL (R221). -/
def execVmul (d a b : BitVec 7) (s : State) : Res := issueCell (.vmul d a b) (cellVmul d a b) s
/-- VMULH (R221). -/
def execVmulh (d a b : BitVec 7) (s : State) : Res := issueCell (.vmulh d a b) (cellVmulh d a b) s
/-- VMIN (R221). -/
def execVmin (d a b : BitVec 7) (s : State) : Res := issueCell (.vmin d a b) (cellVmin d a b) s
/-- VMAX (R221). -/
def execVmax (d a b : BitVec 7) (s : State) : Res := issueCell (.vmax d a b) (cellVmax d a b) s
/-- VAND (R221). -/
def execVand (d a b : BitVec 7) (s : State) : Res := issueCell (.vand d a b) (cellVand d a b) s
/-- VIOR (R221). -/
def execVior (d a b : BitVec 7) (s : State) : Res := issueCell (.vior d a b) (cellVior d a b) s
/-- VEOR (R221). -/
def execVeor (d a b : BitVec 7) (s : State) : Res := issueCell (.veor d a b) (cellVeor d a b) s
/-- VSHL (R221). -/
def execVshl (d a b : BitVec 7) (s : State) : Res := issueCell (.vshl d a b) (cellVshl d a b) s
/-- VSHR (R221). -/
def execVshr (d a b : BitVec 7) (s : State) : Res := issueCell (.vshr d a b) (cellVshr d a b) s
/-- VCMPEQ (R222). -/
def execVcmpeq (d a b : BitVec 7) (s : State) : Res := issueCell (.vcmpeq d a b) (cellVcmpeq d a b) s
/-- VCMPLT (R222). -/
def execVcmplt (d a b : BitVec 7) (s : State) : Res := issueCell (.vcmplt d a b) (cellVcmplt d a b) s
/-- PAND (R236). -/
def execPand (d a b : BitVec 7) (s : State) : Res := issueCell (.pand d a b) (cellPand d a b) s
/-- PIOR (R236). -/
def execPior (d a b : BitVec 7) (s : State) : Res := issueCell (.pior d a b) (cellPior d a b) s
/-- PEOR (R236). -/
def execPeor (d a b : BitVec 7) (s : State) : Res := issueCell (.peor d a b) (cellPeor d a b) s
/-- PANDN (R236). -/
def execPandn (d a b : BitVec 7) (s : State) : Res := issueCell (.pandn d a b) (cellPandn d a b) s
/-- VABS (R221). -/
def execVabs (d a : BitVec 7) (s : State) : Res := issueCell (.vabs d a) (cellVabs d a) s
/-- VSEL (R223). -/
def execVsel (d p a : BitVec 7) (s : State) : Res := issueCell (.vsel d p a) (cellVsel d p a) s
/-- VRNG (R227). -/
def execVrng (d : BitVec 7) (g : BitVec 2) (c : BitVec 7) (s : State) : Res :=
  issueCell (.vrng d g c) (cellVrng d g c) s
/-- PNOT (R236). -/
def execPnot (d a : BitVec 7) (s : State) : Res := issueCell (.pnot d a) (cellPnot d a) s
/-- PALL (R236). -/
def execPall (d : BitVec 7) (s : State) : Res := issueCell (.pall d) (cellPall d) s
/-- PNONE (R236). -/
def execPnone (d : BitVec 7) (s : State) : Res := issueCell (.pnone d) (cellPnone d) s

end Sys2Proof.Machine
end

