-- ==== Sys2Proof/Machine/Copy.lean ====
section
/-!
DEFINITION. Copy, atomic and stack slots: what the sequencer does at t and each enabled cell at e (R281 to R300).
-/

namespace Sys2Proof.Machine

/-! ### Copies -/

/-- The rows of a copy: for line i and bank k, the bank row and the object's byte offset (R282). -/
def copyRows (nb lines : Nat) (a : NetAddr) (m : Nat) : List (Nat × Nat × Nat) :=
  (upto lines).flatMap (fun i => (upto nb).map (fun k => (k, a.row (a.base + i) k, m + 128 * nb * i + 128 * k)))

/-- The cell's checks (R282), then `f` on each row. -/
def copyCell (xa : BitVec 3) (xm : BitVec 5) (ln : BitVec 2) (f : Nat → Nat → Nat → State → State) (r : Run) (s : State) :
    State :=
  let nb := (r.share s).nb
  let lines := 2 ^ ln.toNat
  let a := netAddr (r.x s xa.toNat)
  let m := capBase r.slot.cap + (r.x s xm.toNat).toNat
  if m % 128 != 0 || capLimit r.slot.cap < m + 128 * nb * lines || 255 < a.base + lines - 1 + 31 then
    r.raise .bounds 3 s m (capObj r.slot.cap).toNat
  else (copyRows nb lines a m).foldl (fun t w => f w.1 w.2.1 w.2.2 t) s

/-- A row request of a load, sent at e (R285). -/
def sendLoad (due : Option Nat) (ctr : Option Nat) (r : Run) (k row off : Nat) (s : State) : State :=
  pushReq { newReq s r.f.ctx r.cell r.f.region r.slot.eff (.load (((r.share s).physBank k).getD 0) row due r.f.ldm) .port
    r.slot.cap off ctr 0 with baddr := r.f.baddr, slot := r.slot.idx } s

/-- A row of a store: read in phase 1 at e, waiting in the copy port for its release (R287). -/
def holdStore (nt : Bool) (ctr : Option Nat) (r : Run) (k row off : Nat) (s : State) : State :=
  pushReq { newReq s r.f.ctx r.cell r.f.region r.slot.eff (.store nt) .held r.slot.cap off ctr
    ((r.cellOf s).row (((r.share s).physBank k).getD 0) row) with baddr := r.f.baddr, slot := r.slot.idx } s

def cellTld (_g : BitVec 4) (xa : BitVec 3) (xm : BitVec 5) (ln : BitVec 2) (lat : BitVec 7) (r : Run) (s : State) : State :=
  copyCell xa xm ln (sendLoad (some (s.now + immNat r.slot.limm 7 lat.toNat)) none r) r s
def cellTst (_g : BitVec 4) (xa : BitVec 3) (xm : BitVec 5) (ln : BitVec 2) (r : Run) (s : State) : State :=
  copyCell xa xm ln (holdStore false none r) r s
/-- ALD at e. Rows that a freeze on the counter has had sent ahead are not sent again (R361; notes/assumptions/39.md). -/
def cellAld (_g : BitVec 4) (xa : BitVec 3) (xm : BitVec 5) (ln : BitVec 2) (n : BitVec 5) (r : Run) (s : State) : State :=
  copyCell xa xm ln (if r.slot.ahead then fun _ _ _ s => s else sendLoad none (some n.toNat) r) r s
def cellAst (_g : BitVec 4) (xa : BitVec 3) (xm : BitVec 5) (ln : BitVec 2) (n : BitVec 5) (r : Run) (s : State) : State :=
  copyCell xa xm ln (holdStore false (some n.toNat) r) r s
def cellNtst (_g : BitVec 4) (xa : BitVec 3) (xm : BitVec 5) (ln : BitVec 2) (r : Run) (s : State) : State :=
  copyCell xa xm ln (holdStore true none r) r s

/-- The first step at which every enabled cell has executed a slot issued now (R30, R31). -/
def lastExec (s : State) : Nat :=
  (upto 64).foldl (fun a k => if cellOn s.me.cmask k then Nat.max a (s.now + skew k) else a) s.now

/-- A counter that falls when every row or value of the slot has landed (R284, R295). -/
def addOut (eff n : Nat) (s : State) : State :=
  s.updMe (fun c => { c with outs := c.outs ++ [{ eff := eff, n := n, after := lastExec s, region := c.regionId }] })

/-- TLD (R281 to R286). -/
def execTld (g : BitVec 4) (xa : BitVec 3) (xm : BitVec 5) (ln : BitVec 2) (lat : BitVec 7) (s : State) : Res :=
  issueCell (.tld g xa xm ln lat) (cellTld g xa xm ln lat) s
/-- TST (R281, R287). -/
def execTst (g : BitVec 4) (xa : BitVec 3) (xm : BitVec 5) (ln : BitVec 2) (s : State) : Res :=
  issueBoth (.tst g xa xm ln) (fun eff => weltAt eff (.copyStore false none)) (cellTst g xa xm ln) s
/-- ALD (R281, R284). -/
def execAld (g : BitVec 4) (xa : BitVec 3) (xm : BitVec 5) (ln : BitVec 2) (n : BitVec 5) (s : State) : Res :=
  issueBoth (.ald g xa xm ln n) (fun eff s => addOut eff n.toNat (ctrAdd n.toNat s)) (cellAld g xa xm ln n) s
/-- AST (R281, R284, R287). -/
def execAst (g : BitVec 4) (xa : BitVec 3) (xm : BitVec 5) (ln : BitVec 2) (n : BitVec 5) (s : State) : Res :=
  issueBoth (.ast g xa xm ln n) (fun eff s => weltAt eff (.copyStore false (some n.toNat)) (ctrAdd n.toNat s))
    (cellAst g xa xm ln n) s
/-- NTST (R281, R287, R129). -/
def execNtst (g : BitVec 4) (xa : BitVec 3) (xm : BitVec 5) (ln : BitVec 2) (s : State) : Res :=
  issueBoth (.ntst g xa xm ln) (fun eff => weltAt eff (.copyStore true none)) (cellNtst g xa xm ln) s
/-- DRAIN (R289). -/
def execDrain (n : BitVec 5) (s : State) : Res :=
  issue (.drain n) s (fun s => welt (.drain n.toNat) (ctrAdd n.toNat s))

/-! ### Atomics (R293, R294) -/

/-- An atomic at e: the addresses of the active lanes, their checks, and the captured operands. The request waits for
the commit. -/
def atomicCell (op ty : Nat) (cas returns : Bool) (ctr : Option Nat) (xm : BitVec 3) (d : BitVec 7) (r : Run)
    (s : State) : State :=
  let act := r.guard s
  let x := capBase r.slot.cap + (r.x s xm.toNat).toNat
  let idx := r.v s d.toNat
  let v1 := r.v s (d.toNat + 1)
  let v2 := if cas then r.v s (d.toNat + 2) else 0
  let ls := (upto 1024).filter (fun l => act.getLsbD l)
  let lanes := ls.map (fun l => (l, x + 4 * (lane idx l).toNat, lane v1 l, lane v2 l))
  if x % 4 != 0 || lanes.any (fun e => capLimit r.slot.cap < e.2.1 + 4) then
    r.raise .bounds 3 s x (capObj r.slot.cap).toNat
  else if lanes.isEmpty then s
  else pushReq { newReq s r.f.ctx r.cell r.f.region r.slot.eff
    (.atomic op ty cas returns (((r.share s).physV d.toNat).getD 0) lanes []) .held r.slot.cap x ctr 0 with
      baddr := r.f.baddr, slot := r.slot.idx } s

def cellAmo (_g : BitVec 4) (xm : BitVec 3) (d : BitVec 7) (op : BitVec 3) (ty n : BitVec 2) (r : Run) (s : State) : State :=
  atomicCell op.toNat ty.toNat false true (some n.toNat) xm d r s
def cellCas (_g : BitVec 4) (xm : BitVec 3) (d : BitVec 7) (n : BitVec 2) (r : Run) (s : State) : State :=
  atomicCell 0 0 true true (some n.toNat) xm d r s
def cellRed (_g : BitVec 4) (xm : BitVec 3) (d : BitVec 7) (op : BitVec 3) (ty : BitVec 2) (r : Run) (s : State) : State :=
  atomicCell op.toNat ty.toNat false false none xm d r s

/-- AMO (R293, R294). -/
def execAmo (g : BitVec 4) (xm : BitVec 3) (d : BitVec 7) (op : BitVec 3) (ty n : BitVec 2) (s : State) : Res :=
  issueBoth (.amo g xm d op ty n)
    (fun eff s => addOut eff n.toNat (weltAt eff (.atomic (some n.toNat)) (ctrAdd n.toNat s))) (cellAmo g xm d op ty n) s
/-- CAS (R293, R294). -/
def execCas (g : BitVec 4) (xm : BitVec 3) (d : BitVec 7) (n : BitVec 2) (s : State) : Res :=
  issueBoth (.cas g xm d n)
    (fun eff s => addOut eff n.toNat (weltAt eff (.atomic (some n.toNat)) (ctrAdd n.toNat s))) (cellCas g xm d n) s
/-- RED (R293, R294). -/
def execRed (g : BitVec 4) (xm : BitVec 3) (d : BitVec 7) (op : BitVec 3) (ty : BitVec 2) (s : State) : Res :=
  issueBoth (.red g xm d op ty) (fun eff => weltAt eff (.atomic none)) (cellRed g xm d op ty) s

/-- What one lane's atomic leaves in the word (R294): the memory operand first. -/
def atomicWord (op ty : Nat) (cas : Bool) (old v w : Word) : Word :=
  if cas then (if old = v then w else old)
  else match op with
    | 0 => addTy ty old v
    | 1 => minTy ty old v
    | 2 => maxTy ty old v
    | 3 => old &&& v
    | 4 => old ||| v
    | 5 => old ^^^ v
    | _ => v

/-! ### Stack slots (R297 to R300) -/

/-- The offset lies outside the stack window, or off a 32-byte boundary (R297, R300). -/
def stackBad (r : Run) (o n : Nat) : Bool := o % 32 != 0 || o < 32 * r.f.swlo.toNat || 32 * r.f.swhi.toNat < o + 128 * n

/-- SBST in a cell: the beats of the covered lanes, in ascending order (R298). -/
def cellSbst (v : BitVec 7) (lg : BitVec 5) (cnt xo : BitVec 3) (r : Run) (s : State) : State :=
  let o := (r.x s xo.toNat).toNat
  let n := cnt.toNat + 1
  if stackBad r o n then r.raise .bounds 4 s o
  else
    let act := r.guard s
    let x := r.v s v.toNat
    let beats := (upto (4 * n)).map (fun j =>
      ({ ctx := r.f.ctx, region := r.f.region, eff := r.slot.eff, cell := r.cell, off := o + 32 * j,
         be := BitVec.ofNat 32 ((upto 8).foldl (fun a i =>
           if act.getLsbD (32 * lg.toNat + 8 * j + i) then a + 15 * 2 ^ (4 * i) else a) 0),
         data := x.extractLsb' (32 * (32 * lg.toNat + 8 * j)) 256, ready := none, seq := r.slot.eff } : Beat))
    s.updLayer s.lay (fun l => { l with beats := l.beats ++ beats })

/-- A word of a cell's mirror (R111). -/
def Cell.mirrorWord (e : Cell) (o : Nat) : Word :=
  BitVec.ofNat 32 (ofLe ((upto 4).map (fun i => mapGet (0 : Byte) e.mirror (o + i))))

/-- SBLD in a cell: the mirror in the tower cycle of e, at t+4 (R299). -/
def cellSbld (v : BitVec 7) (lg : BitVec 5) (cnt xo : BitVec 3) (r : Run) (s : State) : State :=
  let o := (r.x s xo.toNat).toNat
  let n := cnt.toNat + 1
  if stackBad r o n then r.raise .bounds 4 s o
  else
    let act := r.guard s
    let base := 32 * lg.toNat
    let here := fun (l : Nat) => decide (base ≤ l ∧ l < base + 32 * n)
    r.landV v.toNat 4 (bitsOf (fun l => act.getLsbD l && here l))
      (lanesOf (fun l => if here l then (r.cellOf s).mirrorWord (o + 4 * (l - base)) else 0)) s

/-- SBST (R297, R298). -/
def execSbst (v : BitVec 7) (lg : BitVec 5) (cnt xo : BitVec 3) (s : State) : Res :=
  issueBoth (.sbst v lg cnt xo) (fun eff => weltAt eff .stackStore) (cellSbst v lg cnt xo) s
/-- SBLD (R297, R299). -/
def execSbld (v : BitVec 7) (lg : BitVec 5) (cnt xo : BitVec 3) (s : State) : Res :=
  issueCell (.sbld v lg cnt xo) (cellSbld v lg cnt xo) s

end Sys2Proof.Machine
end

