-- ==== Sys2Proof/Machine/Flags.lean ====
section
/-!
DEFINITION. The operations of the scalar ALU (R156 to R158), the conditions of BCMP (R163), and how a flag takes an
update (R187, R194). The machine has no arithmetic status flags: k0–k7 are written by compares and votes alone.
-/

namespace Sys2Proof.Machine

/-- Division toward zero of signed values, with the results of R83 and R157 for a zero divisor. -/
def divS (a b : DWord) : DWord := if b = 0 then BitVec.allOnes 64 else BitVec.sdiv a b
def divU (a b : DWord) : DWord := if b = 0 then BitVec.allOnes 64 else BitVec.udiv a b
def remS (a b : DWord) : DWord := if b = 0 then a else a - b * BitVec.sdiv a b
def remU (a b : DWord) : DWord := if b = 0 then a else a - b * BitVec.udiv a b
/-- High halves of the 128-bit product. -/
def mulHS (a b : DWord) : DWord := BitVec.ofInt 64 ((a.toInt * b.toInt) / 2 ^ 64)
def mulHU (a b : DWord) : DWord := BitVec.ofNat 64 ((a.toNat * b.toNat) / 2 ^ 64)
def minS (a b : DWord) : DWord := if b.slt a then b else a
def maxS (a b : DWord) : DWord := if a.slt b then b else a
def minU (a b : DWord) : DWord := if b.ult a then b else a
def maxU (a b : DWord) : DWord := if a.ult b then b else a
/-- Shifts by b mod 64. -/
def shlD (a b : DWord) : DWord := a <<< (b.toNat % 64)
def shrD (a b : DWord) : DWord := a >>> (b.toNat % 64)
def sarD (a b : DWord) : DWord := BitVec.sshiftRight a (b.toNat % 64)
def oneIf (b : Bool) : DWord := if b then 1 else 0

/-- The conditions of BCMP and BCMPI (R163). -/
def branchCond (c : BitVec 4) (a b : DWord) : Bool :=
  match c with
  | 0 => a == b
  | 1 => a != b
  | 2 => a.slt b
  | 3 => !a.slt b
  | 4 => a.ult b
  | 5 => !a.ult b
  | 6 => a &&& b != 0
  | _ => a &&& b == 0

/-- FLADD and FLSET at a flag's home (R194): V and P. -/
def flagApply (set : Bool) (v : DWord) (old : DWord) : DWord :=
  let nv : BitVec 63 := if set then flagV old ||| v.extractLsb' 0 63 else flagV old + v.extractLsb' 0 63
  (BitVec.ofBool (flagP old || v.getLsbD 63)) ++ nv

end Sys2Proof.Machine
end

