-- ==== Sys2Proof/Machine/Sync.lean ====
section
/-!
DEFINITION. Flags, waits and fences (R187 to R197).
-/

namespace Sys2Proof.Machine

/-- The domain freezes before the bundle, on a wait of the issuing context (R35, R195, R196, R201). -/
def freezeHere (w : Wait) (s : State) : State :=
  let s := s.updLayer s.lay (Layer.hold (s.cycleOf s.lay) s.ctx w)
  let s := s.updMe (fun c => { c with task := .frozen, wait := w, waited := if c.wait = w then c.waited else 0,
                                      waitAddr := s.latch.baddr, waitSlot := s.latch.slot })
  { s with latch := .empty }

/-- A wait at issue: passes, freezes the domain, or traps (R195, R196, R201). -/
def waitHere (i : Instr) (k : State → State) (s : State) : State :=
  match slotWait i s with
  | .pass => k s
  | .freeze w => freezeHere w s
  | .trap t => trapHere t s

/-- FLADD (R194). -/
def execFladd (scope : BitVec 3) (g : BitVec 4) (a b : BitVec 7) (s : State) : Res :=
  issue (.fladd scope g a b) s (fun s =>
    welt (.flag false [flagAddrOf (s.me.gReg g.toNat) (s.src a)] (s.src b) scope.toNat) s)

/-- FLSET: one update with a home in each named layer (R194). -/
def execFlset (scope : BitVec 3) (g : BitVec 4) (a b : BitVec 7) (s : State) : Res :=
  issue (.flset scope g a b) s (fun s =>
    welt (.flag true (flagHomes (flagAddrOf (s.me.gReg g.toNat) (s.src a)) (fld (s.src a) 32 8)) (s.src b) scope.toNat) s)

/-- FLWAIT (R195). -/
def execFlwait (cond : BitVec 2) (g : BitVec 4) (a b : BitVec 7) (s : State) : Res :=
  issue (.flwait cond g a b) s (waitHere (.flwait cond g a b) id)

/-- CWAIT (R196). -/
def execCwait (n : BitVec 5) (thr : BitVec 14) (s : State) : Res :=
  issue (.cwait n thr) s (waitHere (.cwait n thr) id)

/-- FENCE: a welt entry marks its place (R197). -/
def execFence (scope : BitVec 3) (acq rel : Bool) (s : State) : Res :=
  issue (.fence scope acq rel) s (welt (.fence scope.toNat acq rel))

end Sys2Proof.Machine
end

