-- ==== Sys2Proof/Machine/Link.lean ====
section
/-!
DEFINITION. Eyelets, SEND and REALIGN (R198 to R206).
-/

namespace Sys2Proof.Machine

/-- EPUSH: the word enters the welt (R201). -/
def execEpush (e : BitVec 4) (a : BitVec 7) (s : State) : Res :=
  issue (.epush e a) s (fun s => welt (.epush e (s.src a)) s)

/-- A pop frees an entry: a credit is due to the sender of the word (R460). -/
def sendCredits (lay : Nat) (y : Eyelet) (s : State) : State :=
  s.updTower (lay / 8) (fun t => { t with credits := t.credits ++ y.senders.take 1 })

/-- Takes the popped value: from the pop log on re-execution, else from the eyelet (R48, R201). -/
def takePop (e : BitVec 4) (s : State) : State :=
  match popSource s e with
  | some (true, _) => s.updMe (fun c =>
      let own := (c.popLog.filter (fun p => p.1 == c.regionPlace))[c.regionPopped]?
      ({ c with popLog := if own.isSome then c.popLog else claimPop c.regionPlace c.popLog }).modRegion
        (fun r => { r with popped := r.popped + 1 }))
  | some (false, v) =>
    let s := s.updMe (fun c => ({ c with popLog := c.popLog ++ [(c.regionPlace, e, v)] }).modRegion
      (fun r => { r with popped := r.popped + 1 }))
    let y := mapGet .reset (s.layerAt s.lay).eyelets e.toNat
    sendCredits s.lay y (s.updLayer s.lay (fun l =>
      { l with eyelets := mapSet .reset l.eyelets e.toNat { y with words := y.words.tail, senders := y.senders.tail } }))
  | none => s

/-- EPOP: one welt entry as its pop-log record; the word lands at t+1 (R201). -/
def execEpop (d : BitVec 7) (e : BitVec 4) (s : State) : Res :=
  issue (.epop d e) s (waitHere (.epop d e) (fun s =>
    let v := match popSource s e with | some (_, v) => v | none => 0
    takePop e (welt .popRecord (landS d 1 v s))))

/-- SEND: the transfer its descriptor names enters the welt (R202, R203). -/
def execSend (bulk : Bool) (gd gs : BitVec 4) (a : BitVec 7) (s : State) : Res :=
  issue (.send bulk gd gs a) s (fun s =>
    let d := readDesc s (s.src a).toNat
    let cd := s.me.gReg gd.toNat
    welt (.send bulk cd (s.me.gReg gs.toNat) d.soff d.doff d.len d.slack (d.ctr (capPkg cd)) d.depart) s)

/-- REALIGN (R206). -/
def execRealign (n : BitVec 5) (a : BitVec 7) (s : State) : Res :=
  issue (.realign n a) s (fun s => welt (.realign n.toNat ((s.src a).extractLsb' 0 24)) (ctrAdd n.toNat s))

end Sys2Proof.Machine
end

