-- ==== Sys2Proof/Machine/Products.lean ====
section
/-!
DEFINITION. Matrix products: A rows as the row buffer aligns them, B elements as the planes hold them, and the group
values of the exact sums (R84 to R86, R264, R270, R271).
-/

namespace Sys2Proof.Machine

/-- Byte b of 4 KiB. -/
def lineByte (x : Lanes) (b : Nat) : Nat := (x.extractLsb' (8 * b) 8).toNat

/-- ⌊·⌉ of v·2^(−sh), ties to even. -/
def rneShift (v : Nat) (sh : Int) : Nat :=
  if sh ≤ 0 then v * 2 ^ (-sh).toNat
  else
    let d := 2 ^ sh.toNat
    let q := v / d
    if d < 2 * (v % d) ∨ (2 * (v % d) = d ∧ q % 2 = 1) then q + 1 else q

/-- A float code in units of its least subnormal; none for NaN and infinities. -/
def FloatFmt.units (f : FloatFmt) (c : Nat) : Option Int :=
  match f.fp c with
  | .fin neg m e => some (signedAt neg m e (f.emin - f.fb))
  | _ => none

/-- 32 elements of an A row: integers times 2^exp, or L6 codes under scale 2^exp; `nan` poisons every output. -/
structure ABlock where
  nan : Bool
  exp : Int
  els : List Int
  deriving DecidableEq, Repr

/-- Alignment of a block (R85, R271): units of 2^qe to a magnitude of gap + 1 bits under the largest exponent, which
is raised once when a rounding would overflow. -/
def alignBlock (f : FloatFmt) (gap : Nat) (xs : List (Option Int)) : ABlock :=
  let qe : Int := f.emin - f.fb
  if xs.any (fun x => x.isNone) then { nan := true, exp := 0, els := [] }
  else
    let vs := xs.map (fun x => x.getD 0)
    let nz := vs.filter (fun v => v != 0)
    if nz.isEmpty then { nan := false, exp := 0, els := vs }
    else
      let emax : Int := nz.foldl (fun (a : Int) v => max a ((Nat.log2 v.natAbs : Int) + qe)) f.emin
      let at_ := fun (em : Int) => vs.map (fun v =>
        let n : Int := rneShift v.natAbs (em - gap - qe)
        if v < 0 then -n else n)
      let ovf := (at_ emax).any (fun n => 2 ^ (gap + 1) ≤ n.natAbs)
      let em := if ovf then emax + 1 else emax
      { nan := false, exp := em - gap, els := at_ em }

/-- The Hadamard transform of one group (R271). -/
def hadamard (xs : List (Option Int)) : List (Option Int) :=
  if xs.any (fun x => x.isNone) then xs.map (fun _ => none)
  else xs.zipIdx.map (fun e => some (xs.zipIdx.foldl (fun (a : Int) x =>
    if parity 6 (x.2 &&& e.2) then a - x.1.getD 0 else a + x.1.getD 0) 0))

/-- A list cut into pieces of n. -/
def pieces {α : Type} (n : Nat) : Nat → List α → List (List α)
  | 0, _ => []
  | k + 1, l => l.take n :: pieces n k (l.drop n)

/-- The row's elements from the network output, in blocks of 32 (R270, R271). -/
def prepA (afmt had kt : Nat) (x : Lanes) : List ABlock :=
  let nblk := kt / 32
  let scale := fun (b : Nat) => lineByte x (3072 + b)
  if afmt = 5 then
    (upto nblk).map (fun b => { nan := scale b == 255, exp := (scale b : Int) - 133,
                                els := (upto 32).map (fun i => signed 8 (lineByte x (32 * b + i))) })
  else if afmt = 6 then
    (upto nblk).map (fun b => { nan := scale b == 255, exp := (scale b : Int) - 127, els := (upto 32).map (fun i =>
      let k := 32 * b + i
      let w := lineByte x (3 * (k / 4)) + 256 * lineByte x (3 * (k / 4) + 1) + 65536 * lineByte x (3 * (k / 4) + 2)
      ((w / 2 ^ (6 * (k % 4)) % 64 : Nat) : Int)) })
  else
    let f := floatFmt afmt
    let wide := afmt = 1 ∨ afmt = 2
    let vals := (upto kt).map (fun k =>
      f.units (if wide then lineByte x (2 * k) + 256 * lineByte x (2 * k + 1) else lineByte x k))
    let h := match had with | 1 => 16 | 2 => 32 | 3 => 64 | _ => 0
    let vals := if h = 0 then vals else ((pieces h (kt / h) vals).map hadamard).flatten
    (pieces 32 nblk vals).map (alignBlock f (if wide then 15 else 7))

/-- An element of a B macro (R264): its integer or L6 code, its exponent, and whether it is NaN or infinite. -/
def bElem (pfmt q r c : Nat) (lo hi scales : Lanes) : Int × Int × Bool :=
  let e := lineByte scales (128 * (q % 32) + 64 * (r / 32) + c)
  match pfmt with
  | 5 => (signed 8 (lineByte lo (64 * r + c)), (e : Int) - 133, e == 255)
  | 6 =>
    let o := 48 * r + 3 * (c / 4)
    let w := lineByte lo o + 256 * lineByte lo (o + 1) + 65536 * lineByte lo (o + 2)
    (((w / 2 ^ (6 * (c % 4)) % 64 : Nat) : Int), (e : Int) - 127, e == 255)
  | _ =>
    let f := floatFmt pfmt
    let x := if pfmt = 1 ∨ pfmt = 2 then lineByte lo (64 * r + c) + 256 * lineByte hi (64 * r + c)
      else lineByte lo (64 * r + c)
    ((f.units x).getD 0, f.emin - f.fb, (f.units x).isNone)

/-- T of R86, in units of 2^(−23). -/
def l6Table (f : Nat) : Nat := match f with | 0 => 0x800000 | 1 => 0x9837F0 | 2 => 0xB504F3 | _ => 0xD744FD

/-- The product of two L6 codes in units of 2^(−31) (R86). -/
def l6Product (a b : Int) : Int :=
  let x := a.toNat
  let y := b.toNat
  let q := x % 32 + y % 32
  if x % 32 = 0 ∨ y % 32 = 0 then 0
  else
    -- q − 32 = 4·i + f with i from −8 to 7: the term is T[f]·2^(i+8) in units of 2^(−31)
    let t : Int := l6Table (q % 4) * 2 ^ (q / 4)
    if (x / 32) % 2 = (y / 32) % 2 then t else -t

/-- One 32-element half of a group's sum: an integer and its exponent. -/
def halfSum (l6 : Bool) (a : ABlock) (b : Nat → Int × Int × Bool) : Int × Int :=
  let s : Int := a.els.zipIdx.foldl (fun (t : Int) e =>
    t + (if l6 then l6Product e.1 (b e.2).1 else e.1 * (b e.2).1)) 0
  (s, a.exp + (b 0).2.1 - (if l6 then 31 else 0))

/-- The group value of one output: the exact sum rounded once, +0 when it is zero, canonical NaN when an element is
NaN or infinite (R84, R85). -/
def groupValue (l6 : Bool) (a0 a1 : ABlock) (b : Nat → Int × Int × Bool) : Word :=
  if a0.nan || a1.nan || (upto 64).any (fun r => (b r).2.2) then 0x7FC00000
  else
    let x := halfSum l6 a0 b
    let y := halfSum l6 a1 (fun r => b (32 + r))
    let e := min x.2 y.2
    let t := x.1 * 2 ^ (x.2 - e).toNat + y.1 * 2 ^ (y.2 - e).toNat
    fp32Bits (ofDyadic (decide (t < 0)) t.natAbs e)

end Sys2Proof.Machine
end

