-- ==== Sys2Proof/Machine/Matrix.lean ====
section
/-!
DEFINITION. The matrix unit: parameters, planes, calls and the microprogram (R259 to R275).
-/

namespace Sys2Proof.Machine

/-! ### Slots -/

/-- MPAR: the shadow register at e + 1; the guard is ignored (R262). -/
def cellMpar (m a : BitVec 7) (r : Run) (s : State) : State :=
  r.land (.mShadow r.cell m.toNat) 1 (onesMask 32) ((r.src s a).setWidth 32768) s

/-- MSEL (R265). -/
def cellMsel (pl : BitVec 2) (r : Run) (s : State) : State :=
  r.land (.ap r.cell) 1 (onesMask 2) (pl.setWidth 32768) s

/-- MLDW's line: the net access at e without edge groups and without the guard, and its macro index (R263). -/
def loadLine (entry : Option Nat) (xa : BitVec 3) (limit : Nat) (k : Nat → Lanes → State → State) (r : Run)
    (s : State) : State :=
  let x := r.x s xa.toNat
  let a := netAddr x
  let q := (x.extractLsb' 26 6).toNat
  if limit ≤ q || a.bad then r.raise .bounds 3 s
  else
    let port := r.readLine s a a.base 0
    match entry with
    | none => k q port s
    | some n => match r.lastAt s n .read with
      | none => r.raise .illegal 6 s
      | some l => k q (readnet l port) s

def entryOf (str : Bool) (le : BitVec 6) : Option Nat := if str then none else some le.toNat

/-- MLDW, weights: macro q of the plane and its format at t+6 (R263). -/
def cellMldw (pl : BitVec 2) (fmt : BitVec 3) (str : Bool) (le : BitVec 6) (xa : BitVec 3) (r : Run) (s : State) : State :=
  let p := ((r.share s).physPlane pl.toNat).getD 0
  loadLine (entryOf str le) xa 48 (fun q x t =>
    r.land (.pfmt r.cell p) 6 (onesMask 3) (fmt.setWidth 32768)
      (r.land (.plane r.cell p q) 6 (BitVec.allOnes 32768) x t)) r s

/-- MLDW, scales: half q of the plane's scale store at t+6 (R263). -/
def cellMldwScl (pl : BitVec 2) (str : Bool) (le : BitVec 6) (xa : BitVec 3) (r : Run) (s : State) : State :=
  let p := ((r.share s).physPlane pl.toNat).getD 0
  loadLine (entryOf str le) xa 2 (fun q x t => r.land (.scale r.cell p q) 6 (BitVec.allOnes 32768) x t) r s

/-- MCALL in a cell: the shadow set becomes the active set and routine step 0 executes at e (R262, R266). -/
def cellMcall (n : BitVec 5) (bc : BitVec 14) (r : Run) (s : State) : State :=
  let d := mapGet 0 s.layer.mdir n.toNat
  let c := s.ccAt (r.key s)
  let q : Routine :=
    { ctx := r.f.ctx, region := r.f.region, baddr := r.f.baddr, e := s.now, bc := immNat r.slot.limm 14 bc.toNat,
      start := fld d 0 9, len := fld d 9 9, seq := r.f.seq, pc := 0, at_ := s.now, fi := 0, sc := 0, ai := 0, rb := 0,
      toff := 0, cp := c.ap, loops := [], rows := [], arrayFree := 0, passes := [], bfmt := r.f.bfmt, ended := false,
      lm := r.f.lm, slot := r.slot.idx }
  let s := s.updCc (r.key s) (fun c => { c with m := c.mShadow })
  s.updCell (cellKey s.lay r.cell) (fun e => { e with routine := some q })

/-! ### The routine of a cell -/

def State.focus (s : State) : Nat := cellKey s.lay s.cell
def State.routine (s : State) : Option Routine := (s.cellAt s.focus).routine
def State.setRoutine (s : State) (q : Routine) : State := s.updCell s.focus (fun e => { e with routine := some q })

/-- The run of a routine's accesses: its call's bundle, as the networks and the share see it. -/
def Routine.run (q : Routine) (cell : Nat) (i : Instr) : Run :=
  { f := { ctx := q.ctx, region := q.region, baddr := q.baddr, t := 0, seq := q.seq, cmask := 0, bctl := .zero, ks := [],
           sregs := 0, rm := 0, prof := false, lm := 0, ldm := false, bfmt := q.bfmt, rngk := 0, swlo := 0, swhi := 0,
           slots := [] },
    cell := cell, slot := { idx := 0, instr := i, limm := none, draw := 0, eff := 0, cap := 0, ahead := false } }

/-- An active parameter register (R262). -/
def Routine.m (q : Routine) (s : State) (j : Nat) : Word := mapGet 0 (s.ccAt (ccKey s.lay s.cell q.ctx)).m j
def Routine.field (q : Routine) (s : State) (j lo w : Nat) : Nat := (q.m s j).toNat / 2 ^ lo % 2 ^ w
def Routine.afmt (q : Routine) (s : State) : Nat := q.field s 1 10 4
def Routine.had (q : Routine) (s : State) : Nat := q.field s 1 8 2
def Routine.rowsM (q : Routine) (s : State) : Nat := q.field s 2 0 8
def Routine.nm (q : Routine) (s : State) : Nat := q.field s 2 8 6
def Routine.km (q : Routine) (s : State) : Nat := q.field s 2 14 6

/-- AUX0 and an error record's location: cell and place (R480). DEDUCED: notes/assumptions/33.md. -/
def errorLoc (cell loc : Nat) : DWord := BitVec.ofNat 64 (cell % 64 + 256 * (loc % 2 ^ 32))

/-- The cycles of a layer's UNCORR events of the last 2^30, with one of this cycle (R483). -/
def noteUncorr (lay : Nat) (s : State) : State :=
  let c := s.cycleOf lay
  s.updLayer lay (fun l => { l with uncorr := l.uncorr.filter (fun k => c < k + 2 ^ 30) ++ [c] })

/-- The region a fault of a routine is attributed to: the call's while uncommitted, else the oldest uncommitted, else
the next bundle's (R267). -/
def faultRegion (c : Ctx) (region : Nat) : Nat :=
  if c.regions.any (fun g => g.id == region) then region
  else match c.regions with
    | g :: _ => g.id
    | [] => c.regionId

/-- A fault of the word at this step: it does not perform, the routine stops, and the trap names the MCALL (R267).
DEDUCED: notes/assumptions/18.md. -/
def routineFault (q : Routine) (cause : Cause) (sub : Nat) (s : State) : State :=
  let tr : TrapInfo :=
    { cause := cause, sub := sub, code := 0, cell := some s.cell, dec := false, slot := q.slot, baddr := q.baddr,
      region := faultRegion (s.ctxAt (ctxKey s.lay q.ctx)) q.region,
      aux0 := if cause = .sched then BitVec.ofNat 64 (s.now - q.e) else 0, aux1 := 0 }
  takeTrap s.lay q.ctx tr (s.setRoutine { q with ended := true })

/-- After a word: the next one, through the ends of the loops that end here (R275). -/
def loopNext : List (Nat × Nat × Nat) → Nat → Nat × List (Nat × Nat × Nat)
  | [], pc => (pc, [])
  | (first, len, left) :: r, pc =>
    if pc = first + len then
      if 1 < left then (first, (first, len, left - 1) :: r) else loopNext r pc
    else (pc, (first, len, left) :: r)

/-- Goes to word `pc`, which executes `n` steps on. -/
def Routine.goto (q : Routine) (now pc n : Nat) : Routine :=
  let o := loopNext q.loops pc
  { q with pc := o.1, loops := o.2, at_ := now + n }

/-- A word of the focused cell's routine at this step. Nothing happens when the cell runs no routine, or when the
routine's next word is not due. ENDM stands at step BC − 1 and nowhere else (R267). -/
def microWord (endm : Bool) (k : Routine → State → State) (s : State) : Res :=
  match s.routine with
  | some q =>
    if q.ended || q.at_ != s.now then .next s
    else if endm != (s.now + 1 == q.e + q.bc) then .next (routineFault q .sched 2 s)
    else .next (k q s)
  | none => .next s

/-- ENDM (R267). -/
def execEndm (s : State) : Res := microWord true (fun q s => s.setRoutine { q with ended := true }) s

/-- Whether a slot reads through the net (R272). -/
def isNetRead (i : Instr) : Bool := (resources i).contains 9

/-- R272: a net-read slot that the cell executes at a ROWIN's step raises SCHED in its own region. -/
def rowinConflicts (s : State) : State :=
  s.layer.flight.foldl (fun t f =>
    if f.t + skew s.cell = s.now ∧ cellOn f.cmask s.cell then
      f.slots.foldl (fun t x =>
        if isNetRead x.instr then
          let r : Run := { f := f, cell := s.cell, slot := x }
          r.raise .sched 4 t
        else t) t
    else t) s

/-- The row's line through the read network under ALE, or straight (R270). -/
def Routine.line (q : Routine) (s : State) (base : Nat) : Option Lanes :=
  let r := q.run s.cell .rowin
  let port := r.readLine s (netAddr (q.m s 0)) base 0
  if q.field s 1 6 1 = 1 then some port
  else (r.lastAt s (q.field s 1 0 6) .read).map (fun l => readnet l port)

/-- ROWIN (R269 to R272). The rows carry no poison: banks keep none. SCHED is taken before ILLEGAL and BOUNDS. DESIGN
CHOICE: notes/assumptions/41.md. -/
def execRowin (s : State) : Res :=
  microWord false (fun q s =>
    if q.rowsM s ≤ q.fi then s.setRoutine ({ q with fi := q.fi + 1 }.goto s.now (q.pc + 1) 1)
    else if q.sc + 2 ≤ q.fi then routineFault q .sched 3 s
    else if q.afmt s = 0 || 6 < q.afmt s || (q.had s != 0 && 5 ≤ q.afmt s) then routineFault q .illegal 6 s
    else
      let b : Int := (netAddr (q.m s 0)).base + q.rb + q.fi
      if b < 0 ∨ 255 < b + 31 then routineFault q .bounds 3 s
      else if q.field s 1 6 1 = 0 && (((q.run s.cell .rowin).share s).physLast (q.field s 1 0 6)).isNone then
        routineFault q .bounds 1 s
      else match q.line s b.toNat with
        | none => routineFault q .illegal 6 s
        | some x =>
          let e := q.fi % 2
          let s := s.updCell s.focus (fun c => { c with rowBuf := mapSet 0 c.rowBuf e x })
          let q' := { q with rows := mapInsert q.rows e (q.fi, s.now + 6, false), fi := q.fi + 1, rowin := some s.now }
          rowinConflicts (s.setRoutine (q'.goto s.now (q.pc + 1) 1))) s

/-- R272 in cell (0,0), where a bundle issues after the routine's word of the same step: the net-read slots of the bundle that
has just issued, when this step's word is a ROWIN. -/
def rowinFresh (lay : Nat) (s : State) : State :=
  let s : State := { s with lay := lay, cell := 0 }
  match s.routine with
  | some q =>
    if q.rowin = some s.now ∧ q.e < s.now then
      s.layer.flight.foldl (fun t f =>
        if f.t = s.now ∧ cellOn f.cmask 0 then
          f.slots.foldl (fun t x =>
            if isNetRead x.instr then
              let r : Run := { f := f, cell := 0, slot := x }
              r.raise .sched 4 t
            else t) t
        else t) s
    else s
  | none => s

/-- Pass length of an A format, and whether it is a plane pair's (R273). -/
def passLength (afmt : Nat) : Nat := match afmt with | 1 | 2 => 16 | 6 => 4 | _ => 8

/-- The formats of A and B pair (R273). -/
def formatsPair (a b : Nat) : Bool :=
  match a with
  | 1 | 2 => b == 1 || b == 2
  | 3 | 4 => b == 3 || b == 4
  | 5 => b == 5
  | 6 => b == 6
  | _ => false

/-- A STEP that cannot run (R273). -/
def stepIllegal (q : Routine) (s : State) : Bool :=
  let a := q.afmt s
  let wide := a == 1 || a == 2
  let cp := q.cp.toNat
  let e := s.cellAt s.focus
  let h := (s.ctxAt (ctxKey s.lay q.ctx)).share
  let pf := fun (n : Nat) => (mapGet (0 : BitVec 3) e.pfmt ((h.physPlane n).getD 0)).toNat
  let planes := if wide then [cp, cp + 1] else [cp]
  planes.any (fun n => (h.physPlane n).isNone || !(q.m s 4).getLsbD n || 4 ≤ n) || !formatsPair a (pf cp)
    || (wide && (cp % 2 == 1 || pf (cp + 1) != pf cp || 2048 < 64 * q.km s))
    || q.km s == 0 || q.nm s == 0 || 48 < q.km s * q.nm s

/-- The group values of a pass over plane cp, by kb then n (R264, R273). -/
def passValues (q : Routine) (s : State) (x : Lanes) : List Word :=
  let a := q.afmt s
  let km := q.km s
  let nm := q.nm s
  let e := s.cellAt s.focus
  let h := (s.ctxAt (ctxKey s.lay q.ctx)).share
  let p := (h.physPlane q.cp.toNat).getD 0
  let hiP := (h.physPlane (q.cp.toNat + 1)).getD 0
  let pf := (mapGet (0 : BitVec 3) e.pfmt p).toNat
  let blocks := prepA a (q.had s) (64 * km) x
  let none : ABlock := { nan := false, exp := 0, els := [] }
  (upto km).flatMap (fun kb =>
    let a0 := (blocks[2 * kb]?).getD none
    let a1 := (blocks[2 * kb + 1]?).getD none
    (upto nm).flatMap (fun nb =>
      let m := kb * nm + nb
      let lo := mapGet 0 e.planes (48 * p + m)
      let hi := mapGet 0 e.planes (48 * hiP + m)
      let sc := mapGet 0 e.scales (2 * p + m / 32)
      (upto 64).map (fun c => groupValue (a == 6) a0 a1 (fun r => bElem pf m r c lo hi sc))))

/-- A weight row with wrong parity that a STEP reads: one of its macros in the planes of the pass (R479). -/
def badWeight (q : Routine) (s : State) : Option Nat :=
  let wide := q.afmt s == 1 || q.afmt s == 2
  let h := (s.ctxAt (ctxKey s.lay q.ctx)).share
  let planes := (if wide then [q.cp.toNat, q.cp.toNat + 1] else [q.cp.toNat]).filterMap h.physPlane
  (s.cellAt s.focus).badRows.find? (fun b => planes.contains (b / 3072) && b % 3072 / 64 < q.km s * q.nm s)

/-- UNCORR at the STEP that reads the row (R479, R480). -/
def weightFault (q : Routine) (row : Nat) (s : State) : State :=
  noteUncorr s.lay (takeTrap s.lay q.ctx
    { cause := .uncorr, sub := 4, code := 0, cell := some s.cell, dec := false, slot := q.slot, baddr := q.baddr,
      region := faultRegion (s.ctxAt (ctxKey s.lay q.ctx)) q.region, aux0 := errorLoc s.cell row, aux1 := 0 }
    (s.setRoutine { q with ended := true }))

/-- STEP (R269, R273). ILLEGAL is taken before SCHED. DESIGN CHOICE: notes/assumptions/41.md. -/
def execStep (s : State) : Res :=
  microWord false (fun q s =>
    let e := q.sc % 2
    if stepIllegal q s then routineFault q .illegal 6 s
    else match mapFind q.rows e with
      | some (row, ready, _) =>
        if row != q.sc || s.now < ready || s.now < q.arrayFree || (mapFind q.passes e).isSome then
          routineFault q .sched 3 s
        else if let some b := badWeight q s then weightFault q b s
        else
          let g := passValues q s (mapGet 0 (s.cellAt s.focus).rowBuf e)
          let len := passLength (q.afmt s)
          let s := s.updCell s.focus (fun c => { c with
            partials := (pieces 1024 3 g).zipIdx.foldl (fun m x =>
              mapSet 0 m (4 * e + x.2) (lanesOf (fun l => (x.1[l]?).getD 0))) c.partials })
          let q' := { q with rows := mapInsert q.rows e (row, ready, true), passes := mapInsert q.passes e (q.sc, s.now + len),
                             arrayFree := s.now + len, sc := q.sc + 1 }
          s.setRoutine (q'.goto s.now (q.pc + 1) 1)
      | none => routineFault q .sched 3 s) s

/-- The 32 group values of K-block kb for outputs 32·t to 32·t + 31, from a partial set. -/
def partialRow (c : Cell) (set nm kb t : Nat) : Row :=
  rowOf (fun i =>
    let j := kb * 64 * nm + 32 * t + i
    lane (mapGet 0 c.partials (4 * set + j / 1024)) (j % 1024))

/-- ACCUM: pass ai is added at its own step + 3, K-blocks ascending (R269, R274). -/
def execAccum (lag : Bool) (s : State) : Res :=
  microWord false (fun q s =>
    let i := q.ai
    let go := fun (q : Routine) => q.goto s.now (q.pc + 1) 1
    if q.sc < i + 1 + (if lag then 1 else 0) then s.setRoutine (go q)
    else match mapFind q.passes (i % 2) with
      | some (p, ready) =>
        if p != i || s.now < ready then routineFault q .sched 3 s
        else
          let nm := q.nm s
          let base : Int := (q.field s 3 0 6 : Int) + q.toff + 2 * nm * (i / 32 : Nat)
          let h := (s.ctxAt (ctxKey s.lay q.ctx)).share
          if base < 0 || (upto (2 * nm)).any (fun t => (h.physTile (base.toNat + t)).isNone) then
            routineFault q .bounds 1 s
          else
            let c := s.cellAt s.focus
            let pends := (upto (2 * nm)).flatMap (fun t => (upto (q.km s)).map (fun kb =>
              ({ ctx := q.ctx, region := q.region, due := s.now + 3, lag := 0, seq := q.seq,
                 loc := .accum s.cell ((h.physTile (base.toNat + t)).getD 0) (i % 32), mask := onesMask 1024,
                 val := (partialRow c (i % 2) nm kb t).setWidth 32768, last := none, lm := q.lm, baddr := q.baddr,
                 slot := q.slot } : Pend)))
            let s := s.updLayer s.lay (fun l => { l with pend := l.pend ++ pends })
            s.setRoutine (go { q with passes := mapErase q.passes (i % 2), ai := i + 1 })
      | none => routineFault q .sched 3 s) s

/-- PLANE (R269). -/
def execPlane (p : BitVec 2) (s : State) : Res :=
  microWord false (fun q s => s.setRoutine ({ q with cp := p }.goto s.now (q.pc + 1) 1)) s

/-- LOOPM: repeats the next LEN words N times (R275). -/
def execLoopm (len : BitVec 4) (csrc : BitVec 2) (n : BitVec 24) (s : State) : Res :=
  microWord false (fun q s =>
    let count := match csrc with
      | 0 => n.toNat
      | 1 => q.rowsM s
      | 2 => q.field s 5 0 24
      | _ => q.field s 6 0 24
    let stop := q.pc + 1 + len.toNat
    let crosses := match q.loops with | (first, l, _) :: _ => first + l < stop | [] => false
    if 2 ≤ q.loops.length || q.len + 1 < stop || crosses || len == 0 then routineFault q .illegal 6 s
    else if count = 0 then s.setRoutine (q.goto s.now stop 1)
    else s.setRoutine ({ q with loops := (q.pc + 1, len.toNat, count) :: q.loops }.goto s.now (q.pc + 1) 1)) s

/-- WAITIN (R269). -/
def execWaitin (n : BitVec 12) (s : State) : Res :=
  microWord false (fun q s =>
    if n = 0 then routineFault q .illegal 6 s else s.setRoutine (q.goto s.now (q.pc + 1) n.toNat)) s

/-- RSTC (R269). -/
def execRstc (s : State) : Res :=
  microWord false (fun q s =>
    if s.now < q.arrayFree || !q.passes.isEmpty || q.rows.any (fun e => !e.2.2.2) then routineFault q .sched 3 s
    else s.setRoutine ({ q with fi := 0, sc := 0, ai := 0, rows := [] }.goto s.now (q.pc + 1) 1)) s

/-- ABAS (R269). -/
def execAbas (d : BitVec 9) (s : State) : Res :=
  microWord false (fun q s => s.setRoutine ({ q with rb := q.rb + d.toInt }.goto s.now (q.pc + 1) 1)) s

/-- TADD (R269). -/
def execTadd (d : BitVec 7) (s : State) : Res :=
  microWord false (fun q s => s.setRoutine ({ q with toff := q.toff + d.toInt }.goto s.now (q.pc + 1) 1)) s

/-- A row of an accumulator tile after a group value: acc ← rne32(acc + G) (R84, R274). -/
def accumRow (old : Row) (g : Row) : Row := rowOf (fun i => fp32Add (rowWord old i) (rowWord g i))

/-- MPAR (R261, R262). -/
def execMpar (m a : BitVec 7) (s : State) : Res := issueCell (.mpar m a) (cellMpar m a) s
/-- MCALL: no other call of the context before t + BC (R266). -/
def execMcall (n : BitVec 5) (bc : BitVec 14) (s : State) : Res :=
  issueBoth (.mcall n bc) (fun _ s =>
    s.updMe (fun c => { c with mcallUntil := s.now + immNat s.latch.limm 14 bc.toNat,
                                 mcallRegion := c.regionId })) (cellMcall n bc) s
/-- MLDW of weights (R263). -/
def execMldw (pl : BitVec 2) (fmt : BitVec 3) (str : Bool) (le : BitVec 6) (xa : BitVec 3) (s : State) : Res :=
  issueCell (.mldw pl fmt str le xa) (cellMldw pl fmt str le xa) s
/-- MLDW of scales (R263). -/
def execMldwScl (pl : BitVec 2) (str : Bool) (le : BitVec 6) (xa : BitVec 3) (s : State) : Res :=
  issueCell (.mldwScl pl str le xa) (cellMldwScl pl str le xa) s
/-- MSEL (R265). -/
def execMsel (pl : BitVec 2) (s : State) : Res := issueCell (.msel pl) (cellMsel pl) s

end Sys2Proof.Machine
end

