-- ==== Sys2Proof/Machine/Sys.lean ====
section
/-!
DEFINITION. System slots, bundle control and the immediate prefix (R139, R148, R207 to R215).
-/

namespace Sys2Proof.Machine

/-- NOP (R207, R216). -/
def execNop (s : State) : Res := issue .nop s id

/-- TLAUNCH (R208). -/
def execTlaunch (g q : BitVec 4) (s : State) : Res :=
  issue (.tlaunch g q) s (fun s => welt (.tlaunch q.toNat (s.me.gReg g.toNat)) s)

/-- TEXIT: the value is read at t; no later bundle of the context issues (R209). -/
def execTexit (a : BitVec 7) (s : State) : Res := issue (.texit a) s (fun s => welt (.texit (s.src a)) s)

/-- YIELD: a switch point after the bundle, at which this context has waited for zero cycles (R209). -/
def execYield (s : State) : Res :=
  issue .yield s (fun s => (s.updLayer s.lay (fun l => { l with switch := true })).updMe (fun c => { c with idle := 0 }))

/-- TRAP: USERTRAP at the commit (R209). -/
def execTrap (code : BitVec 14) (s : State) : Res :=
  issue (.trap code) s (fun s => welt (.userTrap code s.latch.baddr s.latch.slot) s)

/-- ERET: the Trapped task returns to Ready at the commit (R210). -/
def execEret (a : BitVec 7) (s : State) : Res :=
  issue (.eret a) s (fun s => welt (.eret (fld (s.src a) 0 2) false) s)

/-- ERET.KILL: the Trapped task is killed at the commit (R210). -/
def execEretKill (a : BitVec 7) (s : State) : Res :=
  issue (.eretKill a) s (fun s => welt (.eret (fld (s.src a) 0 2) true) s)

/-- The draws that earlier slots of the bundle in hand have made of this context's counter (R225). -/
def drawsMade (s : State) : Nat := (s.latch.flight.filter (fun x => draws s.me.rm x.instr)).length

/-- MFSR: the register at t lands at t+1; RNGC reads as before its own bundle's draws (R211, R225). -/
def execMfsr (d : BitVec 7) (r : BitVec 12) (s : State) : Res :=
  issue (.mfsr d r) s (fun s =>
    let v := readSpecial s r.toNat
    landS d 1 (if r = 0x027 ∧ s.selCtx = s.ctx then v - BitVec.ofNat 64 (drawsMade s) else v) s)

/-- The value of a register at the entry of the region in hand, as far as the region has kept it; else as it stands. -/
def entryValue (n : Nat) (s : State) : DWord :=
  match (s.me.regions.getLast?.bind (fun r => if r.sealedAt.isSome then none
      else r.entrySpecials.find? (fun e => e.1 == s.specialId n))) with
  | some e => e.2
  | none => readSpecial s n

/-- The region remembers the register's value at its entry for a discard (R211). -/
def rememberSpecial (n : Nat) (s : State) : State :=
  let id := s.specialId n
  let v := entryValue n s
  if restorable n then
    s.updMe (fun c => c.modRegion (fun r =>
      if r.specials.any (fun e => e.1 == id) then r else { r with specials := r.specials ++ [(id, v)] }))
  else s

/-- MTSR: the bits of the view's writable fields are written at t+1; PREQ carries the save-area capability, read at
t (R211, R425). -/
def execMtsr (a : BitVec 7) (r : BitVec 12) (s : State) : Res :=
  issue (.mtsr a r) s (fun s =>
    let n := r.toNat
    let v := s.src a
    let val : Lanes := (writeValue s.sup n v).setWidth 32768
    let val := if n = 0x032 then val ||| ((s.me.gReg (fld v 3 4)).setWidth 32768 <<< 64) else val
    let mask : Lanes := (writeMask s s.sup n v).setWidth 32768
    land (.special (n + 4096 * s.selCtx)) 1 mask val (rememberSpecial n s))

/-- LSLEEP.DOZE (R213). -/
def execLsleepDoze (n : BitVec 5) (a : BitVec 7) (s : State) : Res :=
  issue (.lsleepDoze n a) s (fun s => welt (.lsleep (s.src a).toNat false n.toNat) (ctrAdd n.toNat s))

/-- LSLEEP.OFF (R213). -/
def execLsleepOff (n : BitVec 5) (a : BitVec 7) (s : State) : Res :=
  issue (.lsleepOff n a) s (fun s => welt (.lsleep (s.src a).toNat true n.toNat) (ctrAdd n.toNat s))

/-- LWAKE (R213). -/
def execLwake (n : BitVec 5) (a : BitVec 7) (s : State) : Res :=
  issue (.lwake n a) s (fun s => welt (.lwake (s.src a).toNat n.toNat) (ctrAdd n.toNat s))

/-- LSTLD: entries and first index from s[Z] (R215). -/
def execLstld (n : BitVec 3) (g : BitVec 4) (a b : BitVec 7) (s : State) : Res :=
  issue (.lstld n g a b) s (fun s =>
    welt (.lstld (s.me.gReg g.toNat) (s.src a) (fld (s.src b) 0 11) (fld (s.src b) 12 12) n.toNat) (ctrAdd n.toNat s))

/-- MPSLD: micro-words, or with bit 31 the routine directory (R215). -/
def execMpsld (n : BitVec 3) (g : BitVec 4) (a b : BitVec 7) (s : State) : Res :=
  issue (.mpsld n g a b) s (fun s =>
    let dir := (s.src b).getLsbD 31
    welt (.mpsld (s.me.gReg g.toNat) (s.src a) dir (if dir then 0 else fld (s.src b) 0 9)
      (if dir then 32 else fld (s.src b) 10 10) n.toNat) (ctrAdd n.toNat s))

/-- BCTL: the bundle's controls (R139). -/
def execBctl (ginv gen : Bool) (gp : BitVec 4) (gap : BitVec 7) (is : Bool) (fw iw : BitVec 2) (sway sl : Bool)
    (s : State) : Res :=
  issue (.bctl ginv gen gp gap is fw iw sway sl) s (fun s =>
    let b : Bctl := { ginv := ginv, gen := gen, gp := gp, gap := gap, is := is, fw := fw, iw := iw, sway := sway,
                      sealed := sl }
    { s with latch := { s.latch with bctl := b } })

/-- LIMM: 21 high bits for the slot that follows (R148). -/
def execLimm (i : BitVec 21) (s : State) : Res :=
  issue (.limm i) s (fun s => { s with latch := { s.latch with limm := some i } })

end Sys2Proof.Machine
end

