-- ==== Sys2Proof/Machine/Vote.lean ====
section
/-!
DEFINITION. Votes (R31, R32, R176 to R178): the cells contribute at e, the tree delivers at t+40.
-/

namespace Sys2Proof.Machine

/-- A vote starts: its result register, and the accumulator at the identity (R31, R177). -/
def startVote (kind : Nat) (loc : Loc) (s : State) : State :=
  s.updLayer s.lay (fun l => { l with
    votes := l.votes ++ [{ ctx := s.ctx, region := s.me.regionId, due := s.now + 40, seq := s.latch.seq, loc := loc,
                           kind := kind, acc := if kind = 1 then 1 else 0 }] })

/-- The vote of a bundle in the tree takes a cell's contribution. -/
def contribute (r : Run) (v : Nat) (s : State) : State :=
  s.updLayer s.lay (fun l => { l with
    votes := l.votes.map (fun w =>
      if w.ctx = r.f.ctx ∧ w.seq = r.f.seq then
        { w with acc := match w.kind with
            | 1 => w.acc * v
            | 2 => w.acc + v
            | _ => Nat.max w.acc v }
      else w) })

def popcount (x : Row) : Nat := (upto 1024).foldl (fun a l => if x.getLsbD l then a + 1 else a) 0

/-- VANY in a cell (R177): the identity of an inactive lane is false. -/
def cellVany (p : BitVec 7) (r : Run) (s : State) : State :=
  contribute r (if r.pc s p &&& r.guard s != 0 then 1 else 0) s
/-- VALL in a cell: the identity is true. -/
def cellVall (p : BitVec 7) (r : Run) (s : State) : State :=
  contribute r (if r.pc s p ||| ~~~ r.guard s == BitVec.allOnes 1024 then 1 else 0) s
/-- VCOUNT in a cell. -/
def cellVcount (p : BitVec 7) (r : Run) (s : State) : State := contribute r (popcount (r.pc s p &&& r.guard s)) s
/-- A poisoned row that lands in the cell at this step (R78, R105, R290). -/
def poisLands (r : Run) (s : State) : Bool :=
  (r.cellOf s).landing.any (fun d => d.ctx == r.f.ctx && d.pois && (match d.due with
    | some t => decide (t ≤ s.now)
    | none => decide (d.arrived < s.cycleOf s.lay) && decide (d.from_ ≤ s.now)))

/-- PVOTE in a cell: the context's poison summary bit, a bit set at this step included (R78, R177, R178). -/
def poisNow (r : Run) (s : State) : Bool :=
  (s.ccAt (r.key s)).pois || poisLands r s
    || s.layer.pend.any (fun p => p.ctx == r.f.ctx && p.loc == .pois r.cell && p.due ≤ s.now)
def cellPvote (r : Run) (s : State) : State := contribute r (if poisNow r s then 1 else 0) s
/-- PVOTE.CLR in a cell: the bit is also marked as counted (R178). -/
def cellPvoteClr (r : Run) (s : State) : State :=
  let s := contribute r (if poisNow r s then 1 else 0) s
  s.updCtx (ctxKey s.lay r.f.ctx) (fun c => { c with
    regions := c.regions.map (fun g => if g.id = r.f.region then { g with marks := g.marks ++ [(r.cell, s.now)] } else g) })

/-- VANY (R177). -/
def execVany (k p : BitVec 7) (s : State) : Res :=
  issueBoth (.vany k p) (fun _ => startVote 0 (.k k.toNat)) (cellVany p) s
/-- VALL (R177). -/
def execVall (k p : BitVec 7) (s : State) : Res :=
  issueBoth (.vall k p) (fun _ => startVote 1 (.k k.toNat)) (cellVall p) s
/-- VCOUNT (R177). -/
def execVcount (d p : BitVec 7) (s : State) : Res :=
  issueBoth (.vcount d p) (fun _ => startVote 2 (.s d.toNat)) (cellVcount p) s
/-- PVOTE (R177). -/
def execPvote (k : BitVec 7) (s : State) : Res :=
  issueBoth (.pvote k) (fun _ => startVote 3 (.k k.toNat)) (cellPvote) s
/-- PVOTE.CLR (R178). -/
def execPvoteClr (k : BitVec 7) (s : State) : Res :=
  issueBoth (.pvoteClr k) (fun _ => startVote 3 (.k k.toNat)) (cellPvoteClr) s

end Sys2Proof.Machine
end

