-- ==== Sys2Proof/Machine/Release.lean ====
section
/-!
DEFINITION. Released effects: where a flag update goes (R190), what each effect waits for (R126, R127, R129, R201,
R402), and the commit of a region (R45, R46, R178).
-/

namespace Sys2Proof.Machine

/-! ### Flag updates on their way (R190) -/

/-- An update arrives at a home layer of this package and applies in cycle `at_`. -/
def arriveFlag (lay cls at_ : Nat) (set : Bool) (idx : BitVec 9) (v : DWord) (s : State) : State :=
  let s' := { s with nextId := s.nextId + 1 }
  s'.updLayer lay (fun l => { l with
    updates := l.updates ++ [{ set := set, idx := idx, v := v, at_ := at_, cls := cls, seq := s.nextId }] })

/-- A ready update of a layer of this package takes its path (R190, R194). A layer that is dozing or off owns no slot of
the stack: its update is applied by the tower controller at c + 1, as an ingress update. DESIGN CHOICE:
notes/assumptions/43.md. -/
def sendFlag (lay : Nat) (set : Bool) (homes : List (BitVec 21)) (v : DWord) (s : State) : State :=
  let c := s.cycleOf lay
  match homes with
  | [] => s
  | h :: rest =>
    if flagPkg h != s.pkg then
      s.updTower (lay / 8) (fun t => { t with shortQ := t.shortQ ++ [(flagPkg h, .flag set homes v)] })
    else if flagLayer h / 8 != lay / 8 then
      s.updTower (flagLayer h / 8) (fun t => { t with shortQ := t.shortQ ++ [(s.pkg, .flag set homes v)] })
    else if rest.isEmpty && flagLayer h == lay then arriveFlag lay 2 (c + 1) set (flagIdx h) v s
    -- a layer that sends nothing (R21, R485): its tower's controller makes the update
    else if (s.layerAt lay).power != .run || (s.layerAt lay).failing.isSome then
      homes.foldl (fun s h => arriveFlag (flagLayer h) 3 (c + 1) set (flagIdx h) v s) s
    else
      let u : FlagUpd := { set := set, idx := flagIdx h, v := v, at_ := 0, cls := 1, seq := s.nextId }
      { s with nextId := s.nextId + 1 }.updLayer lay (fun l => { l with
        outUpd := l.outUpd ++ [(c, homes.map flagLayer, u)] })

/-- An update that a tower's controller makes itself, ready in this cycle (R190). -/
def controllerFlag (tower : Nat) (home : BitVec 21) (v : DWord) (s : State) : State :=
  if flagPkg home != s.pkg then
    s.updTower tower (fun t => { t with shortQ := t.shortQ ++ [(flagPkg home, .flag false [home] v)] })
  else if flagLayer home / 8 != tower then
    s.updTower (flagLayer home / 8) (fun t => { t with shortQ := t.shortQ ++ [(s.pkg, .flag false [home] v)] })
  else arriveFlag (flagLayer home) 3 ((s.towerAt tower).cycle + 1) false (flagIdx home) v s

/-! ### What a release waits for -/

def ReqState.done : ReqState → Bool
  | .performed => true
  | .arrived _ => true
  | _ => false

/-- Every access of a released store, atomic or stack store has performed (R113, R287). -/
def effPerformed (s : State) (r : Released) : Bool :=
  match r.effect with
  | .copyStore .. | .atomic _ | .cst =>
    2 ≤ r.phase && !s.reqs.any (fun q => q.eff == r.id && !q.dropped && !q.state.done)
  | .stackStore =>
    2 ≤ r.phase && !(s.layerAt r.lay).beats.any (fun b => b.eff == r.id)
      && !(s.towerAt (r.lay / 8)).busSlots.any (fun b => b.beats.any (fun x => x.eff == r.id))
  | .send .. => false
  | _ => true

/-- The effects of a task that its commits have not released yet. -/
def pendingOf (s : State) (key : Nat) : List (Nat × Effect) := (s.ctxAt key).regions.flatMap (fun r => r.effects)

/-- DRAINs of a task that have not completed: each gathers the NTSTs before it (R129, R289). -/
def drainsOf (s : State) (key : Nat) : List Nat :=
  let isDrain := fun (e : Effect) => match e with | .drain _ => true | _ => false
  ((s.released.filter (fun r => r.ctxKey == key && isDrain r.effect)).map (fun r => r.id))
    ++ ((pendingOf s key).filter (fun e => isDrain e.2)).map (fun e => e.1)

/-- Whether a release after effect `id` of a task would wait for the effect: an ordered store, an atomic, a stack store, a SEND,
or an NTST that a DRAIN before the release gathers (R126, R129, R204). -/
def ordersBefore (drains : List Nat) (id rel : Nat) (e : Effect) : Bool :=
  id < rel && (match e with
    | .copyStore true _ => drains.any (fun d => id < d && d < rel)
    | .copyStore false _ | .atomic _ | .cst | .stackStore | .send .. => true
    | _ => false)

/-- An effect of the task before `rel` that a release there waits for has not performed (R126). -/
def stillOrdered (s : State) (key rel : Nat) : Bool :=
  let ds := drainsOf s key
  s.released.any (fun r => r.ctxKey == key && ordersBefore ds r.id rel r.effect && !effPerformed s r)
    || (pendingOf s key).any (fun e => ordersBefore ds e.1 rel e.2)

/-- The release wait of `e` at a scope has ended (R126): at cell and layer scope there is none. -/
def waitEnded (s : State) (e : Released) (scope : Nat) : Bool := scope < 2 || !stillOrdered s e.ctxKey e.id

/-- A load, or an atomic with a return value, as its slot names it. -/
def isLoadSlot : Instr → Bool
  | .tld .. | .ald .. | .amo .. | .cas .. => true
  | _ => false

/-- A load or a returning atomic before effect `id` that some enabled cell has still to execute. -/
def loadsToCome (s : State) (key id : Nat) : Bool :=
  let l := s.layerAt (key / 8)
  key < 128 && l.flight.any (fun f => f.ctx == key % 8 && f.slots.any (fun z => z.eff < id && !z.ahead && isLoadSlot z.instr
    && (upto 64).any (fun k => l.ahead f k z)))

/-- Loads and returning atomics before a fence with the acquire bit have performed (R127). -/
def acquireEnded (s : State) (key id : Nat) : Bool :=
  !loadsToCome s key id && !s.reqs.any (fun q => q.ctxKey == key && q.eff < id && !q.dropped && !q.state.done && (match q.kind with
    | .load .. => true
    | .cld _ => true
    | .atomic _ _ _ returns _ _ _ => returns
    | _ => false))

/-- An earlier effect of the task keeps this one at its port: a full eyelet or queue at the head (R201, R402), or a
fence whose release has not performed (R126). -/
def blocked (s : State) (e : Released) : Bool :=
  s.released.any (fun r => r.ctxKey == e.ctxKey && r.id < e.id && (r.phase == 1 || (match r.effect with
    | .fence scope _ rel => rel && 2 ≤ scope && r.phase == 0
    | _ => false)))

/-- A fence that has performed as a release and still holds later copies as an acquire (R126, R127). -/
def Released.acquiring (e : Released) : Bool :=
  e.phase == 2 && (match e.effect with
    | .fence .. => true
    | _ => false)

def dropReleased (id : Nat) (s : State) : State :=
  { s with released := s.released.filter (fun r => r.id != id) }
def setReleased (e : Released) (s : State) : State :=
  { s with released := s.released.map (fun r => if r.id = e.id then e else r) }

/-! ### Reads the ports make for a task (R502) -/

inductive ReadRes where
  | bytes (b : List Byte) (pois : Bool)
  | park (off : Nat) (np : Bool) (base size : Nat)
  /-- The host is to walk for this offset (R416). -/
  | walk (off : Nat)
  | kill (off : Nat)
  deriving DecidableEq, Repr

/-- Where a byte is: at a leaf's address, outside the package, under a policy with the faulting unit, or not known until the host
has walked. -/
inductive Where where
  | at_ (pa : Nat) (l : Leaf)
  | policy (pol : Nat) (np : Bool) (base size : Nat)
  /-- A line whose target is retired, answered as under return poison (R450). -/
  | retired (pa : Nat)
  | away
  | host
  deriving DecidableEq, Repr

/-- What a leaf gives a byte (R439, R450). -/
def leafPlace (s : State) (off : Nat) (write : Bool) (l : Leaf) : Where :=
  if leafFault l write then .policy l.pol false (off / l.size * l.size) l.size
  else if isRetired s (l.pa off) then .retired (l.pa off)
  else .at_ (l.pa off) l

/-- The page of a byte that has been asked for at a port: not there yet, or with its result (R416, R502). -/
def askedPage (s : State) (o : BitVec 24) (off : Nat) (asid : BitVec 12) (write : Bool) : Option Where :=
  (s.reqs.find? (fun q => q.kind == (if write then ReqKind.recordWrite else .recordRead) && q.obj == o && q.asid == asid
    && q.off / 65536 == off / 65536)).map (fun q => match q.state with
      | .ready l => leafPlace s off write l
      | .answer p => .policy p true off 1
      | _ => .host)

/-- The place of a byte for an access that a tower's port makes: the result of a page it asked for, else its second-level cache or
the walk (R442). -/
def locate (s : State) (tower : Nat) (o : BitVec 24) (off : Nat) (asid : BitVec 12) (write : Bool) : Where :=
  (askedPage s o off asid write).getD (match translate s tower [homePort tower o off] o off 1 asid write with
    | .leaf l => leafPlace s off write l
    | .fault p np b z => .policy p np b z
    | .nowhere _ => .policy 3 true off 1
    | .away => .away
    | .host => .host)

/-- Bytes from an offset on that one translation serves: to the end of the smallest page, of the object, and, while a target is
retired, of the line (R436, R438, R450). -/
def runLen (s : State) (o : BitVec 24) (off n : Nat) : Nat :=
  let unit := if s.hret.getLsbD 9 then 128 else 65536
  let size := if objRemote s o then (if isWindow o && o.extractLsb' 16 8 == s.pkg then
      fld (mapGet ((0 : DWord), (0 : DWord)) s.windows (o.toNat % 256)).1 16 40 else 0) else objSize s o
  let k := Nat.min n (unit - off % unit)
  if off < size then Nat.min k (size - off) else k

/-- The runs of `n` bytes at an offset: first offset and length of each. -/
def runsFrom (s : State) (o : BitVec 24) : Nat → Nat → Nat → List (Nat × Nat)
  | 0, _, _ => []
  | fuel + 1, off, n =>
    if n = 0 then [] else (off, runLen s o off n) :: runsFrom s o fuel (off + runLen s o off n) (n - runLen s o off n)
def runs (s : State) (o : BitVec 24) (off n : Nat) : List (Nat × Nat) := runsFrom s o (n / 128 + 4) off n

/-- Bytes of a target outside the package, and its answer: as asked, or a policy of its own (notes/assumptions/5.md). A window of
this package's adapter that takes the access reads host memory, whose bytes are free. -/
def remoteBytes (s : State) (off n : Nat) : List Byte := (upto n).map (fun i => Config.remoteByte s.choice (off + i))
def remoteAnswer (s : State) (o : BitVec 24) : Nat :=
  let n := Config.remoteOutcome s.choice
  if isWindow o then (if o.extractLsb' 16 8 != s.pkg && n == 3 then 3 else 0) else n

/-- Reads run after run (R502). -/
def readRuns (s : State) (tower : Nat) (o : BitVec 24) (asid : BitVec 12) : List (Nat × Nat) → List Byte → Bool → ReadRes
  | [], acc, p => .bytes acc p
  | (off, k) :: r, acc, p =>
    let zeros := fun (pol : Nat) => readRuns s tower o asid r (acc ++ List.replicate k 0) (p || pol == 2)
    match locate s tower o off asid false with
    | .at_ pa _ => if badRead s pa k then zeros 2 else readRuns s tower o asid r (acc ++ s.memBytes pa k) p
    | .host => .walk off
    | .away => (match remoteAnswer s o with
      | 1 => zeros 1
      | 2 => zeros 2
      | 3 => .kill off
      | _ => readRuns s tower o asid r (acc ++ remoteBytes s off k) p)
    | .retired _ => zeros 2
    | .policy 0 np b z => .park off np b z
    | .policy 3 _ _ _ => .kill off
    | .policy pol _ _ _ => zeros pol

def readObj (s : State) (tower : Nat) (o : BitVec 24) (off n : Nat) (asid : BitVec 12) : ReadRes :=
  readRuns s tower o asid (runs s o off n) [] false

/-! ### Telemetry (R484) -/

/-- Adds to a telemetry counter, which saturates. -/
def countTel (tower key : Nat) (s : State) : State :=
  s.updTower tower (fun t => { t with telemetry := mapSet 0 t.telemetry key (Nat.min (mapGet 0 t.telemetry key + 1) (2 ^ 32 - 1)) })

def telRetired : Nat := 6 * 4096

/-- An access to a retired target is counted (R450, R484). -/
def noteRetired (pa : Nat) (s : State) : State := countTel (hbmTarget s pa / 256) telRetired s

/-- The retired lines among `n` bytes that a port has read or written are counted (R450). -/
def countRetired (tower : Nat) (o : BitVec 24) (off n : Nat) (asid : BitVec 12) (write : Bool) (s : State) : State :=
  if s.hret.getLsbD 9 then
    (runs s o off n).foldl (fun s r => match locate s tower o r.1 asid write with
      | .retired pa => noteRetired pa s
      | _ => s) s
  else s

/-! ### Fault records (R444) -/

/-- 32-byte entry of the fault ring. -/
def faultBytes (f : FaultRec) : List Byte :=
  leBytes 8 (f.fid % 65536 + 2 ^ 16 * bnat f.write + 2 ^ 17 * bnat f.np + 2 ^ 18 * (f.ctx % 16) + 2 ^ 40 * f.obj.toNat)
    ++ leBytes 8 f.off ++ leBytes 8 f.asid.toNat ++ leBytes 8 0

/-- Whether deliveries that name a layer go to the host (R214, R416). -/
def toHost (s : State) (lay bit : Nat) : Bool :=
  (s.towerAt (lay / 8)).dsplit.getLsbD bit || (s.layerAt lay).power != .run

/-- Writes a record to the ring or the host, and notes it on flag 510 (R444). -/
def deliverFault (lay : Nat) (f : FaultRec) (s : State) : State :=
  if toHost s lay 1 then
    s.updTower (lay / 8) (fun t => { t with host := t.host ++ [.fault lay f] })
  else
    arriveFlag lay 2 (s.cycleOf lay + 1) false 510 1
      (s.updLayer lay (writeDmem (0x18100 + 32 * (f.fid % 32)) (faultBytes f)))

/-- A request meets a fault under park at a port: it joins the port's open record of its unit, opens one, or waits until the port
holds fewer than 32 of its layer. The record's number, when there is one. DEDUCED: notes/assumptions/29.md. -/
def openFault (lay port ctx : Nat) (o : BitVec 24) (off : Nat) (write np : Bool) (base size : Nat) (asid : BitVec 12)
    (s : State) : Option Nat × State :=
  let l := s.layerAt lay
  match l.faults.find? (fun f => f.port == port && f.obj == o && f.base == base && f.size == size) with
  | some f => (some f.fid, s)
  | none =>
    if 32 ≤ (l.faults.filter (fun f => f.port == port)).length then (none, s)
    else
      let f : FaultRec := { fid := l.fid % 65536, port := port, obj := o, base := base, size := size, write := write, np := np,
                            ctx := ctx, off := off, asid := asid }
      (some f.fid, deliverFault lay f
        (s.updLayer lay (fun l => { l with fid := (l.fid + 1) % 65536, faults := l.faults ++ [f] })))

/-! ### Leaving Trapped (R210, R420, R424, R431) -/

/-- The record in progress of the task in a context. -/
def recOf (s : State) (lay c : Nat) : Option LRec :=
  (s.towerAt (lay / 8)).running.find? (fun r => r.place == some (lay, c))

/-- A released effect of a context, in release order. -/
def pushReleased (lay c : Nat) (id : Nat) (e : Effect) (s : State) : State :=
  { s with released := s.released ++ [{ id := id, ctxKey := ctxKey lay c, lay := lay, seq := id, effect := e, phase := 0,
                                        gather := [], tick := 0, left := 0, pois := false, data := [] }] }
def releaseNew (lay c : Nat) (e : Effect) (s : State) : State :=
  pushReleased lay c s.nextId e { s with nextId := s.nextId + 1 }

def barmFaddr (w : DWord) : BitVec 21 := w.extractLsb' 0 21
def barmShort (w : DWord) : Nat := if w.getLsbD 21 then fld w 32 16 - fld w 48 16 else 0

/-- Proxy arrivals in ascending BARM order, then the completion update (R209, R431). -/
def retireUpdates (lay c : Nat) (v : DWord) (s : State) : State :=
  let x := s.ctxAt (ctxKey lay c)
  let s := (upto 4).foldl (fun s j =>
    let w := mapGet 0 x.barm j
    if barmShort w = 0 then s
    else releaseNew lay c (.flag false [barmFaddr w] (BitVec.ofNat 64 (2 ^ 63 + barmShort w)) 4) s) s
  match recOf s lay c with
  | some r => releaseNew lay c (.complete r.id r.launch.hostc r.launch.cflag v) s
  | none => s

/-- The discard of a trap, a pre-emption, a freeze switch or a kill, at the end of the step at which it takes effect
(R45, R51). After a kill's discard come the proxy arrivals and the poisoned completion update (R431). -/
def endDiscard (lay c : Nat) (s : State) : State :=
  let x := s.ctxAt (ctxKey lay c)
  let s := if x.regions.isEmpty then s.updCtx (ctxKey lay c) (fun x => { x with xfer := none, delay := 0, notBefore := 0 })
    else discard lay c s
  if x.killing && x.exiting.isNone then
    let v : DWord := BitVec.ofNat 64 (2 ^ 63)
    retireUpdates lay c v (s.updCtx (ctxKey lay c) (fun x => { x with exiting := some v }))
  else s

/-- A kill takes effect (R431): nothing more issues; the discard and the updates follow at the end of the step. -/
def killTask (lay c : Nat) (s : State) : State :=
  let x := s.ctxAt (ctxKey lay c)
  if x.task = .free ∨ x.killing ∨ x.exiting.isSome then s
  else
    let s := s.updCtx (ctxKey lay c) (fun x => { x with
      task := .killed, state := .releasing, killing := true, held := [], wait := .none, waited := 0, untimed := true, trap := none,
      resume := x.resumeEntry })
    let s := s.updLayer lay (fun l => endFreeze c { l with
      tpend := setBitTo l.tpend c false
      switch := l.switch || l.cur == some c })
    -- parked load rows are withdrawn and dropped
    let s : State := { s with reqs := s.reqs.filter (fun q => !(q.ctxKey == ctxKey lay c && q.parkedLoad)) }
    if (s.layerAt lay).power = .run then s else endDiscard lay c s

/-- A Trapped task leaves Trapped (R210): resumes, or is killed. The address is the one the sequencer keeps, not the
record's word. DESIGN CHOICE: notes/assumptions/44.md. -/
def leaveTrapped (lay c : Nat) (kill : Bool) (s : State) : State :=
  let x := s.ctxAt (ctxKey lay c)
  if x.task != .trapped then s
  else if kill then killTask lay c s
  else
    let s := s.updLayer lay (fun l => { l with tpend := setBitTo l.tpend c false })
    s.updCtx (ctxKey lay c) (fun x => { x with
      task := .ready, wait := .resumeHold, waited := 0, pc := x.resume, idle := 0 })

/-! ### Kills by the fault policy, and what a task leaves behind -/

/-- PGKILL of the task in a context, when it is still there (R446, R502), in the name of the form the access serves, or of the
bundle to come for a fetch (R421), at which the task would next issue (R501); a Placed task is killed at once (R52). -/
def pgKill (key off : Nat) (o : BitVec 24) (form : Option (DWord × Nat)) (s : State) : State :=
  let x := s.ctxAt key
  if key < 128 && x.task == .placed then killTask (key / 8) (key % 8) s
  else if key < 128 && x.task != .free then
    takeTrap (key / 8) (key % 8)
      { cause := .pgKill, sub := 0, code := 0, cell := none, dec := form.isNone, slot := (form.map (fun f => f.2)).getD 0,
        baddr := (form.map (fun f => f.1)).getD x.pc,
        region := match x.regions with | g :: _ => g.id | [] => x.regionId,
        aux0 := BitVec.ofNat 64 off, aux1 := o.setWidth 64 } s
  else s

/-- The key of work that outlives its task's stay in a context: of a saved task by its SRID, of one that is gone by a fresh
number. It keeps the task's ASID and the number of its context. -/
def savedKey (srid : Nat) (asid : BitVec 12) (c : Nat) : Nat := (srid + 1) * 2 ^ 20 + 2 ^ 16 * (c % 8) + 16 * asid.toNat
def goneKey (id : Nat) (asid : BitVec 12) (c : Nat) : Nat := (id + 1) * 2 ^ 20 + 2 ^ 16 * (c % 8) + 16 * asid.toNat + 1
def keySrid (key : Nat) : Option Nat := if 2 ^ 20 ≤ key ∧ key % 2 = 0 then some (key / 2 ^ 20 - 1) else none

/-- The context a request came from, 15 for a remote requester (R444). -/
def keyCtx (key : Nat) : Nat := if key < 128 then key % 8 else if 2 ^ 20 ≤ key then key / 2 ^ 16 % 16 else 15

def asidOf (s : State) (key : Nat) : BitVec 12 :=
  if key < 128 then (if key % 8 = 4 then 0 else (s.ctxAt key).image.asid) else BitVec.ofNat 12 (key / 16)

/-- What a context's outstanding work is called from now on. -/
def relabel (key new : Nat) (s : State) : State :=
  { s with
    reqs := s.reqs.map (fun q => if q.ctxKey = key then { q with ctxKey := new } else q)
    released := s.released.map (fun e => if e.ctxKey = key then { e with ctxKey := new } else e)
    layers := s.layers.map (fun l => (l.1, { l.2 with
      preqs := l.2.preqs.map (fun p => if p.ctxKey = key then { p with ctxKey := new } else p) })) }

/-- Writes bytes to an object run after run; `none` where a unit does not take them. Bytes bound elsewhere leave the package. -/
def writeRuns (tower : Nat) (o : BitVec 24) (asid : BitVec 12) : List (Nat × Nat) → List Byte → State → Option State
  | [], _, s => some s
  | (off, k) :: r, b, s =>
    match locate s tower o off asid true with
    | .at_ pa _ => writeRuns tower o asid r (b.drop k) (writeMem pa (b.take k) s)
    | .retired pa => writeRuns tower o asid r (b.drop k) (noteRetired pa s)
    | .away => writeRuns tower o asid r (b.drop k) s
    | _ => none

def writeObj (tower : Nat) (o : BitVec 24) (off : Nat) (b : List Byte) (asid : BitVec 12) (s : State) : Option State :=
  writeRuns tower o asid (runs s o off b.length) b s

/-- A little-endian number of an object, zero where it cannot be read. -/
def readNum (s : State) (tower : Nat) (o : BitVec 24) (off n : Nat) (asid : BitVec 12) : Nat :=
  match readObj s tower o off n asid with
  | .bytes b _ => ofLe b
  | _ => 0

/-- Subtracts one from a field of a saved record (R427). -/
def recordDec (v : Saved) (off n : Nat) (s : State) : State :=
  let x := readNum s 0 (capObj v.cap) (capBase v.cap + off) n v.asid
  match writeObj 0 (capObj v.cap) (capBase v.cap + off) (leBytes n (x - 1)) v.asid s with
  | some t => t
  | none => s

/-- One tagged item of a saved task has ended: OUTST falls, and the record's counter, when the item has one (R427). -/
def itemEnd (srid : Nat) (ctr : Option Nat) (s : State) : State :=
  match s.saved.find? (fun v => v.srid == srid) with
  | some v =>
    let s := { recordDec v 0x18 8 s with
      saved := s.saved.map (fun w => if w.srid = srid then { w with outst := w.outst - 1 } else w) }
    match ctr with
    | some n => recordDec v (0xF8 + 4 * n) 4 s
    | none => s
  | none => s

/-- The names in `Layer.loading` of the entries that a load of the shared stores writes: last-store entries from 0, routine words
from 2048, directory entries from 4096 (R215). -/
def loadMarks : Effect → List Nat
  | .lstld _ _ first cnt _ => (upto cnt).map (fun i => first + i)
  | .mpsld _ _ dir first cnt _ => (upto cnt).map (fun i => (if dir then 4096 else 2048) + first + i)
  | _ => []

/-- A load of the shared stores has ended: its entries can be named again (R215). -/
def stopLoading (e : Released) (l : Layer) : Layer :=
  { l with loading := (loadMarks e.effect).foldl (fun m i => m.erase i) l.loading }

/-- A page asked for has its result. -/
def Req.answered (q : Req) : Bool := match q.state with | .ready _ | .answer _ => true | _ => false

/-- A request that stands at a port for a read of released effect `e` until its page can be read. -/
def readReq (e : Released) (o : BitVec 24) (off : Nat) (st : ReqState) (s : State) : Req :=
  { id := s.nextId, kind := .recordRead, state := st, ctxKey := e.ctxKey, cell := 64, region := 0, seq := e.id, eff := e.id,
    lay := e.lay, obj := o, off := off, asid := asidOf s e.ctxKey, ctr := none, data := 0, pois := false, committed := true,
    ready := s.cycleOf e.lay, dropped := false, srid := none, baddr := e.form.1, slot := e.form.2 }

/-- The pages that an effect's read asked for are done with. -/
def dropPages (e : Released) (s : State) : State :=
  { s with reqs := s.reqs.filter (fun q => !(q.eff == e.id && q.kind == .recordRead)) }

/-- A read that a port makes for released effect `e`; while it is parked, or the host walks for it, a request of its own waits,
and its result serves the read (R416, R502). -/
def portRead (e : Released) (o : BitVec 24) (off n : Nat) (k : List Byte → Bool → State → State) (s : State) : State :=
  let tower := e.lay / 8
  let asid := asidOf s e.ctxKey
  if s.reqs.any (fun q => q.eff == e.id && q.kind == .recordRead && !q.answered) then s
  else match readObj s tower o off n asid with
    | .bytes b p =>
      k b p (dropPages e (countRetired tower o off n asid false (if objRemote s o then { s with choice := s.choice + 1 } else s)))
    | .kill a => pgKill e.ctxKey a o (some e.form) ((dropReleased e.id (dropPages e s)).updLayer e.lay (stopLoading e))
    | .walk a => pushReq (readReq e o a .port s) s
    | .park a np base size =>
      let r := openFault e.lay (homePort tower o a) (keyCtx e.ctxKey) o a false np base size asid s
      pushReq (readReq e o a (.parked r.1) r.2) r.2

/-- A task's counter falls: in its context, or in its record while it is saved (R427). -/
def counterDown (key n : Nat) (s : State) : State :=
  if key < 128 then ctrDec key n s
  else match (keySrid key).bind (fun k => s.saved.find? (fun v => v.srid == k)) with
    | some v => recordDec v (0xF8 + 4 * n) 4 s
    | none => s

/-- A DRAIN's counter falls: a saved task's in its record (R427). -/
def drainDown (key n : Nat) (s : State) : State :=
  match keySrid key with
  | some srid => itemEnd srid (some n) s
  | none => counterDown key n s

def setSpois (key : Nat) (s : State) : State := if key < 128 then s.updCtx key (fun c => { c with spois := true }) else s

/-! ### Queues and status (R400 to R402) -/

/-- The completion update of a record is ready, or its entry has reached the ring; the records of the task's earlier stays
end with it (R406). -/
def completeRec (tower rec : Nat) (s : State) : State :=
  match (s.towerAt tower).running.find? (fun r => r.id == rec) with
  | some r => s.updTower tower (fun t => { t with
      running := t.running.map (fun x => if x.id = rec ∨ r.prior.contains x.id then { x with state := .completed } else x) })
  | none => s

/-- Entries reach the ring (R402). -/
def enterRing (tower : Nat) (es : List Status) (s : State) : State :=
  (es.filterMap (fun e => e.whose)).foldl (fun s r => completeRec tower r s) { s with status := s.status ++ es }

/-- A status entry joins the ring, or the tower's queue when the ring is full or earlier entries wait (R402). -/
def putStatus (tower : Nat) (e : Status) (s : State) : State :=
  if 4096 ≤ s.status.length || !s.linkUp || (upto 2).any (fun t => !(s.towerAt t).statusQ.isEmpty) then
    { s with nextId := s.nextId + 1 }.updTower tower (fun t => { t with statusQ := t.statusQ ++ [{ e with ord := s.nextId }] })
  else enterRing tower [e] s

/-- A tower's queue of status entries has no free entry (R402). DEDUCED: notes/assumptions/28.md. -/
def statusFull (s : State) (tower : Nat) : Bool := decide (1024 ≤ (s.towerAt tower).statusQ.length)

def Tower.queue (t : Tower) (q : Nat) : List LRec := mapGet [] t.queues q

/-- A list in the order of a key, equal keys as they stood. -/
def sortBy {α : Type} (key : α → Nat) (l : List α) : List α :=
  l.foldl (fun r x => r.takeWhile (fun y => key y ≤ key x) ++ x :: r.dropWhile (fun y => key y ≤ key x)) []

/-- A record behind those of earlier cycles, and among those of its own cycle by its issuer's layer, frames last (R400). -/
def insertRec (r : LRec) (l : List LRec) : List LRec :=
  let before := fun (x : LRec) => x.since != r.since || x.from_ ≤ r.from_ || 8 ≤ r.from_
  l.takeWhile before ++ r :: l.dropWhile before

/-- Appends a record to a queue; `from_` is its issuer's logical layer, 8 for a frame (R400). -/
def appendRec (tower q from_ : Nat) (a : Launch) (save : Option Cap) (s : State) : State :=
  let r : LRec := { id := s.nextId, queue := q, launch := a, state := .queued, save := save, age := 0, notBefore := 0,
                    place := none, left := 0, prior := [], since := (s.towerAt tower).cycle + 1, from_ := from_ }
  let s := { s with nextId := s.nextId + 1 }
  let s := s.updTower tower (fun t => { t with queues := mapSet [] t.queues q (insertRec r (t.queue q)) })
  if a.host then putStatus tower { tag := a.tag, seq := a.seq, event := 0, cause := 0, value := 0 } s else s

/-- A TLAUNCH of the tower waits for a free entry of a queue (R402). -/
def launchWaits (s : State) (tower q : Nat) : Bool :=
  s.released.any (fun r => r.phase == 1 && r.lay / 8 == tower && (match r.effect with
    | .tlaunch p _ => p == q
    | _ => false))

/-- A launch record of 64 bytes (R403). -/
def launchOf (b : List Byte) (host : Bool) (tag : Word) (seq : BitVec 16) : Launch :=
  let w := fun (o n : Nat) => ofLe ((b.drop o).take n)
  { img := BitVec.ofNat 128 (w 0 16), arg := BitVec.ofNat 128 (w 16 16), share := BitVec.ofNat 64 (w 32 8),
    lmask := BitVec.ofNat 64 (w 40 8), word48 := BitVec.ofNat 64 (w 48 8), word56 := BitVec.ofNat 64 (w 56 8),
    tag := tag, seq := seq, host := host, resv := false }

/-! ### Effects at their ports -/

/-- Clear words of a timestamp exchange (R206, R467): the named links that take part. -/
def exchangeLinks (s : State) (tower : Nat) (links : BitVec 24) : List Nat :=
  (upto 24).filter (fun f => links.getLsbD f && (let l := mapGet .reset (s.towerAt tower).links f
    l.state == .active || l.state == .narrowed))

/-- An effect that is not blocked acts, or stays until its wait ends. -/
def perform (e : Released) (s : State) : State :=
  let c := s.cycleOf e.lay
  match e.effect with
  | .copyStore _ _ =>
    setReleased { e with phase := 2 } { s with reqs := s.reqs.map (fun q =>
      if q.eff = e.id ∧ q.state = .held then { q with state := .queued } else q) }
  | .atomic _ | .cst =>
    setReleased { e with phase := 2 } { s with reqs := s.reqs.map (fun q =>
      if q.eff = e.id ∧ q.state = .held then { q with state := .port } else q) }
  | .stackStore =>
    setReleased { e with phase := 2 } (s.updLayer e.lay (fun l => { l with
      beats := l.beats.map (fun b => if b.eff = e.id ∧ b.ready.isNone then { b with ready := some c } else b) }))
  | .drain n =>
    let g := (s.released.filter (fun r => r.ctxKey == e.ctxKey && r.id < e.id && (match r.effect with
      | .copyStore nt _ => nt
      | _ => false) && !effPerformed s r)).map (fun r => r.id)
    if g.isEmpty then drainDown e.ctxKey n (dropReleased e.id s) else setReleased { e with phase := 2, gather := g } s
  | .flag set homes v scope => if waitEnded s e scope then sendFlag e.lay set homes v (dropReleased e.id s) else s
  | .fence scope acq rel =>
    let relDone := !rel || e.phase == 2 || waitEnded s e scope
    let acqDone := !acq || scope < 2 || acquireEnded s e.ctxKey e.id
    if relDone && acqDone then dropReleased e.id s
    else if relDone && rel then setReleased { e with phase := 2 } s
    else s
  | .epush y w =>
    let l := s.layerAt e.lay
    let q := mapGet .reset l.eyelets y.toNat
    if q.words.length < 16 then
      dropReleased e.id (s.updLayer e.lay (fun l =>
        { l with eyelets := mapSet .reset l.eyelets y.toNat { q with words := q.words ++ [w] } }))
    else setReleased { e with phase := 1 } s
  | .send .. => if waitEnded s e 3 then setReleased { e with phase := 2 } s else s
  | .realign n links =>
    let g := exchangeLinks s (e.lay / 8) links
    if g.isEmpty then counterDown e.ctxKey n (dropReleased e.id s) else setReleased { e with phase := 2, gather := g } s
  | .tlaunch q rec =>
    if e.data.isEmpty then
      if waitEnded s e 3 then
        portRead e (capObj rec) (capBase rec) 64 (fun b p s =>
          let s := if p then setSpois e.ctxKey s else s
          if ((s.towerAt (e.lay / 8)).queue q).length < 256 && !launchWaits s (e.lay / 8) q then
            appendRec (e.lay / 8) q (e.lay % 8) (launchOf b false 0 0) none (dropReleased e.id s)
          else setReleased { e with phase := 1, tick := c, data := b } s) s
      else s
    else s
  | .lstld .. | .mpsld .. => if waitEnded s e 3 then setReleased { e with phase := 2 } s else s
  | .lsleep lay off n =>
    dropReleased e.id (s.updLayer (8 * (e.lay / 8) + lay) (fun l => { l with
      preqs := l.preqs ++ [{ target := if off then .off else .doze, ctxKey := e.ctxKey, n := n, started := false, left := 0 }] }))
  | .lwake lay n =>
    dropReleased e.id (s.updLayer (8 * (e.lay / 8) + lay) (fun l => { l with
      preqs := l.preqs ++ [{ target := .run, ctxKey := e.ctxKey, n := n, started := false, left := 0 }] }))
  | .complete rec hostc home v =>
    let t := e.lay / 8
    if waitEnded s e 4 && !(hostc && statusFull s t) then
      let s := dropReleased e.id s
      match (s.towerAt t).running.find? (fun r => r.id == rec) with
      | some r =>
        if hostc then
          putStatus t { tag := r.launch.tag, seq := r.launch.seq, event := 4, cause := 0, value := v, whose := some rec } s
        else completeRec t rec (sendFlag e.lay false [home] v s)
      | none => s
    else s
  | _ => dropReleased e.id s

/-- Every effect that still waits at its port is tried, in release order. -/
def pump (s : State) : State :=
  s.released.foldl (fun s e0 =>
    match s.released.find? (fun r => r.id == e0.id) with
    | some e => if (e.phase = 0 ∧ !blocked s e) ∨ e.acquiring then perform e s else s
    | none => s) s

/-- A store that has performed leaves; an AST's counter falls in that cycle (R284), a DRAIN's when its stores have
performed (R289). -/
def settleOne (e : Released) (s : State) : State :=
  match e.effect with
  | .copyStore _ ctr =>
    if effPerformed s e then
      let s := dropReleased e.id s
      match ctr with
      | some n => if (keySrid e.ctxKey).isSome then s else counterDown e.ctxKey n s
      | none => s
    else s
  | .atomic _ | .cst | .stackStore => if effPerformed s e then dropReleased e.id s else s
  | .drain n =>
    if e.phase = 2 ∧ !s.released.any (fun r => e.gather.contains r.id && !effPerformed s r) then
      drainDown e.ctxKey n (dropReleased e.id s)
    else s
  | .realign n _ =>
    if e.phase = 2 ∧ e.gather.isEmpty then counterDown e.ctxKey n (dropReleased e.id s) else s
  | _ => s

/-- Every store that has performed leaves. -/
def settleReleased (s : State) : State := s.released.foldl (fun s e => settleOne e s) s

/-- The same for one layer's own. -/
def settleLayer (lay : Nat) (s : State) : State :=
  (s.released.filter (fun e => e.lay == lay)).foldl (fun s e => settleOne e s) s

/-- RELEASE_WAIT_END: an effect whose wait has ended acts (R126, R190, R203, R208). -/
def execReleaseWaitEnd (eff : Nat) (s : State) : Res :=
  match s.released.find? (fun r => r.id == eff) with
  | some e => if (e.phase = 0 ∧ !blocked s e) ∨ e.acquiring then .next (perform e s) else .next s
  | none => .next s

/-- EPUSH_DEFERRED: a word that waits at the head enters its eyelet once an entry is free (R201). -/
def execEpushDeferred (lay ctx : Nat) (s : State) : Res :=
  match s.released.find? (fun r => r.ctxKey == ctxKey lay ctx && r.phase == 1) with
  | some e =>
    match e.effect with
    | .epush y _ =>
      if (mapGet .reset (s.layerAt e.lay).eyelets y.toNat).words.length < 16 then .next (pump (perform e s)) else .next s
    | _ => .next s
  | none => .next s

/-- TLAUNCH_DEFERRED_APPEND: a record that waits on a full queue is appended when an entry frees (R400, R402). -/
def execTlaunchDeferredAppend (lay ctx : Nat) (s : State) : Res :=
  match s.released.find? (fun r => r.ctxKey == ctxKey lay ctx && r.phase == 1) with
  | some e =>
    match e.effect with
    | .tlaunch q _ =>
      if ((s.towerAt (e.lay / 8)).queue q).length < 256 then
        .next (pump (appendRec (e.lay / 8) q (e.lay % 8) (launchOf e.data false 0 0) none (dropReleased e.id s)))
      else .next s
    | _ => .next s
  | none => .next s

/-! ### The commit of a region (R45, R46) -/

/-- Entries of a layer's shared stores that loads are to write, from the loads' issue on: the scheduler places no task that
names one (R101, R215, R380). -/
def State.loadingOf (s : State) (lay : Nat) : List Nat :=
  (s.layerAt lay).loading ++ (upto 5).flatMap (fun c =>
    (s.ctxAt (ctxKey lay c)).regions.flatMap (fun r => r.effects.flatMap (fun e => loadMarks e.2)))

/-- An effect at its release from the welt, in program order. -/
def release (lay c region : Nat) (e : Nat × Effect) (s : State) : State :=
  let key := ctxKey lay c
  match e.2 with
  | .shadow _ => s.updCtx key (fun x => { x with shadow := applyShadow x.shadow e })
  | .popRecord => s
  | .flag set homes v scope =>
    -- R430: committed arrivals
    let s := if set then s else s.updCtx key (fun x => { x with
      barm := (upto 4).foldl (fun m j =>
        let w := mapGet 0 x.barm j
        if w.getLsbD 21 && homes == [barmFaddr w] then
          let a := Nat.min (fld w 48 16 + (v.extractLsb' 0 63).toNat) 65535
          mapSet 0 m j ((w &&& ~~~ ones64 48 16) ||| BitVec.ofNat 64 (a * 2 ^ 48))
        else m) x.barm })
    pushReleased lay c e.1 (.flag set homes v scope) s
  | .texit v =>
    let s := s.updCtx key (fun x => { x with exiting := some v, state := .releasing })
    retireUpdates lay c v (s.updLayer lay (fun l => { l with switch := l.switch || l.cur == some c }))
  | .userTrap code baddr slot =>
    takeTrap lay c { cause := .userTrap, sub := 0, code := code, cell := none, dec := false, slot := slot, baddr := baddr,
                     region := region, aux0 := 0, aux1 := 0 } s
  | .eret k kill => leaveTrapped lay k kill s
  | .lstld src off first cnt n =>
    pushReleased lay c e.1 (.lstld src off first cnt n)
      (s.updLayer lay (fun l => { l with loading := l.loading ++ loadMarks e.2 }))
  | .mpsld src off dir first cnt n =>
    pushReleased lay c e.1 (.mpsld src off dir first cnt n)
      (s.updLayer lay (fun l => { l with loading := l.loading ++ loadMarks e.2 }))
  | x => pushReleased lay c e.1 x s

/-- Marked poison summary bits that no later step has set again are cleared (R178). -/
def clearMarks (lay c : Nat) (marks : List (Nat × Nat)) (s : State) : State :=
  marks.foldl (fun s m => s.updCc (ccKey lay m.1 c) (fun e => { e with pois := false })) s

/-- R265: an MLDW of the context lands in a plane that a running call's PMASK names. -/
def planeClash (lay : Nat) (p : Pend) (s : State) : Bool :=
  let check := fun (k plane : Nat) => match (s.cellAt (cellKey lay k)).routine with
    | some q => q.ctx == p.ctx && (upto 4).any (fun n =>
        (mapGet (0 : Word) (s.ccAt (ccKey lay k p.ctx)).m 4).getLsbD n
          && (s.ctxAt (ctxKey lay p.ctx)).share.physPlane n == some plane)
    | none => false
  match p.loc with
  | .plane k n _ => check k n
  | .scale k n _ => check k n
  | .pfmt k n => check k n
  | _ => false

/-- An MLDW result that lands at this step traps, and its trap belongs to region `r` or an older one: the region does not
commit (R45, R265). -/
def clashDue (lay c r : Nat) (s : State) : Bool :=
  let l := s.layerAt lay
  l.pend.any (fun p => p.ctx == c && decide (p.due ≤ l.step) && planeClash lay p s
    && decide (faultRegion (s.ctxAt (ctxKey lay c)) p.region ≤ r))

/-- A region's effects in the order in which they are released: program order, but for TEXIT's, whose updates follow the rest
(R46, R209). -/
def Region.releases (r : Region) : List (Nat × Effect) :=
  let last := fun (e : Nat × Effect) => match e.2 with | .texit _ => true | _ => false
  r.effects.filter (fun e => !last e) ++ r.effects.filter last

/-- The released effects of a region carry the forms that raised them (R421). -/
def nameForms (r : Region) (s : State) : State :=
  { s with released := s.released.map (fun e => match r.forms.find? (fun f => f.1 == e.id) with
    | some f => { e with form := f.2 }
    | none => e) }

/-- The oldest region of the context commits at its sealing step + 28, unless a trap attributed to it, or to an older
one, has been raised (R45). -/
def commitOldest (lay c : Nat) (s : State) : State :=
  let key := ctxKey lay c
  let x := s.ctxAt key
  match x.regions with
  | r :: rest =>
    let due := match r.sealedAt with | some t => decide (t + 28 ≤ (s.layerAt lay).step) | none => false
    let held := match x.trap with | some t => decide (t.region ≤ r.id) | none => false
    if due && !held && !clashDue lay c r.id s then
      let s := s.updCtx key (fun x => { x with regions := rest, popLog := dropPops x.popLog })
      let s := { s with reqs := s.reqs.map (fun q =>
        if q.ctxKey = key ∧ q.region = r.id then
          { q with committed := true, ready := if q.state = .held then s.cycleOf lay else q.ready }
        else q) }
      pump (nameForms r (r.releases.foldl (fun s e => release lay c r.id e s) (clearMarks lay c r.marks s)))
    else s
  | [] => s

/-- REGION_COMMIT (R45 to R48, R178). -/
def execRegionCommit (lay ctx : Nat) (s : State) : Res := .next (commitOldest lay ctx s)

end Sys2Proof.Machine
end

