-- ==== Sys2Proof/Machine/Waits.lean ====
section
/-!
DEFINITION. Freezes, waits, ageing and the watchdog (R35, R52 to R58, R191, R286, R420).
-/

namespace Sys2Proof.Machine

/-- A TLD row of a context that has not arrived by the start of its landing step (R286). A row enters its cell's buffer at
the end of its arrival cycle, and is in time for a step that begins in a later one (R355). -/
def isLate (s : State) (lay : Nat) (q : Req) : Bool :=
  q.ctxKey / 8 == lay && q.ctxKey < 128 && !q.dropped && (match q.kind with
    | .load _ _ (some d) _ => decide (d ≤ (s.layerAt lay).step)
    | _ => false)

def lateRows (lay : Nat) (s : State) : List Req := s.reqs.filter (isLate s lay)

/-- The landing mode its bundle carried (R286, R350). -/
def Req.strict (q : Req) : Bool :=
  match q.kind with
  | .load _ _ _ m => m
  | _ => false

/-- Makes a row untimed. -/
def Req.untime (q : Req) : Req :=
  match q.kind with
  | .load b r _ strict => { q with kind := .load b r none strict }
  | _ => q

/-- Contexts whose uncommitted work the step's end discards (R51). -/
def mustDiscard (x : Ctx) : Bool :=
  (x.state == .discarding || x.state == .saving || (x.state == .releasing && x.killing)
    || (x.task == .waiting && x.state == .resident)) && (!x.regions.isEmpty || x.xfer.isSome || (x.killing && x.exiting.isNone))

/-- Late rows of contexts that took a trap, a pre-emption or a resume hold become untimed, and so do those of a region that the
step's end discards (R51, R56, R420). -/
def dropTiming (lay : Nat) (s : State) : State :=
  if s.reqs.isEmpty then s
  else
    let free := fun (q : Req) => let x := s.ctxAt q.ctxKey
      x.untimed || (mustDiscard x && x.regions.any (fun g => g.id == q.region))
    { s with reqs := s.reqs.map (fun q => if isLate s lay q && free q then q.untime else q) }

/-- Whether a condition of a context holds (R191, R195, R196, R201). DEDUCED: notes/assumptions/21.md. -/
def waitCond (lay c : Nat) (w : Wait) (s : State) : Bool :=
  let l := s.layerAt lay
  match w with
  | .none => true
  | .flag i cond b => let f := l.flag i; flagP f || flagCond cond (flagV f) b
  | .counter n thr => decide (((s.ctxAt (ctxKey lay c)).nReg n.toNat).toNat < thr)
  | .eyelet e => !(mapGet .reset l.eyelets e.toNat).words.isEmpty
  | .landing => !(lateRows lay s).any (fun q => q.ctxKey == ctxKey lay c)
  | .resumeHold => !holding lay c s
  | .fetch => !s.reqs.any (fun q => q.ctxKey == ctxKey lay c && q.kind == .fetch)

/-- Whether the condition that the context waits for holds. -/
def waitHolds (lay c : Nat) (s : State) : Bool := waitCond lay c (s.ctxAt (ctxKey lay c)).wait s

/-- The domain freezes from this cycle on a condition of a context, whose task is Frozen (R35, R52). -/
def freezeOn (lay c : Nat) (w : Wait) (s : State) : State :=
  (s.updCtx (ctxKey lay c) (fun x => { x with
    task := if x.task = .ready ∨ x.task = .issuing then .frozen else x.task })).updLayer lay (Layer.hold (s.cycleOf lay) c w)

/-- A context is no longer Frozen on a condition that holds; its wait on it is over, and any other wait stands (R52, R58). -/
def unfreeze (lay c : Nat) (w : Wait) (s : State) : State :=
  let cur := (s.layerAt lay).cur
  s.updCtx (ctxKey lay c) (fun x =>
    if x.task = .frozen then
      { x with
        task := if cur = some c then .issuing else .ready
        wait := if x.wait = w then .none else x.wait
        waited := if x.wait = w then 0 else x.waited }
    else x)

/-- WAIT_PASS: the conditions that hold end, and the freeze with the last of them; each task is again what it was (R35, R52, R191).
The bundle then issues in this cycle, or its flag's poison raises FLAGPOISON there (R195). -/
def execWaitPass (lay : Nat) (s : State) : Res :=
  let l := s.layerAt lay
  let met := fun (h : Nat × Wait) => waitCond lay h.1 h.2 s
  let left := l.holds.filter (fun h => !met h)
  let ended := (l.holds.filter met).filter (fun h => !left.any (fun g => g.1 == h.1))
  .next ((ended.foldl (fun s h => unfreeze lay h.1 h.2 s) s).updLayer lay (Layer.keepHolds left))

/-- A condition whose owner's threshold has passed since cycle `k` (R56). -/
def switchDue (lay k : Nat) (s : State) (h : Nat × Wait) : Bool :=
  let x := s.ctxAt (ctxKey lay h.1)
  x.fzt != 0 && decide (k + 2 ^ (x.fzt.toNat + 5) ≤ s.cycleOf lay) && (x.task == .frozen || x.task == .waiting)

/-- The owner of a condition waits on it, or on a resume hold when the condition belongs to a committed region, whose late rows
become untimed (R56, R58). DEDUCED: notes/assumptions/21.md. -/
def switchAway (lay : Nat) (h : Nat × Wait) (s : State) : State :=
  let x := s.ctxAt (ctxKey lay h.1)
  let committed := h.2 == .landing
    && (lateRows lay s).any (fun q => q.ctxKey == ctxKey lay h.1 && !x.regions.any (fun g => g.id == q.region))
  s.updCtx (ctxKey lay h.1) (fun x => { x with
    task := .waiting, wait := if committed && x.task == .frozen then .resumeHold else x.wait,
    waited := if committed && x.task == .frozen && x.wait != .resumeHold then 0 else x.waited,
    untimed := x.untimed || committed })

/-- FREEZE_SWITCH: every owner whose threshold has passed waits, and the freeze goes on for the others' conditions. The discard
follows at the end of the step (R56). A region that R45 has not committed is discarded, as is the one that R307 calls committed
before its first wait. DEDUCED: notes/assumptions/21.md. -/
def execFreezeSwitch (lay : Nat) (s : State) : Res :=
  let l := s.layerAt lay
  match l.frozen with
  | some (k, _) =>
    let due := l.holds.filter (switchDue lay k s)
    if due.isEmpty then .next s
    else
      .next ((due.foldl (fun s h => switchAway lay h s) s).updLayer lay (fun l =>
        { l.keepHolds (l.holds.filter (fun h => !due.contains h)) with switch := true }))
  | none => .next s

/-- WAIT_SATISFIED: a Waiting task whose condition holds is Ready, at the entry of its oldest discarded region (R52).
A flag found poisoned ends the wait too: the wait is posed again there, and raises FLAGPOISON. -/
def execWaitSatisfied (lay ctx : Nat) (s : State) : Res :=
  let x := s.ctxAt (ctxKey lay ctx)
  if x.task = .waiting ∧ x.wait ≠ .resumeHold ∧ x.regions.isEmpty ∧ waitHolds lay ctx s then
    .next (s.updCtx (ctxKey lay ctx) (fun x => { x with task := .ready, wait := .none, waited := 0, idle := 0 }))
  else .next s

/-- RESUME_HOLD_END: every committed landing has landed (R56, R420). A task that was Ready under the hold has waited for
issue all along (R54). -/
def execResumeHoldEnd (lay ctx : Nat) (s : State) : Res :=
  let x := s.ctxAt (ctxKey lay ctx)
  if (x.task = .waiting ∨ x.task = .ready ∨ x.task = .issuing) ∧ x.wait = .resumeHold ∧ x.regions.isEmpty
      ∧ !holding lay ctx s then
    .next (s.updCtx (ctxKey lay ctx) (fun x => { x with
      task := .ready, wait := .none, waited := 0, idle := if x.task = .ready then x.idle else 0 }))
  else .next s

/-- SUB and AUX0 of WATCHDOG (R418); a parked fetch counts as a landing. DEDUCED: notes/assumptions/22.md. -/
def watchdogSub (lay : Nat) (pkg : BitVec 8) (w : Wait) : Nat × Nat :=
  match w with
  | .flag i _ _ => (1, i.toNat + 2 ^ 9 * lay + 2 ^ 13 * pkg.toNat)
  | .counter n _ => (2, n.toNat)
  | .eyelet e => (3, e.toNat)
  | .resumeHold => (5, 0)
  | _ => (4, 0)

/-- The form that a wait stands for: its bundle's address and its slot; the next bundle where the hold or fetch is the
context's own (R421). DEDUCED: notes/assumptions/17.md. -/
def waitForm (x : Ctx) : DWord × Nat :=
  match x.wait with
  | .resumeHold | .fetch | .none => (x.pc, 0)
  | _ => (x.waitAddr, x.waitSlot)

/-- WATCHDOG (R58). -/
def execWatchdog (lay ctx : Nat) (s : State) : Res :=
  let x := s.ctxAt (ctxKey lay ctx)
  if x.wdog = 0 ∨ x.wait = .none ∨ x.waited ≤ 2 ^ (x.wdog.toNat + 10) then .next s
  else
    let w := watchdogSub lay s.pkg x.wait
    .next (takeTrap lay ctx
      { cause := .watchdog, sub := w.1, code := 0, cell := none, dec := false, slot := (waitForm x).2, baddr := (waitForm x).1,
        region := x.regionId, aux0 := BitVec.ofNat 64 w.2, aux1 := 0 } s)

/-- PRIORITY_AGEING: one level for every 65,536 cycles a Ready context waits, up to 3, and once for each (R54). -/
def execPriorityAgeing (lay ctx : Nat) (s : State) : Res :=
  let x := s.ctxAt (ctxKey lay ctx)
  if x.task = .ready ∧ x.aged ≠ x.idle / 65536 then
    .next (s.updCtx (ctxKey lay ctx) (fun x => { x with
      eprio := if x.aged < x.idle / 65536 ∧ x.eprio.toNat < 3 then x.eprio + 1 else x.eprio
      aged := x.idle / 65536 }))
  else .next s

/-- STARVATION_SWITCH: the next seal of the issuing context is a switch-away mark (R55). -/
def execStarvationSwitch (lay ctx : Nat) (s : State) : Res :=
  let x := s.ctxAt (ctxKey lay ctx)
  if x.task = .ready ∧ x.eprio = 3 ∧ 262144 ≤ x.idle then
    .next (s.updLayer lay (fun l => { l with swaySeal := true }))
  else .next s

/-- The trap of a row that is late under the strict mode: it names its TLD while that is uncommitted, else the region at which
the task stands (R286, R421). DEDUCED: notes/assumptions/17.md. -/
def lateTrap (x : Ctx) (q : Req) (due : Nat) : TrapInfo :=
  let own := x.regions.any (fun g => g.id == q.region)
  { cause := .late, sub := 0, code := 0, cell := some q.cell, dec := false, slot := if own then q.slot else 0,
    baddr := if own then q.baddr else x.resumeEntry, region := faultRegion x q.region,
    aux0 := BitVec.ofNat 64 (due % 2 ^ 48), aux1 := 0 }

/-- LATE: row `row` (a request) has not arrived by the start of its landing step: under the compatibility landing
mode the domain freezes before the step; under the strict one LATE is raised and the row becomes untimed (R286). -/
def execLate (lay row : Nat) (s : State) : Res :=
  match s.reqs.find? (fun q => q.id == row && isLate s lay q) with
  | some q =>
    let c := q.ctxKey % 8
    let x := s.ctxAt q.ctxKey
    match q.kind with
    | .load _ _ (some d) true =>
      let s : State := { s with reqs := s.reqs.map (fun p => if p.id = row then p.untime else p) }
      .next (takeTrap lay c (lateTrap x q d) s)
    | .load _ _ (some _) false =>
      .next (freezeOn lay c .landing (s.updCtx q.ctxKey (fun x =>
        if x.wait = .none then { x with wait := .landing, waitAddr := q.baddr, waitSlot := q.slot } else x)))
    | _ => .next s
  | none => .next s

/-- Every row that is late, under the strict mode or not, raises its trap or holds the domain; R419 chooses among the traps of one
task. -/
def raiseLates (lay : Nat) (strict : Bool) (s : State) : State :=
  ((lateRows lay s).filter (fun q => q.strict == strict)).foldl (fun s q =>
    match execLate lay q.id s with
    | .next t => t
    | _ => s) s

/-- HELD_TRAP_EFFECT: at the step at which the task would next issue, the first of its held traps takes effect
(R501). -/
def execHeldTrapEffect (lay ctx : Nat) (s : State) : Res :=
  let x := s.ctxAt (ctxKey lay ctx)
  match x.held with
  | t :: r =>
    if x.state = .resident ∧ (x.task = .ready ∨ x.task = .issuing) ∧ x.wait ≠ .resumeHold then
      let first := r.foldl (fun m y => if trapFirst m y then m else y) t
      .next ((takeTrap lay ctx first (s.updCtx (ctxKey lay ctx) (fun x => { x with
        held := x.held.erase first, quieted := false }))).updCtx (ctxKey lay ctx) (fun x => { x with fromHeld := true }))
    else .next s
  | [] => .next s

/-! ### Results that land as registers (R114) -/

/-- Writes a vector register's result (R114). -/
def writeV (lay : Nat) (p : Pend) (s : State) : State :=
  match p.loc with
  | .v k n => s.updCell (cellKey lay k) (fun e => { e with v := mapSet 0 e.v n (merge (mapGet 0 e.v n) p.mask p.val) })
  | _ => s

/-- A register result that lands at the start of the next step (R114). -/
def landReg (lay : Nat) (p : Pend) (s : State) : State :=
  let key := ctxKey lay p.ctx
  let v64 : DWord := p.val.setWidth 64
  match p.loc with
  | .s n => s.updCtx key (fun c => { c with s := mapSet 0 c.s n v64 })
  | .g n => s.updCtx key (fun c => { c with g := mapSet 0 c.g n (p.val.setWidth 128) })
  | .k n => s.updCtx key (fun c => { c with k := setBitTo c.k n (p.val.getLsbD 0) })
  | .b n => s.updCtx key (fun c => { c with b := mapSet 0 c.b n v64, bReady := mapSet 0 c.bReady n (p.due + 5) })
  | .special num => landSpecial lay (num / 4096) (num % 4096) p.mask p.val s
  | .spois => setSpois key s
  | .x k n => s.updCc (ccKey lay k p.ctx) (fun e => { e with x := mapSet 0 e.x n (p.val.setWidth 32) })
  | .v _ _ => writeV lay p s
  | .p k n => s.updCell (cellKey lay k) (fun e =>
      let old : Row := mapGet 0 e.p n
      { e with p := mapSet 0 e.p n ((merge (old.setWidth 32768) p.mask p.val).setWidth 1024) })
  | .mShadow k n => s.updCc (ccKey lay k p.ctx) (fun e => { e with mShadow := mapSet 0 e.mShadow n (p.val.setWidth 32) })
  | .ap k => s.updCc (ccKey lay k p.ctx) (fun e => { e with ap := p.val.setWidth 2 })
  | .edge k d => s.updCc (ccKey lay k p.ctx) (fun e =>
      let old : Row := mapGet 0 e.edge d
      { e with edge := mapSet 0 e.edge d ((merge (old.setWidth 32768) p.mask p.val).setWidth 1024) })
  | .edgePois k d => s.updCc (ccKey lay k p.ctx) (fun e =>
      let old : Word := mapGet 0 e.edgePois d
      { e with edgePois := mapSet 0 e.edgePois d ((merge (old.setWidth 32768) p.mask p.val).setWidth 32) })
  | .last k n => s.updCell (cellKey lay k) (fun e => { e with
      lasts := mapSet Last.none e.lasts n (p.last.getD .none), lastNums := mapSet 0 e.lastNums n p.val.toNat })
  | .pois k => if p.val.getLsbD 0 then setPois lay k p.ctx s else s
  | _ => s

/-- Which results land in phase 3: 0 halo rows, 1 slot results, 2 group values; 3 those that land as registers. -/
def phaseOf : Loc → Nat
  | .haloRow .. => 0
  | .bank .. | .acc .. | .plane .. | .scale .. | .pfmt .. | .dmem .. => 1
  | .accum .. => 2
  | _ => 3

/-- A result whose declared step has come and which has not completed (R348). -/
def isLagging (now : Nat) (p : Pend) : Bool := decide (p.due ≤ now) && decide (now < p.due + p.lag)

/-- Whether a register result lands before step `next`: a lagging one completes first, and a write that lands on its register at
its declared step or later waits for it (R348, R351). -/
def regDue (ps : List Pend) (next : Nat) (p : Pend) : Bool :=
  phaseOf p.loc == 3 && p.due + p.lag ≤ next
    && !ps.any (fun q => q.due ≤ p.due && q.seq != p.seq && q.ctx == p.ctx && q.loc == p.loc && isLagging next q)

/-- A vote's result on its way to its register (R32). -/
def Vote.pend (v : Vote) : Pend :=
  { ctx := v.ctx, region := v.region, due := v.due, lag := 0, seq := v.seq, loc := v.loc, mask := onesMask 64,
    val := BitVec.ofNat 32768 v.acc, last := none, lm := 0, baddr := 0, slot := 0 }

/-- Registers, lasts, edge words, votes and special registers that land at step `now`, which is about to begin, by declared step and
in issue order (R32, R100, R103, R114, R146, R177, R351); an event's setting of SPOIS comes after an MTSR's (R166). -/
def landRegs (lay : Nat) (s : State) : State :=
  let l := s.layerAt lay
  let due := regDue l.pend l.step
  let vs := l.votes.filter (fun v => v.due ≤ l.step)
  let rs := (l.pend.filter due ++ vs.map Vote.pend).mergeSort (fun a b => if a.due != b.due then a.due < b.due else a.seq ≤ b.seq)
  let s := s.updLayer lay (fun l => { l with pend := l.pend.filter (fun p => !due p),
                                             votes := l.votes.filter (fun v => l.step < v.due),
                                             landed := l.landed ++ rs.filterMap (fun p => match p.loc with
                                               | .v _ _ | .g _ => some (p.ctx, p.loc, p.mask)
                                               | _ => none) })
  let s := rs.foldl (fun s p => landReg lay p s) s
  vs.foldl (fun s v => if v.kind = 3 ∧ v.acc ≠ 0 then setSpois (ctxKey lay v.ctx) s else s) s

/-! ### Lagging results (R351 to R354) -/

/-- The vector registers a slot reads, as locations. -/
def readsV (s : State) (lay c cell : Nat) (i : Instr) : List Loc :=
  (srcs i).filterMap (fun r => match r.1 with
    | .v => ((s.ctxAt (ctxKey lay c)).share.physV r.2).map (fun n => Loc.v cell n)
    | _ => none)

/-- The cell of a location. -/
def Loc.cellOf : Loc → Option Nat
  | .x c _ | .v c _ | .p c _ => some c
  | _ => none

/-- The trap of a touch of a lagging result, in the touching bundle's name (R352, R421). -/
def hitTrap (cell : Option Nat) (slot : Nat) (baddr : DWord) (region : Nat) : TrapInfo :=
  { cause := .latcheck, sub := 1, code := 0, cell := cell, dec := false, slot := slot, baddr := baddr, region := region,
    aux0 := 0, aux1 := 0 }

/-- Results of this context that lag are looked at: while it is discarded from, or waits, or its committed results settle,
nothing freezes for them (R354). -/
def Ctx.interlocks (x : Ctx) : Bool :=
  x.state == .resident && (x.task == .ready || x.task == .issuing || x.task == .frozen) && x.wait != .resumeHold

/-- The hits at this step, each with its context and the LM its touching bundle carries: a slot that a cell executes now reads
a lagging register, or another result lands on it. `open_` is the bundle about to issue, which cell (0,0) executes at once. -/
def laggingHits (lay : Nat) (open_ : Option Flight) (s : State) : List (Nat × BitVec 2 × TrapInfo) :=
  let l := s.layerAt lay
  let lag := l.pend.filter (fun p => isLagging l.step p && (s.ctxAt (ctxKey lay p.ctx)).interlocks)
  if lag.isEmpty then []
  else
    let flights := match open_ with | some f => l.flight ++ [f] | none => l.flight
    lag.flatMap (fun p =>
      let reads := flights.flatMap (fun f =>
        if f.ctx = p.ctx then
          (upto 64).flatMap (fun k =>
            if f.t + skew k = l.step ∧ cellOn f.cmask k then
              (f.slots.filter (fun x => (readsV s lay f.ctx k x.instr).contains p.loc)).map (fun x =>
                (p.ctx, f.lm, hitTrap (some k) x.idx f.baddr f.region))
            else [])
        else [])
      let lands := (l.pend.filter (fun q => q.due == l.step && q.seq != p.seq && q.ctx == p.ctx && q.loc == p.loc)).map
        (fun q => (p.ctx, q.lm, hitTrap q.loc.cellOf q.slot q.baddr (faultRegion (s.ctxAt (ctxKey lay p.ctx)) q.region)))
      reads ++ lands)

/-- LAGGING_HIT. Hits of bundles in strict mode raise LATCHECK (R352). The others freeze the domain for one cycle before the
step: every lagging result of the layer advances one cycle, and those that complete land, in issue order (R351). -/
def execLaggingHit (lay : Nat) (s : State) : Res :=
  let hits := laggingHits lay (if s.lay = lay ∧ !s.latch.words.isEmpty then some s.flightNow else none) s
  let s := { s with latch := .empty }
  match hits.filter (fun h => h.2.1 == 1) with
  | h :: r => .next ((h :: r).foldl (fun s h => takeTrap lay h.1 h.2.2 s) s)
  | [] => match hits with
    | [] => .next s
    | _ =>
      let now := (s.layerAt lay).step
      let s := s.updLayer lay (fun l => { l with
        pend := l.pend.map (fun p => if isLagging now p then { p with lag := p.lag - 1 } else p) })
      .next (landRegs lay (hits.foldl (fun s h => freezeOn lay h.1 .none s) s))

end Sys2Proof.Machine
end

