-- ==== Sys2Proof/Machine/Xalu.lean ====
section
/-!
DEFINITION. Address arithmetic in the cells' x registers (R220).
-/

namespace Sys2Proof.Machine

/-- land(x[X], 1, f(a, b)) with both operands read at e (R220). -/
def cellX3 (f : Word → Word → Word) (d a b : BitVec 7) (r : Run) (s : State) : State :=
  r.landX d.toNat 1 (f (r.src s a) (r.src s b)) s

def shlW (a b : Word) : Word := a <<< (b.toNat % 32)
def shrW (a b : Word) : Word := a >>> (b.toNat % 32)
def sarW (a b : Word) : Word := BitVec.sshiftRight a (b.toNat % 32)

def cellXadd (d a b : BitVec 7) (r : Run) (s : State) : State := cellX3 (· + ·) d a b r s
def cellXsub (d a b : BitVec 7) (r : Run) (s : State) : State := cellX3 (· - ·) d a b r s
def cellXmul (d a b : BitVec 7) (r : Run) (s : State) : State := cellX3 (· * ·) d a b r s
def cellXand (d a b : BitVec 7) (r : Run) (s : State) : State := cellX3 (· &&& ·) d a b r s
def cellXior (d a b : BitVec 7) (r : Run) (s : State) : State := cellX3 (· ||| ·) d a b r s
def cellXeor (d a b : BitVec 7) (r : Run) (s : State) : State := cellX3 (· ^^^ ·) d a b r s
def cellXshl (d a b : BitVec 7) (r : Run) (s : State) : State := cellX3 shlW d a b r s
def cellXshr (d a b : BitVec 7) (r : Run) (s : State) : State := cellX3 shrW d a b r s
def cellXsar (d a b : BitVec 7) (r : Run) (s : State) : State := cellX3 sarW d a b r s
def cellXmin (d a b : BitVec 7) (r : Run) (s : State) : State := cellX3 (minTy 0) d a b r s
def cellXmax (d a b : BitVec 7) (r : Run) (s : State) : State := cellX3 (maxTy 0) d a b r s
/-- XADDI: x[X] + imm, the immediate signed (R220, R147). -/
def cellXaddi (d : BitVec 7) (i : BitVec 14) (r : Run) (s : State) : State :=
  r.landX d.toNat 1 (r.x s d.toNat + (immS r.slot.limm 14 i.toNat).setWidth 32) s
/-- XLI. -/
def cellXli (d : BitVec 7) (i : BitVec 14) (r : Run) (s : State) : State :=
  r.landX d.toNat 1 ((immS r.slot.limm 14 i.toNat).setWidth 32) s

/-- XADD (R220). -/
def execXadd (d a b : BitVec 7) (s : State) : Res := issueCell (.xadd d a b) (cellXadd d a b) s
/-- XSUB (R220). -/
def execXsub (d a b : BitVec 7) (s : State) : Res := issueCell (.xsub d a b) (cellXsub d a b) s
/-- XMUL (R220). -/
def execXmul (d a b : BitVec 7) (s : State) : Res := issueCell (.xmul d a b) (cellXmul d a b) s
/-- XAND (R220). -/
def execXand (d a b : BitVec 7) (s : State) : Res := issueCell (.xand d a b) (cellXand d a b) s
/-- XIOR (R220). -/
def execXior (d a b : BitVec 7) (s : State) : Res := issueCell (.xior d a b) (cellXior d a b) s
/-- XEOR (R220). -/
def execXeor (d a b : BitVec 7) (s : State) : Res := issueCell (.xeor d a b) (cellXeor d a b) s
/-- XSHL (R220). -/
def execXshl (d a b : BitVec 7) (s : State) : Res := issueCell (.xshl d a b) (cellXshl d a b) s
/-- XSHR (R220). -/
def execXshr (d a b : BitVec 7) (s : State) : Res := issueCell (.xshr d a b) (cellXshr d a b) s
/-- XSAR (R220). -/
def execXsar (d a b : BitVec 7) (s : State) : Res := issueCell (.xsar d a b) (cellXsar d a b) s
/-- XMIN (R220). -/
def execXmin (d a b : BitVec 7) (s : State) : Res := issueCell (.xmin d a b) (cellXmin d a b) s
/-- XMAX (R220). -/
def execXmax (d a b : BitVec 7) (s : State) : Res := issueCell (.xmax d a b) (cellXmax d a b) s
/-- XADDI (R220). -/
def execXaddi (d : BitVec 7) (i : BitVec 14) (s : State) : Res := issueCell (.xaddi d i) (cellXaddi d i) s
/-- XLI (R220). -/
def execXli (d : BitVec 7) (i : BitVec 14) (s : State) : Res := issueCell (.xli d i) (cellXli d i) s

end Sys2Proof.Machine
end

