-- ==== Sys2Proof/Machine/Front.lean ====
section
/-!
DEFINITION. What the cells of a layer do at a step before a bundle issues at it: the slots every cell executes (R30), the
routines' words (R266, R268), debug mode (R353), and the commits due (R45).
-/

namespace Sys2Proof.Machine

/-- A cell slot in a cell, at its execution step (R30). -/
def cellExec (i : Instr) (r : Run) (s : State) : State :=
  match i with
  | .vany _ p => cellVany p r s
  | .vall _ p => cellVall p r s
  | .vcount _ p => cellVcount p r s
  | .pvote _ => cellPvote r s
  | .pvoteClr _ => cellPvoteClr r s
  | .xadd d a b => cellXadd d a b r s
  | .xsub d a b => cellXsub d a b r s
  | .xmul d a b => cellXmul d a b r s
  | .xand d a b => cellXand d a b r s
  | .xior d a b => cellXior d a b r s
  | .xeor d a b => cellXeor d a b r s
  | .xshl d a b => cellXshl d a b r s
  | .xshr d a b => cellXshr d a b r s
  | .xsar d a b => cellXsar d a b r s
  | .xmin d a b => cellXmin d a b r s
  | .xmax d a b => cellXmax d a b r s
  | .xaddi d i => cellXaddi d i r s
  | .xli d i => cellXli d i r s
  | .vld d le em xa => cellVld d le em xa r s
  | .vldStraight d em xa => cellVldStraight d em xa r s
  | .vldDec d xa => cellVldDec d xa r s
  | .vst d le em xa => cellVst d le em xa r s
  | .vstStraight d em xa => cellVstStraight d em xa r s
  | .vstEnc d xa => cellVstEnc d xa r s
  | .vldx d xe em xa => cellVldx d xe em xa r s
  | .vstx d xe em xa => cellVstx d xe em xa r s
  | .bcopy rstr rle wstr wle xd xs => cellBcopy rstr rle wstr wle xd xs r s
  | .vperm d a le => cellVperm d a le r s
  | .llast le n => cellLlast le n r s
  | .esend dm a lg => cellEsend dm a lg r s
  | .erecv d dir lg => cellErecv d dir lg r s
  | .halo dm xa => cellHalo dm xa r s
  | .vadd d a b => cellVadd d a b r s
  | .vsub d a b => cellVsub d a b r s
  | .vadds d a b => cellVadds d a b r s
  | .vsubs d a b => cellVsubs d a b r s
  | .vmul d a b => cellVmul d a b r s
  | .vmulh d a b => cellVmulh d a b r s
  | .vmin d a b => cellVmin d a b r s
  | .vmax d a b => cellVmax d a b r s
  | .vand d a b => cellVand d a b r s
  | .vior d a b => cellVior d a b r s
  | .veor d a b => cellVeor d a b r s
  | .vshl d a b => cellVshl d a b r s
  | .vshr d a b => cellVshr d a b r s
  | .vabs d a => cellVabs d a r s
  | .vcmpeq d a b => cellVcmpeq d a b r s
  | .vcmplt d a b => cellVcmplt d a b r s
  | .vsel d p a => cellVsel d p a r s
  | .vrng d g c => cellVrng d g c r s
  | .vfadd d a b => cellVfadd d a b r s
  | .vfsub d a b => cellVfsub d a b r s
  | .vfmul d a b => cellVfmul d a b r s
  | .vfma d a b => cellVfma d a b r s
  | .vfnma d a b => cellVfnma d a b r s
  | .vfmin d a b => cellVfmin d a b r s
  | .vfmax d a b => cellVfmax d a b r s
  | .vfabs d a => cellVfabs d a r s
  | .vfneg d a => cellVfneg d a r s
  | .vfcmpeq d a b => cellVfcmpeq d a b r s
  | .vfcmplt d a b => cellVfcmplt d a b r s
  | .vfcmple d a b => cellVfcmple d a b r s
  | .vfrcp d a => cellVfrcp d a r s
  | .vfrsq d a => cellVfrsq d a r s
  | .vfexp2 d a => cellVfexp2 d a r s
  | .vflog2 d a => cellVflog2 d a r s
  | .vfsqrt d a => cellVfsqrt d a r s
  | .vcvt f d a rm c => cellVcvt f d a rm c r s
  | .vcvts f d a rm c => cellVcvts f d a rm c r s
  | .vquant d a rm n => cellVquant d a rm n r s
  | .vdeq d a rm n => cellVdeq d a rm n r s
  | .pand d a b => cellPand d a b r s
  | .pior d a b => cellPior d a b r s
  | .peor d a b => cellPeor d a b r s
  | .pandn d a b => cellPandn d a b r s
  | .pnot d a => cellPnot d a r s
  | .pall d => cellPall d r s
  | .pnone d => cellPnone d r s
  | .scan d a lr op ty => cellScan d a lr op ty r s
  | .segscan d a hp op ty => cellSegscan d a hp op ty r s
  | .reduce d a lr op ty => cellReduce d a lr op ty r s
  | .topk d a xk dir ty => cellTopk d a xk dir ty r s
  | .sort d a g dir ty => cellSort d a g dir ty r s
  | .compact d a xc => cellCompact d a xc r s
  | .hist d a acc => cellHist d a acc r s
  | .awlGather le a pen pp => cellAwlGather le a pen pp r s
  | .awlScatter le a pen pp => cellAwlScatter le a pen pp r s
  | .mpar m a => cellMpar m a r s
  | .mcall n bc => cellMcall n bc r s
  | .mldw pl fmt str le xa => cellMldw pl fmt str le xa r s
  | .mldwScl pl str le xa => cellMldwScl pl str le xa r s
  | .msel pl => cellMsel pl r s
  | .amov d t xen xt => cellAmov d t xen xt r s
  | .amovClr d t xen xt => cellAmovClr d t xen xt r s
  | .amovTo d t xen xt => cellAmovTo d t xen xt r s
  | .aclr t cnt => cellAclr t cnt r s
  | .atopk wstr le t xk xd => cellAtopk wstr le t xk xd r s
  | .tld g xa xm ln lat => cellTld g xa xm ln lat r s
  | .tst g xa xm ln => cellTst g xa xm ln r s
  | .ald g xa xm ln n => cellAld g xa xm ln n r s
  | .ast g xa xm ln n => cellAst g xa xm ln n r s
  | .ntst g xa xm ln => cellNtst g xa xm ln r s
  | .amo g xm d op ty n => cellAmo g xm d op ty n r s
  | .cas g xm d n => cellCas g xm d n r s
  | .red g xm d op ty => cellRed g xm d op ty r s
  | .sbst v lg cnt xo => cellSbst v lg cnt xo r s
  | .sbld v lg cnt xo => cellSbld v lg cnt xo r s
  | _ => s

/-- A micro-word's meaning on the focused cell's routine. -/
def microExec (i : Instr) (s : State) : Res :=
  match i with
  | .endm => execEndm s
  | .rowin => execRowin s
  | .step => execStep s
  | .accum lag => execAccum lag s
  | .plane p => execPlane p s
  | .loopm len csrc n => execLoopm len csrc n s
  | .waitin n => execWaitin n s
  | .rstc => execRstc s
  | .abas d => execAbas d s
  | .tadd d => execTadd d s
  | _ => .next s

/-- The state a meaning that cannot stop answers. -/
def Res.state (s : State) : Res → State
  | .next t => t
  | _ => s

/-! ### Phase 1 and the routines -/

/-- The cell slots a cell executes at this step; cell (0,0) executed its own when the bundle issued (R30, R31). -/
def runCells (lay : Nat) (s : State) : State :=
  let l := s.layerAt lay
  l.flight.foldl (fun s f =>
    if l.step ≤ f.t ∨ f.t + 28 < l.step then s
    else (upto 64).foldl (fun s k =>
      if f.t + skew k = l.step ∧ cellOn f.cmask k then
        f.slots.foldl (fun s x =>
          if l.sealedEarly f k x then s else cellExec x.instr { f := f, cell := k, slot := x } s) s
      else s) s) s

/-- Cells of a layer that hold anything. -/
def liveCells (lay : Nat) (s : State) : List Nat :=
  (s.cells.filter (fun e => e.1 / 64 == lay)).map (fun e => e.1 % 64)

/-! ### Debug mode (R353) -/

/-- The accumulator tile of a group value, any other location itself: what two results have in common (R353). -/
def Loc.whole : Loc → Loc
  | .accum cell t _ => .acc cell t
  | loc => loc

/-- The bank rows of a net access with base row `a` + i, i below n, in share banks. -/
def lineLocs (h : Share) (cell : Nat) (a : NetAddr) (n : Nat) : List Loc :=
  (upto n).flatMap (fun i => (upto h.nb).filterMap (fun k =>
    (h.physBank k).map (fun b => Loc.bank cell b (a.row (a.base + i) k))))

/-- The bank rows that hold the scales of a line's blocks (R74). -/
def scaleLocs (r : Run) (s : State) (a : NetAddr) (want : Nat → Bool) : List Loc :=
  let h := r.share s
  (upto h.nb).flatMap (fun k =>
    let b := mapGet 0 r.f.bfmt k
    if want k then
      (upto (bfBlocks b)).filterMap (fun j => (h.physBank (fld b 5 5)).map (fun p =>
        Loc.bank r.cell p (scaleAddr b (a.row a.base k) k j / 128)))
    else [])

/-- The locations a cell slot reads at e: registers, its guard, the bank rows, scales and accumulator tiles of its address. -/
def readLocs (r : Run) (s : State) : List Loc :=
  let h := r.share s
  let regs := (srcs r.slot.instr).filterMap (fun x => match x.1 with
    | .v => (h.physV x.2).map (fun n => Loc.v r.cell n)
    | .p => (h.physP x.2).map (fun n => Loc.p r.cell n)
    | .x => some (.x r.cell x.2)
    | _ => none)
  let guard := if r.f.bctl.gen && readsGuard r.slot.instr then
      ((h.physP r.f.bctl.gp.toNat).map (fun n => Loc.p r.cell n)).toList
    else []
  let addr := fun (xa : BitVec 3) => netAddr (r.x s xa.toNat)
  let tile := fun (n : Nat) => ((h.physTile n).map (fun n => Loc.acc r.cell n)).toList
  let mx := fun (k : Nat) => bfFmt (mapGet 0 r.f.bfmt k) == 5
  let more := match r.slot.instr with
    | .vld _ _ _ xa | .vldStraight _ _ xa | .vldx _ _ _ xa | .mldw _ _ _ _ xa | .mldwScl _ _ _ xa =>
      lineLocs h r.cell (addr xa) 1
    | .vldDec _ xa => lineLocs h r.cell (addr xa) 1 ++ scaleLocs r s (addr xa) r.convBank
    | .bcopy _ _ _ _ xd xs =>
      lineLocs h r.cell (addr xs) 1 ++ scaleLocs r s (addr xs) mx ++ scaleLocs r s (addr xd) mx
    | .tst _ xa _ ln | .ast _ xa _ ln _ | .ntst _ xa _ ln => lineLocs h r.cell (addr xa) (2 ^ ln.toNat)
    | .amov _ t xen xt | .amovClr _ t xen xt => tile (r.tile s t xen xt)
    | .atopk _ _ t xk _ => (upto ((r.x s xk.toNat).toNat / 32 % 32 + 1)).flatMap (fun i => tile (t.toNat + i))
    | _ => []
  regs ++ guard ++ more

/-- A HALO's rows, each with the steps after e at which its row is read (R249). -/
def haloReads (r : Run) (s : State) : List (Loc × Nat) :=
  match r.slot.instr with
  | .halo dm xa =>
    let h := r.share s
    let w := (r.x s xa.toNat).toNat
    (upto (w / 65536 % 64 + 1)).flatMap (fun j => (upto 4).filterMap (fun d =>
      if dm.getLsbD d then (h.physBank (h.nb - 4 + d)).map (fun b => (Loc.bank r.cell b (w % 256 + j), j)) else none))
  | _ => []

/-- Rows that face exchanges of earlier bundles have still to write in a cell, each with the exchange's bundle and its landing
step (R249). -/
def haloPending (lay k c : Nat) (s : State) : List (Nat × Loc × Option Nat) :=
  (s.cellAt (cellKey lay k)).halos.flatMap (fun h =>
    if h.ctx = c then
      (upto 4).flatMap (fun d => match neighbour k d with
        | some n =>
          if h.dm.getLsbD (opposite d) then
            (upto (h.cnt + 1)).filterMap (fun j =>
              let lands := h.e + skew n + j + 3 - skew k
              if (s.layerAt lay).step ≤ lands then
                some (h.seq, Loc.bank k ((h.banks[d]?).getD 0) (h.drow + j), some lands)
              else none)
          else []
        | none => [])
    else [])

/-- Rows and registers that copies and atomics of a context have still to fill in a cell, each with its slot's number and its
landing step, when it has one. -/
def reqPending (lay k c : Nat) (s : State) : List (Nat × Loc × Option Nat) :=
  (s.reqs.filterMap (fun q =>
    if q.ctxKey = ctxKey lay c ∧ q.cell = k ∧ !q.dropped then
      (match q.kind with
       | .load b w due _ => some (q.eff, Loc.bank k b w, due)
       | .atomic _ _ _ true vd _ _ => some (q.eff, Loc.v k vd, none)
       | _ => none)
    else none))
  ++ ((s.cellAt (cellKey lay k)).landing.filter (fun d => d.ctx == c)).map (fun d => (d.seq, Loc.bank k d.bank d.row, d.due))

/-- What copies, atomics and face exchanges of earlier bundles than `seq` have still to write: the slots of a bundle are numbered
after the bundle. -/
def othersPending (lay k c seq : Nat) (s : State) : List (Loc × Option Nat) :=
  ((reqPending lay k c s ++ haloPending lay k c s).filter (fun e => e.1 < seq)).map (fun e => e.2)

/-- The locations a routine's word reads at this step: ROWIN's line, STEP's planes and scales, ACCUM's tiles. -/
def wordLocs (q : Routine) (i : Instr) (s : State) : List Loc :=
  let h := (s.ctxAt (ctxKey s.lay q.ctx)).share
  let a := netAddr (q.m s 0)
  let plane := fun (n : Nat) => match h.physPlane n with
    | some p => (upto 48).map (fun m => Loc.plane s.cell p m) ++ (upto 2).map (fun j => Loc.scale s.cell p j) ++ [.pfmt s.cell p]
    | none => []
  match i with
  | .rowin =>
    if q.rowsM s ≤ q.fi then [] else lineLocs h s.cell { a with base := ((a.base : Int) + q.rb + q.fi).toNat } 1
  | .step => plane q.cp.toNat ++ (if q.afmt s = 1 ∨ q.afmt s = 2 then plane (q.cp.toNat + 1) else [])
  | .accum _ =>
    (upto (2 * q.nm s)).filterMap (fun t =>
      (h.physTile (((q.field s 3 0 6 : Int) + q.toff + 2 * q.nm s * (q.ai / 32 : Nat)).toNat + t)).map (fun n => Loc.acc s.cell n))
  | _ => []

/-- An early read of a routine's word, under its call's debug mode (R353). -/
def debugWord (k : Nat) (i : Instr) (s : State) : State :=
  let s := { s with cell := k }
  match s.routine with
  | some q =>
    if q.lm ≠ 2 then s
    else
      let reads := wordLocs q i s
      let early := s.layer.pend.any (fun p => p.ctx == q.ctx && p.seq < q.seq && reads.contains p.loc.whole)
        || (othersPending s.lay k q.ctx q.seq s).any (fun e => reads.contains e.1)
      if early then
        takeTrap s.lay q.ctx { cause := .latcheck, sub := 2, code := 0, cell := some k, dec := false, slot := q.slot,
                               baddr := q.baddr, region := faultRegion (s.ctxAt (ctxKey s.lay q.ctx)) q.region,
                               aux0 := 0, aux1 := 0 } s
      else s
  | none => s

/-! ### Routines -/

/-- The word of a cell's routine at this step (R266 to R268). A malformed word is ILLEGAL also at the call's last step,
before R267's SCHED. DESIGN CHOICE: notes/assumptions/41.md. -/
def runRoutine (k : Nat) (s : State) : State :=
  let s := { s with cell := k }
  match s.routine with
  | some q =>
    if q.ended then s
    else if q.at_ ≠ s.now then
      if s.now + 1 = q.e + q.bc then routineFault q .sched 2 s else s
    else if q.len < q.pc ∨ 511 < q.start + q.pc then routineFault q .sched 2 s
    else match decodeMicro (mapGet 0 s.layer.mprog (q.start + q.pc)) with
      | some i => let s := debugWord k i s
        Res.state s (microExec i s)
      | none => routineFault q .illegal 6 s
  | none => s

/-- Word 0 of the routine that cell (0,0) has just been given by the bundle that issued at this step. -/
def runFirstWord (lay : Nat) (s : State) : State :=
  match (s.cellAt (cellKey lay 0)).routine with
  | some q => if q.e = (s.layerAt lay).step then runRoutine 0 s else s
  | none => s

/-! ### Debug mode in the cells (R353) -/

/-- The tiles that a cell's routine has yet to add into, each with the step at which an addition lands: its words run ahead on a
copy (R353, R359). -/
def accumsToCome (lay k : Nat) : Nat → State → List (Loc × Option Nat)
  | 0, _ => []
  | n + 1, s =>
    let s := runRoutine k (s.updLayer lay (fun l => { l with step := l.step + 1, pend := [] }))
    ((s.layerAt lay).pend.filterMap (fun p => match p.loc with
      | .accum .. => some (p.loc.whole, some p.due)
      | _ => none)) ++ accumsToCome lay k n s

/-- Those of a routine that an earlier bundle than `f` of its task called, when `f`'s slot has to do with tiles. -/
def tilesToCome (lay k : Nat) (f : Flight) (i : Instr) (s : State) : List (Loc × Option Nat) :=
  match i, (s.cellAt (cellKey lay k)).routine with
  | .amov .., some q | .amovClr .., some q | .amovTo .., some q | .aclr .., some q | .atopk .., some q =>
    if q.ctx = f.ctx ∧ q.seq < f.seq ∧ !q.ended then
      accumsToCome lay k (q.e + q.bc - (s.layerAt lay).step) { s with lay := lay }
    else []
  | _, _ => []

/-- Whether two results of one location have a pending bit in common: one for a register, one for each word of a bank or of an
accumulator, one for each byte of a plane (R353). -/
def Pend.shares (p q : Pend) : Bool :=
  match q.loc with
  | .v .. | .p .. | .x .. => true
  | .bank .. => (upto 32).any (fun k => lane p.mask k != 0 && lane q.mask k != 0)
  | _ => p.mask &&& q.mask != 0 || p.loc != q.loc

/-- A read or write of debug mode that is too early: SUB 2 for a read, 3 for a write that overtakes (R353, R418). A result with no
declared step overtakes nothing; one that lands before a write with none does. DEDUCED: notes/assumptions/42.md. -/
def debugSlot (lay k : Nat) (f : Flight) (x : FSlot) (s : State) : Check :=
  let r : Run := { f := f, cell := k, slot := x }
  let l := s.layerAt lay
  let older := l.pend.filter (fun p => p.ctx == f.ctx && p.seq < f.seq)
  let mine := l.pend.filter (fun p => p.ctx == f.ctx && p.seq == f.seq)
  let rows := othersPending lay k f.ctx f.seq s ++ tilesToCome lay k f x.instr s
  let timed := (s.reqs.filter (fun q => q.eff == x.eff && q.cell == k)).filterMap (fun q => match q.kind with
    | .load b w (some d) _ => some (Loc.bank k b w, d)
    | _ => none)
  let reads := readLocs r s
  let later := haloReads r s
  let after := fun (d : Nat) (e : Option Nat) => match e with | some n => decide (d < n) | none => true
  let early := older.any (fun p => reads.contains p.loc.whole || later.any (fun e => e.1 == p.loc && l.step + e.2 ≤ p.due))
    || rows.any (fun e => reads.contains e.1 || later.any (fun y => y.1 == e.1 && after (l.step + y.2 - 1) e.2))
  let overtakes := mine.any (fun q =>
      older.any (fun p => q.due < p.due && p.loc.whole == q.loc.whole && p.shares q)
        || rows.any (fun e => e.1 == q.loc.whole && after q.due e.2))
    || timed.any (fun d => older.any (fun p => p.loc == d.1 && d.2 < p.due) || rows.any (fun e => e.1 == d.1 && after d.2 e.2))
  orElse (failIf early (r.trap .latcheck 2)) (fun _ => failIf overtakes (r.trap .latcheck 3))

/-- Early reads and overtaking writes of the slots a cell executes at this step (R353); `fresh` picks the bundle that has
just issued. -/
def debugCells (lay : Nat) (fresh : Bool) (s : State) : State :=
  let l := s.layerAt lay
  l.flight.foldl (fun s f =>
    if f.lm ≠ 2 ∨ decide (f.t = l.step) ≠ fresh then s
    else (upto 64).foldl (fun s k =>
      if f.t + skew k = l.step ∧ cellOn f.cmask k then
        f.slots.foldl (fun s x => match debugSlot lay k f x s with
          | some t => takeTrap lay f.ctx t s
          | none => s) s
      else s) s) s

/-! ### Returned values -/

/-- Lanes of a register that results of bundles wrote at the step to come: they are kept (R146, R295). -/
def landedLanes (lay c : Nat) (x : Loc) (s : State) : Lanes :=
  (s.layerAt lay).landed.foldl (fun m e => if e.1 = c ∧ e.2.1 = x then m ||| e.2.2 else m) 0

/-- Returned values of an atomic, and a CLD's capability, that arrived in an earlier cycle (R108, R184, R295). -/
def landReturns (lay : Nat) (s : State) : State :=
  let c := s.cycleOf lay
  let rs := s.reqs.filter (fun q => q.ctxKey / 8 == lay && q.ctxKey < 128 && (match q.kind, q.state with
    | .atomic _ _ _ true _ _ _, .arrived a => decide (a < c)
    | .cld _, .arrived a => decide (a < c)
    | _, _ => false))
  rs.foldl (fun s q =>
    let s : State := { s with reqs := s.reqs.filter (fun p => p.id != q.id) }
    if q.dropped then s
    else match q.kind with
      | .atomic _ _ _ _ vd _ done =>
        let m := lanesOf (fun l => if done.any (fun e => e.1 == l) then 0xFFFFFFFF else 0)
          &&& ~~~ landedLanes lay (q.ctxKey % 8) (.v q.cell vd) s
        let v := lanesOf (fun l => match done.find? (fun e => e.1 == l) with | some e => e.2 | none => 0)
        let s := s.updCell (cellKey lay q.cell) (fun e => { e with v := mapSet 0 e.v vd (merge (mapGet 0 e.v vd) m v) })
        if q.pois then setPois lay q.cell (q.ctxKey % 8) s else s
      | .cld g =>
        let v : Cap := q.data.setWidth 128
        let s := if landedLanes lay (q.ctxKey % 8) (.g g) s = 0 then s.updCtx q.ctxKey (fun c => { c with g := mapSet 0 c.g g v })
          else s
        let s := if q.pois then setSpois q.ctxKey s else s
        match q.ctr with
        | some n => ctrDone q.ctxKey n q.region s
        | none => s
      | _ => s) s

/-! ### The cells' part of a step -/

/-- Face exchanges under way send the row of this step; `fresh` picks those that cell (0,0) has just begun (R249). -/
def sendHalos (lay : Nat) (fresh : Bool) (s : State) : State :=
  (liveCells lay s).foldl (fun s k =>
    (s.cellAt (cellKey lay k)).halos.foldl (fun s h =>
      if fresh == (decide (k = 0) && decide (h.e = (s.layerAt lay).step)) then haloSend lay k h s else s) s) s

/-! ### Completion counters (R284, R295) -/

/-- The slot's rows were requested for every cell during a freeze (R361; notes/assumptions/39.md). -/
def sentAhead (l : Layer) (eff : Nat) : Bool := l.flight.any (fun f => f.slots.any (fun x => x.eff == eff && x.ahead))

/-- Cell (7,7), the last, has executed the slot in a step that a freeze holds back (R45; notes/assumptions/36.md). -/
def capturedEarly (l : Layer) (eff : Nat) : Bool :=
  l.flight.any (fun f => l.seal77.contains f.seq && f.slots.any (fun x => x.eff == eff && isOutward x.instr))

/-- The step before which a row of an untimed copy does not land: that at which its cell executes the slot, when the row was sent
ahead (notes/assumptions/39.md). -/
def Req.notBefore (q : Req) (l : Layer) : Nat :=
  match l.flight.find? (fun f => f.ctx == q.ctxKey % 8 && f.slots.any (fun z => z.eff == q.eff && z.ahead)) with
  | some f => f.t + skew q.cell
  | none => 0

/-- The base die holds the row's data, for which its cell's buffer had no entry (R107). -/
def Req.refused (q : Req) : Bool :=
  q.ready == 0 && (match q.kind, q.state with
    | .load .., .performed | .load .., .arrived _ => true
    | _, _ => false)

/-- An ALD's rows have landed, or an atomic's values have (R284, R295); rows sent ahead of a cell's execution have when they
are in its buffer, or at the base die when that is full (notes/assumptions/39.md). -/
def outDone (lay c : Nat) (s : State) (o : Out) : Bool :=
  let x := s.ctxAt (ctxKey lay c)
  let l := s.layerAt lay
  (decide (o.after < l.step) || (decide (o.after = l.step) && (l.early || capturedEarly l o.eff)) || sentAhead l o.eff)
    && !x.regions.any (fun g => g.effects.any (fun e => e.1 == o.eff))
    && !s.reqs.any (fun q => q.eff == o.eff && !q.dropped && !(q.refused && decide (l.step ≤ q.notBefore l)))
    && !(liveCells lay s).any (fun k => (s.cellAt (cellKey lay k)).landing.any (fun d => d.ctx == c && d.seq == o.eff
      && !(l.step ≤ d.from_ && d.arrived < s.cycleOf lay)))

/-- Counters whose work has landed fall. -/
def settleOuts (lay : Nat) (s : State) : State :=
  (upto 5).foldl (fun s c =>
    let x := s.ctxAt (ctxKey lay c)
    x.outs.foldl (fun s o =>
      if outDone lay c s o then
        ctrDone (ctxKey lay c) o.n o.region
          (s.updCtx (ctxKey lay c) (fun x => { x with outs := x.outs.filter (fun p => p != o) }))
      else s) s) s

/-- The commits that are due at a layer's step in the contexts named, and the counters that fall with them (R45, R284, R295). -/
def commitAll (lay : Nat) (cs : List Nat) (s : State) : State :=
  settleLayer lay (settleOuts lay (cs.foldl (fun s c => commitOldest lay c s) s))

/-- What the cells do at the present step before a bundle issues at it, and the commits that are due (R30, R45): a bundle
that issues at a commit step sees the commit (R122, R361; DEDUCED, notes/assumptions/36.md). -/
def stepFront (lay : Nat) (s : State) : State :=
  let s := landReturns lay s
  let s := runCells lay s
  let s := (liveCells lay s).foldl (fun s k => runRoutine k s) s
  let s := sendHalos lay false s
  let s := debugCells lay false s
  commitAll lay (upto 5) (s.updLayer lay (fun l => { l with early := true }))

/-- The same, once in a step. -/
def stepFrontOnce (lay : Nat) (s : State) : State :=
  let s : State := { s with lay := lay }
  if (s.layerAt lay).early then s else stepFront lay s

/-- A region of the layer commits at this step unless a trap prevents it. -/
def commitDue (lay : Nat) (s : State) : Bool :=
  (upto 5).any (fun c => match (s.ctxAt (ctxKey lay c)).regions with
    | r :: _ => (match r.sealedAt with | some t => decide (t + 28 ≤ (s.layerAt lay).step) | none => false)
    | [] => false)

/-- The contexts whose oldest region the step's work commits. -/
def committing (lay : Nat) (old new : State) : List Nat :=
  (upto 5).filter (fun c =>
    let head := fun (s : State) => (s.ctxAt (ctxKey lay c)).regions.head?.map (fun r => r.id)
    (head old).isSome && head old != head new)

/-- The commits due at a step whose other work a freeze holds back: cell (7,7) executes the outward slots of the sealing bundles,
and their regions commit, unless the step's work would raise a trap that prevents it; so the wait is evaluated after them (R45,
R361). Where that work raises a trap in the task that waits, all of it is done, since the trap ends the freeze.
DEDUCED: notes/assumptions/36.md. -/
def earlyCommit (lay : Nat) (s : State) : State :=
  let s : State := { s with lay := lay }
  let l := s.layerAt lay
  if l.early || !commitDue lay s then s
  else
    let full := stepFront lay s
    if s.me.state == .resident && full.me.state != .resident then full
    else
      let cs := committing lay s full
      let mine := l.flight.filter (fun f => decide (f.t + 28 = l.step) && cs.contains f.ctx && !l.seal77.contains f.seq
        && (s.ctxAt (ctxKey lay f.ctx)).regions.any (fun r => r.id == f.region && r.sealedAt == some f.t))
      let s := mine.foldl (fun s f =>
        if cellOn f.cmask 63 then f.slots.foldl (fun s x =>
          if isOutward x.instr then cellExec x.instr { f := f, cell := 63, slot := x } s else s) s
        else s) s
      commitAll lay cs (s.updLayer lay (fun l => { l with seal77 := l.seal77 ++ mine.map (fun f => f.seq) }))

end Sys2Proof.Machine
end

