-- ==== Sys2Proof/Machine/StepAdvance.lean ====
section
/-!
DEFINITION. The end of a layer's step (R34): the phases in which results land (R105, R114, R115), the untimed landings
(R106, R108), the discards (R51), and the counters.
-/

namespace Sys2Proof.Machine

/-! ### Landings -/

/-- A landing entry's bytes reach the bank (R106); poison sets the summary bit at that step (R290). -/
def landEntry (lay k : Nat) (d : Landing) (s : State) : State :=
  let s := s.updCell (cellKey lay k) (fun e =>
    let key := 256 * d.bank + d.row
    let m := rowOfBytes (fun b => if d.be.getLsbD b then 0xFF else 0)
    { e with banks := mapSet 0 e.banks key ((mapGet 0 e.banks key &&& ~~~ m) ||| (d.data &&& m)),
             landing := e.landing.filter (fun x => x != d) })
  if d.pois then setPois lay k d.ctx s else s

/-- The landing entries of a cell that `due` picks, in program order of their copies (R105). -/
def landEntries (lay k : Nat) (due : Landing → Bool) (s : State) : State :=
  let ds := ((s.cellAt (cellKey lay k)).landing.filter due).mergeSort (fun a b => a.seq ≤ b.seq)
  ds.foldl (fun s d => landEntry lay k d s) s

/-- Rows sent ahead that the base die holds land with their cell's step as well: they reach its buffer now (R107; DEDUCED,
notes/assumptions/39.md). -/
def takeHeld (lay : Nat) (s : State) : State :=
  let l := s.layerAt lay
  let qs := s.reqs.filter (fun q => q.refused && q.lay == lay && q.ctxKey < 128 && !q.dropped && q.notBefore l != 0
    && decide (q.notBefore l ≤ l.step))
  qs.foldl (fun s q =>
    let s : State := { s with reqs := s.reqs.filter (fun p => p.id != q.id) }
    match q.kind with
    | .load b r due _ => s.updCell (cellKey lay q.cell) (fun e => { e with landing := e.landing ++ [
        { ctx := q.ctxKey % 8, region := q.region, req := q.id, bank := b, row := r, be := BitVec.allOnes 128, pois := q.pois,
          due := due, from_ := q.notBefore l, seq := q.eff, data := q.data, arrived := 0 }] })
    | _ => s) s

/-- Phase 2: the entries whose step has come, and untimed ones that arrived in an earlier cycle. -/
def phaseTwo (lay : Nat) (s : State) : State :=
  let s := takeHeld lay s
  let now := (s.layerAt lay).step
  let c := s.cycleOf lay
  (liveCells lay s).foldl (fun s k =>
    if (s.cellAt (cellKey lay k)).landing.isEmpty then s
    else landEntries lay k (fun d => match d.due with
      | some t => decide (t ≤ now)
      | none => decide (d.arrived < c) && decide (d.from_ ≤ now)) s) s

/-- TIMED_LANDING: the entries of one bank row (`row` = 256·bank + row) whose declared step this is are written
(R105, R106, R285). -/
def execTimedLanding (lay cell row : Nat) (s : State) : Res :=
  .next (landEntries lay cell (fun d => 256 * d.bank + d.row == row && (match d.due with
    | some t => decide (t ≤ (s.layerAt lay).step)
    | none => false)) s)

/-- The trap of an MLDW result that lands in a plane a running call names (R265, R267). -/
def planeTrap (lay : Nat) (p : Pend) (s : State) : State :=
  let x := s.ctxAt (ctxKey lay p.ctx)
  let k := match p.loc with | .plane k _ _ => k | .scale k _ _ => k | .pfmt k _ => k | _ => 0
  let q := (s.cellAt (cellKey lay k)).routine
  let at_ : DWord := match q with | some q => q.baddr | none => 0
  let late : DWord := match q with | some q => BitVec.ofNat 64 ((s.layerAt lay).step - q.e) | none => 0
  takeTrap lay p.ctx
    { cause := .sched, sub := 5, code := 0, cell := some k, dec := false, slot := (q.map (fun q => q.slot)).getD 0, baddr := at_,
      region := faultRegion x p.region, aux0 := late, aux1 := 0 } s

/-- A result that lands in phase 3 (R105). -/
def landThree (lay : Nat) (p : Pend) (s : State) : State :=
  if planeClash lay p s then planeTrap lay p s
  else match p.loc with
  | .bank k b w => s.updCell (cellKey lay k) (fun e =>
      let old : Row := mapGet 0 e.banks (256 * b + w)
      { e with banks := mapSet 0 e.banks (256 * b + w) ((merge (old.setWidth 32768) p.mask p.val).setWidth 1024) })
  | .acc k t => s.updCell (cellKey lay k) (fun e => { e with acc := mapSet 0 e.acc t (merge (mapGet 0 e.acc t) p.mask p.val) })
  | .plane k n m => s.updCell (cellKey lay k) (fun e =>
      { e with planes := mapSet 0 e.planes (48 * n + m) (merge (mapGet 0 e.planes (48 * n + m)) p.mask p.val)
               badRows := e.badRows.filter (fun b => b / 64 != 48 * n + m) })
  | .scale k n h => s.updCell (cellKey lay k) (fun e =>
      { e with scales := mapSet 0 e.scales (2 * n + h) (merge (mapGet 0 e.scales (2 * n + h)) p.mask p.val) })
  | .pfmt k n => s.updCell (cellKey lay k) (fun e => { e with pfmt := mapSet 0 e.pfmt n (p.val.setWidth 3) })
  | .haloRow k dir i => landHalo lay k dir i p s
  | .accum k t w => s.updCell (cellKey lay k) (fun e =>
      let old := mapGet 0 e.acc t
      let row := accumRow (lanesRow old w) (p.val.setWidth 1024)
      { e with acc := mapSet 0 e.acc t (merge old (rowLanes (BitVec.allOnes 1024) w) (rowLanes row w)) })
  | .dmem a n => s.updLayer lay (writeDmem a (leBytes n (p.val.toNat % 2 ^ (8 * n))))
  | _ => s

/-- Landings of one step in order: group values last; by bundle, its halo rows first. -/
def landBefore (a b : Pend) : Bool :=
  if (phaseOf a.loc == 2) != (phaseOf b.loc == 2) then phaseOf b.loc == 2
  else if a.seq != b.seq then a.seq < b.seq
  else phaseOf a.loc ≤ phaseOf b.loc

/-- Phase 3: the bank, accumulator and plane results of this step (R105, R115). -/
def phaseThree (lay : Nat) (s : State) : State :=
  let l := s.layerAt lay
  let due := fun (p : Pend) => decide (p.due ≤ l.step) && phaseOf p.loc != 3
  let ps := (l.pend.filter due).mergeSort landBefore
  let s := s.updLayer lay (fun l => { l with pend := l.pend.filter (fun p => !due p) })
  ps.foldl (fun s p => landThree lay p s) s

/-! ### While the domain is frozen -/

/-- Untimed data keeps landing while the domain is frozen: in the cycle after its arrival, and its counter falls in
the cycle after that (R108). -/
def frozenLandings (lay : Nat) (s : State) : State :=
  let c := s.cycleOf lay
  let s := settleOuts lay s
  let s := landReturns lay s
  let now := (s.layerAt lay).step
  (liveCells lay s).foldl (fun s k =>
    landEntries lay k (fun d => d.due.isNone && decide (d.arrived < c) && decide (d.from_ < now)) s) s

/-! ### The step -/

/-- What is over leaves: bundles through the mesh, routines whose window has ended, face exchanges once the last row of the largest
sender has come (R249). -/
def clearDone (lay : Nat) (s : State) : State :=
  let now := (s.layerAt lay).step
  let s := s.updLayer lay (fun l => { l with flight := l.flight.filter (fun f => now ≤ f.t + 28) })
  (liveCells lay s).foldl (fun s k =>
    let e := s.cellAt (cellKey lay k)
    if e.routine.isNone && e.halos.isEmpty then s
    else s.updCell (cellKey lay k) (fun e => { e with
      routine := match e.routine with
        | some q => if q.e + q.bc ≤ now then none else some q
        | none => none
      halos := e.halos.filter (fun h => now ≤ h.e + 70) })) s

/-- The step ends: what cell (0,0) began at it, the results that land, the discards; the counter advances (R34, R51,
R105). -/
def stepBack (lay : Nat) (s : State) : State :=
  let s := debugCells lay true (sendHalos lay true (runFirstWord lay (rowinFresh lay s)))
  let s := phaseTwo lay s
  let s := phaseThree lay s
  let s := (upto 5).foldl (fun s c => if mustDiscard (s.ctxAt (ctxKey lay c)) then endDiscard lay c s else s) s
  let s := settleOuts lay s
  let s := s.updLayer lay (fun l => { l with step := l.step + 1, early := false, seal77 := [], landed := [], thaw := none })
  clearDone lay (landRegs lay s)

/-! ### Rows sent ahead (R361; notes/assumptions/39.md) -/

/-- An ALD of the context that adds to counter `n`. -/
def isAldOn (n : BitVec 5) (x : FSlot) : Bool :=
  match x.instr with
  | .ald _ _ _ _ m => m == n
  | _ => false

/-- What the layer would do in its next `n` steps with no bundle issued: the requests that its cells have still to make. -/
def dryRun (lay : Nat) : Nat → State → State
  | 0, s => s
  | n + 1, s => dryRun lay n (stepBack lay (stepFrontOnce lay s))

/-- The rows of `c`'s ALDs on counter `n` that far cells send in `ahead`, the layer run on to the end of its skew, put at the
ports now; each of those slots then sends none (notes/assumptions/39.md). -/
def sendRows (lay c : Nat) (n : BitVec 5) (ahead s : State) : State :=
  let l := s.layerAt lay
  let mine := fun (f : Flight) (x : FSlot) => f.ctx == c && isAldOn n x && !x.ahead
  if !l.flight.any (fun f => f.slots.any (mine f)) then s
  else
    let effs := (l.flight.flatMap (fun f => (f.slots.filter (mine f)).map (fun x => x.eff)))
    let new := ahead.reqs.filter (fun q => s.nextId ≤ q.id && effs.contains q.eff)
    let s := new.foldl (fun s q => pushReq { q with id := s.nextId, state := .port, ready := s.cycleOf lay } s) s
    s.updLayer lay (fun l => { l with flight := l.flight.map (fun f =>
      { f with slots := f.slots.map (fun x => if mine f x then { x with ahead := true } else x) }) })

/-- While the domain waits on a counter, the rows of the ALDs that add to it are requested for the cells that those slots have
not reached, at the addresses they will have there. DEDUCED: notes/assumptions/39.md. -/
def sendAhead (lay c : Nat) (n : BitVec 5) (s : State) : State := sendRows lay c n (dryRun lay 28 s) s

/-- STEP_ADVANCE (R34, R105). -/
def execStepAdvance (lay : Nat) (s : State) : Res :=
  let l := s.layerAt lay
  if l.power = .run ∧ l.frozen.isNone then .next (stepBack lay (stepFrontOnce lay s)) else .next s

end Sys2Proof.Machine
end

