-- ==== Sys2Proof/Machine/Ports.lean ====
section
/-!
DEFINITION. Requests at the memory ports: their translation (R439, R442), faults under each policy (R131, R290, R296,
R444, R445), the place each takes in its line's order (R125, R127, R128, R130), and the return of data (R106 to R108, R184,
R285, R295).
-/

namespace Sys2Proof.Machine

def State.findReq (s : State) (id : Nat) : Option Req := s.reqs.find? (fun q => q.id == id)
def setReq (q : Req) (s : State) : State := { s with reqs := s.reqs.map (fun p => if p.id = q.id then q else p) }
def dropReq (id : Nat) (s : State) : State := { s with reqs := s.reqs.filter (fun p => p.id != id) }

/-- The byte offset the request stands at: an atomic's present lane (R294). -/
def Req.addr (q : Req) : Nat :=
  match q.kind with
  | .atomic _ _ _ _ _ ((_, a, _, _) :: _) _ => a
  | _ => q.off

def Req.writes (q : Req) : Bool :=
  match q.kind with
  | .store _ | .atomic .. | .cst _ | .recordWrite => true
  | _ => false

/-- Bytes of a request's access. -/
def Req.len (q : Req) : Nat :=
  match q.kind with
  | .atomic .. | .fetch => 4
  | .cld _ | .cst _ => 16
  | .recordRead | .recordWrite => 1
  | _ => 128

/-- The form a request serves, none for a fetch (R421). -/
def Req.form (q : Req) : Option (DWord × Nat) := if q.kind = .fetch then none else some (q.baddr, q.slot)

/-- Lines the request has still to reach. -/
def Req.touches (q : Req) (line : Nat) : Bool :=
  match q.kind with
  | .atomic _ _ _ _ _ lanes _ => lanes.any (fun e => e.2.1 / 128 == line)
  | _ => q.off / 128 == line

/-- The physical line at which a translated request stands. -/
def Req.line (q : Req) : Option Nat :=
  match q.state with
  | .ready l => if l.size = 0 then none else some (l.pa q.addr / 128)
  | _ => none

/-- `r` stands at the line `q` stands at: by its name in the object, or, once both are translated, by its physical address. -/
def sameLine (q r : Req) : Bool :=
  (r.obj == q.obj && r.touches (q.addr / 128)) || (q.line.isSome && q.line == r.line)

/-- `r` comes before `q` at the line `q` stands at: one agent's accesses to a line perform in the order in which it issued
or released them, a released store that is held back among them. In one cycle a store released comes before a load issued, but
for a load of the store's own region, which returns the old value (R125, R128). -/
def precedes (q r : Req) : Bool :=
  r.id != q.id && r.ctxKey == q.ctxKey && r.cell == q.cell && !r.kind.page
    && !r.dropped && !r.state.done && (r.state != .held || r.committed)
    && (r.ready < q.ready || (r.ready == q.ready &&
        (if r.writes != q.writes then (if r.region == q.region then q.writes else r.writes)
         else if r.eff != q.eff then r.eff < q.eff else r.id < q.id)))
    && sameLine q r

/-- A fence of the task with the acquire bit, not yet ended, holds a later copy at its port; with both bits, also until what a
release there waits for has performed (R127). A later CLD is no copy and is not held. DESIGN CHOICE: notes/assumptions/49.md. -/
def fenceHolds (s : State) (q : Req) : Bool :=
  let isCopy := match q.kind with | .load .. | .store _ => true | _ => false
  let holds := fun (id : Nat) (e : Effect) => match e with
    | .fence scope acq rel => acq && 2 ≤ scope && id < q.eff
        && (!acquireEnded s q.ctxKey id || (rel && stillOrdered s q.ctxKey id))
    | _ => false
  isCopy && q.ctxKey < 128 && ((pendingOf s q.ctxKey).any (fun e => holds e.1 e.2)
    || s.released.any (fun e => e.ctxKey == q.ctxKey && holds e.id e.effect))

/-- Whether a translated or answered request may perform now. -/
def mayPerform (s : State) (q : Req) : Bool := !fenceHolds s q && !s.reqs.any (precedes q)

/-- A request that its copy port holds back: any copy behind a fence, and a load or the read of an atomic behind a released store of
its line. It is not translated before that (R127, R128, R288). -/
def portHolds (s : State) (q : Req) : Bool :=
  fenceHolds s q || (match q.kind with
    | .load .. | .cld _ | .atomic .. => s.reqs.any (precedes q)
    | _ => false)

/-! ### Telemetry (R484) -/

def telCorrected (code phys : Nat) : Nat := 16 * code + phys
def telUncorrectable (code phys : Nat) : Nat := 4096 + 16 * code + phys
def telNetwork (phys cell : Nat) : Nat := 2 * 4096 + 64 * phys + cell
def telColumn (col : Nat) : Nat := 3 * 4096 + col
def telHbmCorrected (target : Nat) : Nat := 4 * 4096 + target
def telHbmUncorrectable (target : Nat) : Nat := 5 * 4096 + target

/-! ### Translation -/

/-- The tower whose base die a request is issued from: that of its layer (R442). -/
def Req.tower (q : Req) : Nat := q.lay / 8

/-- The first-level cache of the issuing cell; the sequencer's requests go to the home port. -/
def Req.firstLevel (q : Req) : Option Nat :=
  if q.cell < 64 ∧ q.ctxKey < 128 then some (cellKey q.lay q.cell) else none

/-- The memory port that serves the request's misses, and the caches it asks in turn (R442). -/
def Req.home (q : Req) : Nat := homePort q.tower q.obj q.addr
def Req.homes (q : Req) : List Nat := q.firstLevel.toList ++ [q.home]

/-- The request's translation. -/
def Req.walk (q : Req) (s : State) : Walk := translate s q.tower q.homes q.obj q.addr q.len q.asid q.writes

/-- Fills the caches a request missed with a leaf of a present page (R442). -/
def fillCaches (q : Req) (l : Leaf) (s : State) : State :=
  let fill2 := tlbFill q.home 4096 q.obj q.addr l s
  match q.firstLevel with
  | some h => if (tlbFind s h q.obj q.addr).isSome then s else tlbFill h 96 q.obj q.addr l fill2
  | none => fill2

/-- What one lane of an atomic leaves: the value returned, and the next lane at the port (R294). -/
def laneDone (q : Req) (c : Nat) (old : Word) (skip : Bool) (s : State) : State :=
  match q.kind with
  | .atomic op ty cas returns vd ((l, _, _, _) :: rest) done =>
    let done := if skip then done else done ++ [(l, old)]
    let kind := ReqKind.atomic op ty cas (returns && !skip) vd rest done
    if rest.isEmpty then
      if returns && !skip then setReq { q with kind := kind, state := .performed, ready := c } s
      else if q.srid.isSome then setReq { q with kind := kind, state := .performed, ready := c } s
      else dropReq q.id s
    else setReq { q with kind := kind, state := .port } s
  | _ => s

/-- A release that waits for a store or atomic that was killed is performed as a proxy arrival, with the poison bit; a task's
completion update is such a release (R126, R131, R209). DEDUCED: notes/assumptions/47.md. -/
def poisonBehind (q : Req) (s : State) : State :=
  let store : Effect := match q.kind with | .store nt => .copyStore nt none | _ => .cst
  let ds := drainsOf s q.ctxKey
  { s with released := s.released.map (fun e =>
      if e.ctxKey = q.ctxKey ∧ ordersBefore ds q.eff e.id store then
        { e with effect := match e.effect with
            | .flag set homes v scope => .flag set homes (v ||| BitVec.ofNat 64 (2 ^ 63)) scope
            | .complete rec hostc home v => .complete rec hostc home (v ||| BitVec.ofNat 64 (2 ^ 63))
            | x => x }
      else e) }

/-- A kill at the port (R131, R184, R290, R296, R446): the request performs nothing; an atomic's other lanes do. -/
def killReq (q : Req) (s : State) : State :=
  let s := pgKill q.ctxKey q.addr q.obj q.form (if q.writes then poisonBehind q s else s)
  match q.kind with
  | .atomic .. =>
    match s.findReq q.id with
    | some q' => laneDone q' (s.cycleOf q.lay) 0 true s
    | none => s
  | _ => if q.srid.isSome then setReq { q with state := .performed } s else dropReq q.id s

/-- A request that has met a fault: park, zero, poison or kill; a page asked for keeps the answer for the access it serves. -/
def portFault (q : Req) (pol : Nat) (np : Bool) (base size : Nat) (s : State) : State :=
  match pol with
  | 0 =>
    let r := openFault q.lay q.home (keyCtx q.ctxKey) q.obj q.addr q.writes np base size q.asid s
    setReq { q with state := .parked r.1 } r.2
  | p =>
    if q.kind.page then setReq { q with state := .answer p, ready := s.cycleOf q.lay } s
    else if p = 3 ∨ q.kind = .fetch then killReq q s
    else setReq { q with state := .answer p } s

/-- A leaf applied to the request (R439, R440, R450). -/
def portLeaf (q : Req) (l : Leaf) (s : State) : State :=
  if leafFault l q.writes then portFault q l.pol false (q.addr / l.size * l.size) l.size s
  else match q.kind with
    | .fetch => dropReq q.id s
    | .recordRead | .recordWrite => setReq { q with state := .ready l, ready := s.cycleOf q.lay } s
    | _ =>
      if isRetired s (l.pa q.addr) then noteRetired (l.pa q.addr) (setReq { q with state := .answer 2 } s)
      else setReq { q with state := .ready l } s

/-- A leaf of no page: the target is another package or a host window. -/
def Leaf.remote : Leaf := { base := 0, size := 0, w := true, cow := false, tag := false, x := false, pol := 0 }

/-- A request that leaves the package, or that a host window takes: the target's answer is free (notes/assumptions/5.md), but
for a window of this package's adapter, whose table has let it pass (R448). -/
def portRemote (q : Req) (s : State) : State :=
  let n := remoteAnswer s q.obj
  let s := { s with choice := s.choice + 1 }
  match n with
  | 1 => setReq { q with state := .answer 1 } s
  | 2 => setReq { q with state := .answer 2 } s
  | 3 => killReq q s
  | _ => setReq { q with state := .ready .remote } s

/-- The host's walk in progress for the page of a request at its port, with whether a TINV has come since (R442, R443). -/
def hostWalkFor (s : State) (q : Req) : Option (Nat × Bool) :=
  (s.towerAt q.tower).host.findSome? (fun h => match h with
    | .walk r o off _ stale => if o == q.obj && homePort q.tower o off == q.home && off / 65536 == q.addr / 65536 then some (r, stale) else none
    | _ => none)

/-- A walk the host makes for the port (R416). -/
def hostWalkPending (s : State) (id : Nat) : Bool :=
  (upto 2).any (fun t => (s.towerAt t).host.any (fun h => match h with | .walk r .. => r == id | _ => false))

/-- A miss that the host is to walk: it joins the walk in progress for its page, or asks for one (R416, R442). -/
def askWalk (q : Req) (s : State) : State :=
  match hostWalkFor s q with
  | some (r, stale) =>
    let s := setReq { q with state := .walking r } s
    if stale then { s with tinvWait := s.tinvWait ++ [q.id] } else s
  | none => setReq { q with state := .walking q.id }
      (s.updTower q.tower (fun t => { t with host := t.host ++ [.walk q.id q.obj q.addr q.asid false] }))

/-- The request's translation: its leaf, its fault, its way out of the package, or a walk of the host's. -/
def portWalk (q : Req) (s : State) : Res :=
  match q.walk s with
  | .leaf l => .next (portLeaf q l (fillCaches q l s))
  | .fault p np b z => .next (portFault q p np b z s)
  | .nowhere pa => .fault (.noSuchAddress pa)
  | .away => .next (portRemote q s)
  | .host => .next (askWalk q s)

/-- TRANSLATION_WALK: a request that nothing holds back finds its leaf at its port, in the caches or by a walk, or its fault (R127,
R128, R439, R442, R444). -/
def execTranslationWalk (req : Nat) (s : State) : Res :=
  match s.findReq req with
  | some q => if q.state = .port ∧ !portHolds s q then portWalk q s else .next s
  | none => .next s

/-- A leaf entry from the host for a request that waits on the walk: word `entry` of level `level`. What a walk finds that a TINV
overtook is not cached (R416, R443). -/
def hostEntry (stale : Bool) (entry : DWord) (level : Nat) (q : Req) (s : State) : State :=
  let size := levelSize level
  let base := q.addr / size * size
  if pteBad entry level || !(entry.getLsbD 0 && entry.getLsbD 1) then
    portFault q (if pteBad entry level then 3 else fld entry 2 2) true base size s
  else
    let l := pteLeaf entry level
    portLeaf q l (if stale then s else fillCaches q l s)

/-- The host's walk that request `req` asked for: whether a TINV came since. -/
def hostWalkStale (s : State) (req : Nat) : Option Bool :=
  (upto 2).findSome? (fun t => (s.towerAt t).host.findSome? (fun h => match h with
    | .walk r _ _ _ stale => if r == req then some stale else none
    | _ => none))

/-- The walks of the host's in progress at the port of walk `req` that miss a byte of the page of a reply to it: every miss of one page at
one port has one result (R442). -/
def walksOfPage (s : State) (req level : Nat) : List Nat :=
  let size := levelSize level
  (upto 2).flatMap (fun t =>
    let walks := (s.towerAt t).host.filterMap (fun h => match h with
      | .walk r o off _ _ => some (r, o, off)
      | _ => none)
    match walks.find? (fun w => w.1 == req) with
    | some (_, o, off) => (walks.filter (fun w => w.2.1 == o && w.2.2 / size == off / size
        && homePort t o w.2.2 == homePort t o off)).map (fun w => w.1)
    | none => [])

/-- HOST_WALK_REPLY: every request that waits on a walk of the page has its result (R416, R442). -/
def execHostWalkReply (req : Nat) (entry : DWord) (level : Nat) (s : State) : Res :=
  match hostWalkStale s req with
  | none => .next s
  | some _ =>
    let done := walksOfPage s req level
    let stale := done.any (fun r => hostWalkStale s r == some true)
    let s := (upto 2).foldl (fun s t => s.updTower t (fun t => { t with host := t.host.filter (fun h => match h with
      | .walk r .. => !done.contains r
      | _ => true) })) s
    .next ((s.reqs.filter (fun q => match q.state with | .walking r => done.contains r | _ => false)).foldl
      (fun s q => hostEntry stale entry level q s) s)

/-- The key of the pages that no task asks for. -/
def pageKey : Nat := 2 ^ 17

/-- A request of no task that asks a port for a page: for the ingress, the scheduler and the record writer, until the page can be
used (R416, R444). -/
def askPage (lay : Nat) (o : BitVec 24) (off : Nat) (asid : BitVec 12) (write : Bool) (s : State) : State :=
  let kind : ReqKind := if write then .recordWrite else .recordRead
  if s.reqs.any (fun q => q.kind == kind && q.ctxKey == pageKey && q.obj == o && q.asid == asid && q.off / 65536 == off / 65536) then s
  else pushReq { id := s.nextId, kind := kind, state := .port, ctxKey := pageKey, cell := 64, region := 0, seq := s.nextId,
                 eff := s.nextId, lay := lay, obj := o, off := off, asid := asid, ctr := none, data := 0, pois := false,
                 committed := true, ready := s.cycleOf lay, dropped := false, srid := none } s

/-- The answered pages of an object are used up. -/
def dropAsked (o : BitVec 24) (asid : BitVec 12) (s : State) : State :=
  { s with reqs := s.reqs.filter (fun q => !(q.ctxKey == pageKey && q.answered && q.obj == o && q.asid == asid)) }

/-! ### Fault service (R445) -/

/-- Closes a record: every request of it, and those that wait for room, walk again. -/
def closeFault (lay fid : Nat) (s : State) : State :=
  if (s.layerAt lay).faults.any (fun f => f.fid == fid) then
    let s := s.updLayer lay (fun l => { l with faults := l.faults.filter (fun f => f.fid != fid) })
    { s with reqs := s.reqs.map (fun q =>
        if q.lay = lay ∧ (q.state = .parked (some fid) ∨ q.state = .parked none) then { q with state := .port } else q) }
  else s

/-- FSERV_WRITE (R445). -/
def execFservWrite (lay : Nat) (fid : BitVec 16) (s : State) : Res := .next (closeFault lay fid.toNat s)
/-- HOST_FAULT_SERVICED (R416). -/
def execHostFaultServiced (lay : Nat) (fid : BitVec 16) (s : State) : Res :=
  let s := s.updTower (lay / 8) (fun t => { t with host := t.host.filter (fun h => match h with
    | .fault l f => !(l == lay && f.fid == fid.toNat)
    | _ => true) })
  .next (closeFault lay fid.toNat s)

/-! ### TINV (R443) -/

/-- An invalidation: the matching entries go, what the host's walks in progress find will not be cached, and BUSY stays until the
requests that used an entry or wait on such a walk have performed. -/
def invalidate (hit : BitVec 24 → Nat → Leaf → Bool) (s : State) : State :=
  let used := s.reqs.filter (fun q => match q.state with
    | .ready l => l.size != 0 && hit q.obj (q.addr / l.size * l.size) l
    | .walking _ => true
    | _ => false)
  let s := (upto 2).foldl (fun s t => s.updTower t (fun t => { t with host := t.host.map (fun h => match h with
    | .walk r o off asid _ => .walk r o off asid true
    | h => h) })) s
  { s with tlb := s.tlb.filter (fun e => !hit e.obj e.page e.leaf), tinvBusy := true,
           tinvWait := used.map (fun q => q.id) }

/-- TINV_ALL (R443). -/
def execTinvAll (s : State) : Res := .next (invalidate (fun _ _ _ => true) s)
/-- TINV_OBJECT (R443). -/
def execTinvObject (obj : BitVec 24) (s : State) : Res := .next (invalidate (fun o _ _ => o == obj) s)
/-- TINV_PAGE: every entry whose page contains offset VPN·2^16 (R443). -/
def execTinvPage (obj vpn : BitVec 24) (s : State) : Res :=
  let off := vpn.toNat * 65536
  .next (invalidate (fun o page l => o == obj && page ≤ off && off < page + l.size) s)

/-- Requests TINV waits for that still use the dropped entry. -/
def tinvUses (s : State) (id : Nat) : Bool :=
  match s.findReq id with
  | some q => (match q.state with | .ready _ | .walking _ => true | _ => false)
  | none => false

/-- TINV_COMPLETE: BUSY clears (R443). -/
def execTinvComplete (s : State) : Res :=
  let left := s.tinvWait.filter (tinvUses s)
  .next { s with tinvWait := left, tinvBusy := s.tinvBusy && !left.isEmpty }

/-! ### Performing -/

def rowOfList (b : List Byte) : Row := BitVec.ofNat 1024 (ofLe b)
def rowBytes (r : Row) : List Byte := leBytes 128 r.toNat

/-- What a CLD returns: the capability when its tag is 1 and its check verifies, else null (R184, R435). -/
def loadedCap (s : State) (l : Leaf) (off : Nat) : Cap :=
  let c : Cap := BitVec.ofNat 128 (s.memLe (l.pa off) 16)
  if l.tag && s.tags.contains (l.pa off / 16) && s.capValid c then c else 0

/-- What a CLD from another package returns: a capability that verifies, whose bytes and tag are free, or null. A host window
has no tags (R184, R448; DESIGN CHOICE: notes/assumptions/5.md). -/
def remoteCap (q : Req) (s : State) : Row × State :=
  if isWindow q.obj then (0, s)
  else
    let c : Cap := BitVec.ofNat 128 (ofLe (remoteBytes s 0 16))
    let t := s.choose
    ((if t.1 && s.capValid c then c else 0).setWidth 1024, t.2)

/-- The data of a load under a leaf: from HBM, or free when the target is elsewhere. -/
def loadData (q : Req) (l : Leaf) (s : State) : Row × State :=
  if l.size = 0 then
    (match q.kind with
     | .cld _ => remoteCap q s
     | _ => (rowOfList (remoteBytes s 0 128), { s with choice := s.choice + 1 }))
  else match q.kind with
    | .cld _ => ((loadedCap s l q.off).setWidth 1024, s)
    | _ => (rowOfList (s.memBytes (l.pa q.off) 128), s)

/-- A load's reading at the port; a dropped one's reply is discarded (R292). -/
def performLoad (q : Req) (s : State) : State :=
  let c := s.cycleOf q.lay
  if q.dropped then dropReq q.id s
  else match q.state with
    | .ready l =>
      let d := loadData q l s
      setReq { q with data := d.1, state := .performed, ready := c } d.2
    | .answer p => setReq { q with data := 0, pois := p == 2, state := .performed, ready := c } s
    | _ => s

/-- LOAD_PERFORM (R125, R290). -/
def execLoadPerform (req : Nat) (s : State) : Res :=
  match s.findReq req with
  | some q =>
    match q.kind with
    | .load .. | .cld _ => if mayPerform s q then .next (performLoad q s) else .next s
    | _ => .next s
  | none => .next s

/-- Sets or clears a granule's tag. -/
def setTag (g : Nat) (b : Bool) (s : State) : State :=
  let rest := s.tags.filter (fun x => x != g)
  { s with tags := if b then (g :: rest).mergeSort (fun a b => a ≤ b) else rest }

/-- A performed store leaves; one that belongs to a saved task stays for its record (R427). -/
def storeOver (q : Req) (s : State) : State :=
  if q.srid.isSome then setReq { q with state := .performed } s else dropReq q.id s

/-- Poison that a port reports for a task that is still in its context (R131, R296). -/
def reportPois (q : Req) (s : State) : State :=
  if q.ctxKey < 128 then
    if q.cell < 64 then setPois q.lay q.cell (q.ctxKey % 8) s else setSpois q.ctxKey s
  else s

/-- A store takes its place in its line's order. -/
def performStore (q : Req) (s : State) : State :=
  match q.state with
  | .ready l =>
    if l.size = 0 then storeOver q s
    else match q.kind with
      | .cst c =>
        let s := writeMem (l.pa q.off) (leBytes 16 c.toNat) s
        storeOver q (if l.tag then setTag (l.pa q.off / 16) (!capNull c) s else s)
      | _ => storeOver q (writeMem (l.pa q.off) (rowBytes q.data) s)
  | .answer p => storeOver q (if p == 2 then reportPois q s else s)
  | _ => s

/-- STORE_PERFORM (R125, R131, R183, R435); what its completion ends follows. -/
def execStorePerform (req : Nat) (s : State) : Res :=
  match s.findReq req with
  | some q =>
    match q.kind with
    | .store _ | .cst _ => if mayPerform s q then .next (settleReleased (performStore q s)) else .next s
    | _ => .next s
  | none => .next s

/-- One lane of an atomic at the port (R130, R294, R296). -/
def performLane (q : Req) (s : State) : State :=
  let c := s.cycleOf q.lay
  match q.kind with
  | .atomic op ty cas returns _ ((_, a, v, w) :: _) _ =>
    match q.state with
    | .ready l =>
      if l.size = 0 then
        laneDone q c (BitVec.ofNat 32 (ofLe (remoteBytes s 0 4))) false { s with choice := s.choice + 1 }
      else
        let old : Word := BitVec.ofNat 32 (s.memLe (l.pa a) 4)
        let new := atomicWord op ty cas old v w
        -- a CAS whose comparison fails writes nothing
        laneDone q c old false (if cas && old != v then s else writeMem (l.pa a) (leBytes 4 new.toNat) s)
    | .answer p =>
      let s := if p == 2 && !returns then reportPois q s else s
      laneDone { q with pois := q.pois || p == 2 } c 0 false s
    | _ => s
  | _ => s

/-- ATOMIC_PERFORM (R125, R130, R295). -/
def execAtomicPerform (req : Nat) (s : State) : Res :=
  match s.findReq req with
  | some q => if mayPerform s q then .next (settleReleased (performLane q s)) else .next s
  | none => .next s

/-! ### Replies -/

/-- ATOMIC_REPLY: the cell's last reply arrives; its values land at the next step, or in the next cycle of a freeze
(R108, R295). -/
def execAtomicReply (req : Nat) (s : State) : Res :=
  match s.findReq req with
  | some q =>
    match q.kind with
    | .atomic _ _ _ true _ [] _ =>
      if q.state = .performed ∧ q.srid.isNone then .next (setReq { q with state := .arrived (s.cycleOf q.lay) } s)
      else .next s
    | _ => .next s
  | none => .next s

/-- CLD_DATA_ARRIVAL (R184). -/
def execCldDataArrival (req : Nat) (s : State) : Res :=
  match s.findReq req with
  | some q =>
    match q.kind with
    | .cld _ => if q.state = .performed then .next (setReq { q with state := .arrived (s.cycleOf q.lay) } s) else .next s
    | _ => .next s
  | none => .next s

/-- Entries of a cell's landing buffer (R106). -/
def landingRoom : Nat := 1024

/-- A row that finds no entry goes back before the rows that have not been offered, behind those refused before it (R107). -/
def offerAgain (id : Nat) (s : State) (l : List Nat) : List Nat :=
  let refused := fun (i : Nat) => match s.findReq i with | some q => q.refused | none => false
  l.takeWhile refused ++ id :: l.dropWhile refused

/-- COPY_ROW_ARRIVAL: a delivered row enters the landing buffer; with none free the base die re-offers it in its next slot (R106,
R107). -/
def execCopyRowArrival (req : Nat) (s : State) : Res :=
  match s.findReq req with
  | some q =>
    match q.kind, q.state with
    | .load b r due _, .arrived c =>
      if s.cycleOf q.lay < c then .next s
      else if q.dropped then .next (dropReq req s)
      else if (s.cellAt (cellKey q.lay q.cell)).landing.length < landingRoom then
        let d : Landing := { ctx := q.ctxKey % 8, region := q.region, req := q.id, bank := b, row := r,
                             be := BitVec.allOnes 128, pois := q.pois, due := due,
                             from_ := if due.isSome then 0 else q.notBefore (s.layerAt q.lay), seq := q.eff, data := q.data,
                             arrived := s.cycleOf q.lay }
        .next (dropReq req (s.updCell (cellKey q.lay q.cell) (fun e => { e with landing := e.landing ++ [d] })))
      else
        .next ((setReq { q with state := .performed, ready := 0 } s).updTower q.tower (fun t =>
          { t with deliver := offerAgain req s t.deliver }))
    | _, _ => .next s
  | none => .next s

/-- A performed row is on its way: a TLD's is ready for a slot of its column (R21, R285, R356); an ALD's arrives in a cycle that
nothing fixes (R499), and one that found no entry waits for a slot again (R107). DEDUCED: notes/assumptions/48.md. -/
def offerRow (q : Req) (s : State) : State :=
  match q.kind with
  | .load .. =>
    if q.state ≠ .performed ∨ (s.towerAt q.tower).deliver.contains q.id then s
    else if q.ctr.isSome then setReq { q with state := .arrived (s.cycleOf q.lay) } s
    else s.updTower q.tower (fun t => { t with deliver := t.deliver ++ [q.id] })
  | _ => s

/-- The request a remote package's asks for becomes here. -/
def askKind : RemoteAsk → ReqKind
  | .load => .load 0 0 none false
  | .store _ => .store false
  | .cld => .cld 0
  | .cst v => .cst v
  | .atomic op ty cas returns lanes => .atomic op ty cas returns 0 lanes []
def askData : RemoteAsk → Row
  | .store d => d
  | _ => 0

/-- REMOTE_REQUEST: a request of another package arrives at the ingress, which passes it to its home port (R447). It
belongs to no context; its fault record names layer 0 of tower 0. -/
def execRemoteRequest (obj : BitVec 24) (off : BitVec 40) (asid : BitVec 12) (ask : RemoteAsk) (tag : Nat) (s : State) : Res :=
  let q : Req := { id := s.nextId, kind := askKind ask, state := .port, ctxKey := 65536 + tag % 65536, cell := 64, region := 0,
                   seq := s.nextId, eff := s.nextId, lay := 0, obj := obj, off := off.toNat, asid := asid, ctr := none,
                   data := askData ask, pois := false, committed := true, ready := s.cycleOf 0, dropped := false, srid := none }
  .next (pushReq q s)

/-- A remote package's request: its reply leaves the package. -/
def Req.ofRemote (q : Req) : Bool := 65536 ≤ q.ctxKey && q.ctxKey < 2 ^ 20

/-! ### One request's progress in a cycle -/

/-- What a request does in a cycle in which it goes on: it is translated, performs, or its data comes back. -/
def progressReq (id : Nat) (s : State) : Res :=
  match s.findReq id with
  | none => .next s
  | some q =>
    match q.state with
    | .port => execTranslationWalk id s
    | .ready _ | .answer _ =>
      (match q.kind with
       | .load .. | .cld _ => execLoadPerform id s
       | .store _ | .cst _ => execStorePerform id s
       | .atomic .. => execAtomicPerform id s
       | _ => .next s)
    | .performed =>
      if q.ofRemote then .next (dropReq id s)
      else (match q.kind with
       | .load .. => if 128 ≤ q.ctxKey then .next (dropReq id s) else .next (offerRow q s)
       | .cld _ => execCldDataArrival id s
       | .atomic .. => execAtomicReply id s
       | _ => .next s)
    | .arrived _ => execCopyRowArrival id s
    | _ => .next s

end Sys2Proof.Machine
end

