-- ==== Sys2Proof/Machine/Bus.lean ====
section
/-!
DEFINITION. The stack bus and the flag homes: slots and their owners (R21, R118, R190, R471, R498), beats applied six cycles
later (R112, R119, R482), flag updates (R191, R194), and the eyelets' words and credits (R198, R460).
-/

namespace Sys2Proof.Machine

/-! ### Flags at their homes -/

/-- An update reaches its flag: in the layer's file, or in the keeper's copy while the layer is off (R190). -/
def applyFlag (lay : Nat) (u : FlagUpd) (s : State) : State :=
  if (s.layerAt lay).power = .off then
    s.updTower (lay / 8) (fun t =>
      let k := 512 * (lay % 8) + u.idx.toNat
      { t with keeperFlags := mapSet 0 t.keeperFlags k (flagApply u.set u.v (mapGet 0 t.keeperFlags k)) })
  else
    s.updLayer lay (fun l => { l with
      flags := mapSet 0 l.flags u.idx.toNat (flagApply u.set u.v (mapGet 0 l.flags u.idx.toNat)) })

/-- The order of one cycle's updates: slots, local, ingress, each in its own order (R191). -/
def updBefore (a b : FlagUpd) : Bool := if a.cls != b.cls then a.cls < b.cls else a.seq ≤ b.seq

def applyUpdates (lay : Nat) (s : State) : State :=
  let c := s.cycleOf lay
  let l := s.layerAt lay
  if l.updates.isEmpty then s
  else
    let due := (l.updates.filter (fun u => u.at_ ≤ c)).mergeSort updBefore
    let s := s.updLayer lay (fun l => { l with updates := l.updates.filter (fun u => c < u.at_) })
    due.foldl (fun s u => applyFlag lay u s) s

/-- FLAG_UPDATE_APPLY: the updates of a layer due in this cycle, with one that arrives from another package, if any, among
those of the ingress (R191). -/
def execFlagUpdateApply (lay : Nat) (arrives : Option (Bool × BitVec 9 × DWord)) (s : State) : Res :=
  .next (applyUpdates lay (match arrives with
    | some (set, i, v) => arriveFlag lay 3 (s.cycleOf lay) set i v s
    | none => s))

/-- FLRST_WRITE: V and P of the flag become zero before the cycle's other updates (R191, R212). -/
def execFlrstWrite (lay : Nat) (idx : BitVec 9) (s : State) : Res :=
  .next (s.updLayer lay (fun l => { l with flags := mapSet 0 l.flags idx.toNat 0 }))

/-! ### Slots -/

/-- Owner of a slot: 0–7 a logical layer, 8 the base die, 15 none (R471). -/
def slotOwner (t : Tower) (n : Nat) : Nat := (t.sot.extractLsb' (4 * n) 4).toNat

/-- Eligible beats of a column, in release order (R118). -/
def columnBeats (l : Layer) (col c : Nat) : List Beat :=
  ((l.beats.filter (fun b => b.cell == col && (match b.ready with | some r => decide (r < c) | none => false))).mergeSort
    (fun a b => if a.ready != b.ready then a.ready.getD 0 < b.ready.getD 0 else a.eff ≤ b.eff)).take 4

/-- The next released store row of a cell (R498); a fence holds later copies at their port (R127). -/
def nextRow (s : State) (lay col c : Nat) : Option Req :=
  ((s.reqs.filter (fun q => q.lay == lay && q.cell == col && q.state == .queued && q.ready < c && !fenceHolds s q)).mergeSort
    (fun a b => if a.ready != b.ready then a.ready < b.ready else if a.eff != b.eff then a.eff < b.eff else a.id ≤ b.id)).head?

/-- A slot is on the bus (R119). -/
def pushSlot (tower : Nat) (b : BusSlot) (s : State) : State := s.updTower tower (fun t => { t with busSlots := t.busSlots ++ [b] })

/-- A slot a layer owns: up to four beats a column, a store row on each column without beats, up to four flag updates. -/
def layerSlot (tower lay c : Nat) (s : State) : State :=
  let l := s.layerAt lay
  if l.power != .run || l.failing.isSome then s
  else
    let beats := (upto 64).flatMap (fun k => columnBeats l k c)
    let cols := beats.map (fun b => b.cell)
    let ups := ((l.outUpd.filter (fun u => u.1 < c)).mergeSort (fun a b =>
      if a.1 != b.1 then a.1 < b.1 else a.2.2.seq ≤ b.2.2.seq)).take 4
    let rows := if s.reqs.any (fun q => q.lay == lay && q.state == .queued) then
        (upto 64).filterMap (fun k => if cols.contains k then none else (nextRow s lay k c).map (fun q => q.id))
      else []
    if beats.isEmpty && ups.isEmpty && rows.isEmpty then s
    else
      let s : State := { s with reqs := s.reqs.map (fun q => if rows.contains q.id then { q with state := .sent c } else q) }
      let s := s.updLayer lay (fun l => { l with
        beats := l.beats.filter (fun b => !beats.contains b)
        outUpd := l.outUpd.filter (fun u => !ups.contains u) })
      pushSlot tower { cycle := c, layer := lay, beats := beats, updates := ups.map (fun u => (u.2.1, u.2.2)), rows := rows } s

/-- A slot the base die owns: the keeper's copy for a waking layer (R112), else one delivered row a column (R285). -/
def baseSlot (tower c : Nat) (s : State) : State :=
  match (upto 8).find? (fun l => (s.layerAt (8 * tower + l)).copyLeft != 0) with
  | some l => pushSlot tower { cycle := c, layer := 8 * tower, base := true, copy := some l }
      (s.updLayer (8 * tower + l) (fun x => { x with copyLeft := x.copyLeft - 1 }))
  | none =>
    let go := (upto 64).filterMap (fun k =>
      (s.towerAt tower).deliver.find? (fun id => match s.findReq id with | some q => q.cell == k | none => false))
    let s := s.updTower tower (fun t => { t with deliver := t.deliver.filter (fun id => !go.contains id && (s.findReq id).isSome) })
    if go.isEmpty then s
    else pushSlot tower { cycle := c, layer := 8 * tower, base := true, rows := go }
      { s with reqs := s.reqs.map (fun q => if go.contains q.id then { q with state := .arrived (c + 6) } else q) }

/-- At the start of a frame the written slot table comes into force (R471). -/
def frameStart (tower : Nat) (s : State) : State :=
  if (s.towerAt tower).cycle % 256 = 0 then
    s.updTower tower (fun t => { t with sot := t.sotNext.getD t.sot, sotNext := none })
  else s

/-- STACK_BUS_SLOT: the owner of this cycle's slot transmits (R21, R118, R190, R498). -/
def execStackBusSlot (tower : Nat) (s : State) : Res :=
  let t := s.towerAt tower
  let o := slotOwner t (t.cycle % 256)
  if o < 8 then .next (layerSlot tower (8 * tower + o) t.cycle s)
  else if o = 8 then .next (baseSlot tower t.cycle s)
  else .next s

/-! ### Beats applied (R119, R482) -/

/-- A beat's enabled bytes in a partition's image. -/
def beatBytes (b : Beat) (m : Map Byte) (base : Nat) : Map Byte :=
  (upto 32).foldl (fun m i =>
    if b.be.getLsbD i then mapSet 0 m (base + b.off + i) (b.data.extractLsb' (8 * i) 8) else m) m

/-- A layer whose mirrors hear: run or doze; a waking one queues what it hears (R112, R119). -/
def hearing (l : Layer) : Bool := l.power != .off
def waking (l : Layer) : Bool :=
  l.power == .off && (match l.preqs with | p :: _ => p.started && p.target != .off | [] => false)

/-- One beat applied in the keeper and in every mirror of its position that hears. -/
def applyBeat (tower : Nat) (b : Beat) (s : State) : State :=
  let s := s.updTower tower (fun t => { t with keeper := beatBytes b t.keeper (65536 * b.cell) })
  (upto 8).foldl (fun s l =>
    let lay := 8 * tower + l
    if hearing (s.layerAt lay) then
      s.updCell (cellKey lay b.cell) (fun e => { e with mirror := beatBytes b e.mirror 0 })
    else if waking (s.layerAt lay) then s.updLayer lay (fun l => { l with heard := l.heard ++ [(b.cell, b)] })
    else s) s

/-- A column's retries of the frame, and of the telemetry (R484, R487). -/
def countRetry (tower col : Nat) (s : State) : State :=
  countTel tower (telColumn col) (s.updTower tower (fun t => { t with retries := mapSet 0 t.retries col (mapGet 0 t.retries col + 1) }))

/-- What a slot carried on the bad columns, and in a bad flag field, goes back to its sender, ahead of everything that it has still to
send (R482). -/
def sendAgain (tower : Nat) (b : BusSlot) (bad : BitVec 64) (badFlags : Bool) (s : State) : State :=
  let hit := fun (q : Req) => b.rows.contains q.id && bad.getLsbD q.cell
  let back := (s.reqs.filter hit).map (fun q => q.id)
  if b.base then
    let s : State := { s with reqs := s.reqs.map (fun q => if hit q then { q with state := .performed } else q) }
    let s := s.updTower tower (fun t => { t with deliver := back ++ t.deliver })
    match b.copy with
    | some l => if bad = 0 then s else s.updLayer (8 * tower + l) (fun x => { x with copyLeft := x.copyLeft + 1 })
    | none => s
  else if (s.layerAt b.layer).power != .run || (s.layerAt b.layer).failing.isSome then
    -- R485: what a failed layer has still to send is dropped
    { s with reqs := s.reqs.filter (fun q => !hit q) }
  else
    let s : State := { s with reqs := s.reqs.map (fun q => if hit q then { q with state := .queued } else q) }
    s.updLayer b.layer (fun l => { l with
      beats := b.beats.filter (fun x => bad.getLsbD x.cell) ++ l.beats
      outUpd := (if badFlags then b.updates.map (fun u => (0, u.1, u.2)) else []) ++ l.outUpd })

/-- A retry is asserted for the slot of three cycles ago (R482). -/
def assertRetry (tower : Nat) (bad : BitVec 64) (badFlags : Bool) (s : State) : State :=
  let now := (s.towerAt tower).cycle
  match (s.towerAt tower).busSlots.find? (fun b => b.cycle + 3 == now) with
  | none => s
  | some b =>
    if bad = 0 ∧ !badFlags then s
    else
      let s := s.updTower tower (fun t => { t with busSlots := t.busSlots.map (fun x =>
        if x.cycle + 3 = now then { x with badCols := x.badCols ||| bad, badFlags := x.badFlags || badFlags } else x) })
      let fresh := bad &&& ~~~ b.badCols
      let s := sendAgain tower b fresh (badFlags && !b.badFlags) s
      (upto 64).foldl (fun s k => if fresh.getLsbD k then countRetry tower k s else s) s

/-- What the slot of six cycles ago carried applies, but for its bad columns and flag field: beats, store rows at their ports, then the
flag updates (R119, R190, R482, R498). -/
def applySlot (tower : Nat) (s : State) : State :=
  let now := (s.towerAt tower).cycle
  match (s.towerAt tower).busSlots.find? (fun b => b.cycle + 6 == now) with
  | none => s
  | some b =>
    let s := s.updTower tower (fun t => { t with busSlots := t.busSlots.filter (fun x => x.cycle + 6 != now) })
    let s := (b.beats.filter (fun x => !b.badCols.getLsbD x.cell)).foldl (fun s x => applyBeat tower x s) s
    let s : State := { s with reqs := s.reqs.map (fun q => if q.state = .sent b.cycle ∧ b.rows.contains q.id then { q with state := .port } else q) }
    if b.badFlags then s
    else b.updates.foldl (fun s u => u.1.foldl (fun s h => arriveFlag h 1 now u.2.set u.2.idx u.2.v s) s) s

/-- STACK_BEAT_APPLY: what the slot six cycles ago carried applies, after the retry that a listener asserts now, for the slot of
three cycles ago (R119, R482). DEDUCED: notes/assumptions/31.md. -/
def execStackBeatApply (tower : Nat) (badCols : BitVec 64) (badFlags : Bool) (s : State) : Res :=
  .next (settleReleased (applySlot tower (assertRetry tower badCols badFlags s)))

/-! ### Eyelets (R198, R199, R460) -/

/-- An eyelet of a layer, which the keeper holds while the layer is off (R214). -/
def State.eyeletAt (s : State) (lay e : Nat) : Eyelet :=
  if (s.layerAt lay).power = .off then mapGet .reset (s.towerAt (lay / 8)).keeperEyelets (16 * (lay % 8) + e)
  else mapGet .reset (s.layerAt lay).eyelets e
def State.setEyelet (s : State) (lay e : Nat) (y : Eyelet) : State :=
  if (s.layerAt lay).power = .off then
    s.updTower (lay / 8) (fun t => { t with keeperEyelets := mapSet .reset t.keeperEyelets (16 * (lay % 8) + e) y })
  else s.updLayer lay (fun l => { l with eyelets := mapSet .reset l.eyelets e y })

/-- EYELET_WORD_ARRIVAL: a word arrives at an inbound eyelet, which its credits keep from overflowing (R198, R460). -/
def execEyeletWordArrival (lay e : Nat) (w : EyeletWord) (s : State) : Res :=
  let y := s.eyeletAt lay e
  if y.en && !y.dir && y.words.length < 16 then
    .next (s.setEyelet lay e { y with words := y.words ++ [w.word], senders := y.senders ++ [w.src] })
  else .next s

/-- EYELET_CREDIT: a credit comes back to an outbound eyelet (R460). -/
def execEyeletCredit (lay e : Nat) (s : State) : Res :=
  let y := s.eyeletAt lay e
  if y.dir && y.credit < 16 then .next (s.setEyelet lay e { y with credit := y.credit + 1 }) else .next s

/-- SOT_WRITE: the owners take effect at the first frame that starts in the next step's cycle or later (R471). -/
def execSotWrite (tower n : Nat) (owners : DWord) (s : State) : Res :=
  .next (s.updTower tower (fun t => { t with sotNext := some (sotPut (t.sotNext.getD t.sot) n owners) }))

end Sys2Proof.Machine
end

