-- ==== Sys2Proof/Machine/Fabric.lean ====
section
/-!
DEFINITION. SEND transfers and the plans they follow (R202 to R204, R455 to R458, R466), links, their keys and their states
(R454, R462 to R465, R470), and the tick counter's servo (R467 to R469).
-/

namespace Sys2Proof.Machine

def State.linkAt (s : State) (t f : Nat) : Link := mapGet .reset (s.towerAt t).links f
def State.setLink (s : State) (t f : Nat) (l : Link) : State :=
  s.updTower t (fun x => { x with links := mapSet .reset x.links f l })
def State.updLink (s : State) (t f : Nat) (g : Link → Link) : State := s.setLink t f (g (s.linkAt t f))

/-- The flag object's poison addend. -/
def poisonAdd : DWord := BitVec.ofNat 64 (2 ^ 63)

/-- Links 24–31 stand for the short-network ports 0–7, and 32 for the transfers of this package. -/
def portLink (port : Nat) : Nat := 24 + port
def localLink : Nat := 32

/-- A management alarm (R464, R473, R495). -/
def alarm (n : Nat) (s : State) : State := { s with mail := s.mail ++ [.alarm n] }

/-! ### The plan (R455 to R457) -/

def PlanEntry.valid (e : PlanEntry) : Bool := e.word0.getLsbD 0
def PlanEntry.short (e : PlanEntry) : Bool := e.word0.getLsbD 1
def PlanEntry.stwr (e : PlanEntry) : Nat := fld e.word0 2 1
def PlanEntry.dpkg (e : PlanEntry) : Nat := fld e.word0 3 8
def PlanEntry.dtwr (e : PlanEntry) : Nat := fld e.word0 11 1
/-- The hops, each the base die it leaves from and its outgoing link or port. -/
def PlanEntry.hops (e : PlanEntry) : List (Nat × Nat) :=
  (upto (fld e.word0 12 2 + 1)).map (fun h => (fld e.word0 (21 + 8 * h) 1, fld e.word0 (16 + 8 * h) 5))
def PlanEntry.hop0 (e : PlanEntry) : Nat := fld e.word0 16 5
def PlanEntry.hopDie (e : PlanEntry) : Nat := fld e.word0 21 1
/-- Path delay in ticks, by which the fabric manager lays its windows; nothing in the package reads it. -/
def PlanEntry.lat (e : PlanEntry) : Nat := fld e.word2 0 16
def PlanEntry.wstart (e : PlanEntry) : Nat := fld e.word1 0 32
def PlanEntry.wlen (e : PlanEntry) : Nat := fld e.word1 32 32
def PlanEntry.pw (e : PlanEntry) : Nat := fld e.word2 16 3

/-- Lanes of a width code (R455). -/
def widthLanes (w : Nat) : Nat := 4 * w

/-- One entry of the plan in HBM. -/
def readEntry (s : State) (a : Nat) : PlanEntry :=
  { word0 := BitVec.ofNat 64 (s.memLe a 8), word1 := BitVec.ofNat 64 (s.memLe (a + 8) 8),
    word2 := BitVec.ofNat 64 (s.memLe (a + 16) 8) }

/-- The fabric unit reads the armed plan into the idle bank (R456). -/
def readPlan (s : State) : Res :=
  let a := s.plNbase.toNat * 4096
  let n := s.plNent.toNat
  if 2 ^ 39 < a + 32 * n then .fault (.noSuchAddress (2 ^ 39))
  else .next { s with planNext := some ((upto n).map (fun i => readEntry s (a + 32 * i)), s.plLogp.toNat), planRead := s.tick.toNat }

/-- PLCTL_ARM: the next plan is to be read, and switches at PLSW (R456). -/
def execPlctlArm (nent : BitVec 12) (nbase : BitVec 28) (logp : BitVec 5) (s : State) : Res :=
  if s.plArm || nent = 0 || logp.toNat < 14 || 24 < logp.toNat then .next s
  else .next { s with plNent := nent, plNbase := nbase, plLogp := logp, plArm := true, planNext := none }

/-- The tick from which an armed plan is in force: TICK, or the first after its read completes (R456). -/
def switchTick (s : State) : Nat := Nat.max s.plTick.toNat (s.planRead + 1)

/-- PLAN_SWITCH: at TICK, or at the first tick after the read completes (R456). -/
def execPlanSwitch (s : State) : Res :=
  match s.planNext with
  | some (p, lg) =>
    if s.plArm && switchTick s ≤ s.tick.toNat then
      .next { s with plan := p, planLogp := lg, planNext := none, planPast := (s.planSince, s.plan, s.planLogp) :: s.planPast,
                     planSince := switchTick s, plCur := !s.plCur, plArm := false }
    else .next s
  | none => .next s

/-- The plan in force at a tick (R456, R457). -/
def planAt (s : State) (tick : Nat) : List PlanEntry × Nat :=
  if s.planSince ≤ tick then (s.plan, s.planLogp)
  else match s.planPast.find? (fun p => p.1 ≤ tick) with
    | some p => p.2
    | none => ([], 20)

/-- The lowest-numbered entry that a departure tick finds (R457). -/
def planEntry (s : State) (tower dpkg dtwr : Nat) (bulk : Bool) (depart : Nat) : Option PlanEntry :=
  let p := planAt s depart
  let o := depart % 2 ^ p.2
  p.1.find? (fun e => e.valid && e.stwr == tower && e.dpkg == dpkg && e.dtwr == dtwr && e.short == !bulk
    && e.wstart ≤ o && o < e.wstart + e.wlen)

/-! ### SEND (R203, R204, R457) -/

/-- A SEND's fields. -/
structure Transfer where
  bulk   : Bool
  gd     : Cap
  gs     : Cap
  soff   : Nat
  doff   : Nat
  len    : Nat
  slack  : Nat
  ctr    : BitVec 21
  depart : Nat
  deriving DecidableEq, Repr

def Released.transfer (e : Released) : Option Transfer :=
  match e.effect with
  | .send bulk gd gs soff doff len slack ctr depart =>
    some { bulk := bulk || 16384 ≤ len, gd := gd, gs := gs, soff := soff.toNat, doff := doff.toNat, len := len,
           slack := slack, ctr := ctr, depart := depart.toNat }
  | _ => none

def findReleased (s : State) (id : Nat) : Option Released := s.released.find? (fun r => r.id == id)

/-- A flag update that a tower makes for a home anywhere: its last cycle on this package when the home is here. -/
def missSend (e : Released) (x : Transfer) (s : State) : State :=
  let s := if e.ctxKey < 128 then
      s.updCtx e.ctxKey (fun c => { c with miss := true, mcount := if c.mcount = BitVec.allOnes 16 then c.mcount else c.mcount + 1 })
    else s
  controllerFlag (e.lay / 8) x.ctr poisonAdd (setReleased { e with phase := 5, left := s.cycleOf e.lay + 1, data := [] } s)

/-- The poisoned update of a missed SEND has been applied (R204). -/
def missApplied (s : State) (e : Released) (x : Transfer) : Bool :=
  e.left ≤ s.cycleOf e.lay && !(upto 2).any (fun t => (s.towerAt t).shortQ.any (fun m => match m.2 with
    | .flag false h v => h == [x.ctr] && v == poisonAdd
    | _ => false))

/-- SEND_READY: the source is read; the tick at which that is done is the ready tick (R203, R204, R502). -/
def execSendReady (eff : Nat) (s : State) : Res :=
  match findReleased s eff with
  | some e =>
    match e.transfer with
    | some x =>
      if e.phase = 2 then
        .next (portRead e (capObj x.gs) (capBase x.gs + x.soff) x.len (fun b p s =>
          setReleased { e with phase := 3, data := b, pois := p, tick := s.tick.toNat } s) s)
      else .next s
    | none => .next s
  | none => .next s

/-- The departure tick, if the transfer does not miss (R204). -/
def departTick (e : Released) (x : Transfer) : Option Nat :=
  if e.tick ≤ x.depart then some x.depart else if e.tick ≤ x.depart + x.slack then some e.tick else none

/-- Cuts data into pieces. -/
def chunks (n : Nat) : Nat → List Byte → List (List Byte)
  | 0, _ => []
  | k + 1, b => if b.isEmpty then [] else b.take n :: chunks n k (b.drop n)

/-- The source's name in the slot tables (R459). -/
def sourceOf (s : State) (tower : Nat) : Nat := 2 * s.pkg.toNat + tower

/-- The pieces of a transfer: flits of 256 bytes (R453), or packets of 32 (R459), with the requester's ASID (R447). -/
def flitsOf (s : State) (e : Released) (x : Transfer) (piece pw : Nat) (route : List (Nat × Nat)) : List Flit :=
  let ps := chunks piece (x.len / piece + 1) e.data
  ps.zipIdx.map (fun p =>
    { q := 0, phase := false, late := false, obj := capObj x.gd, off := capBase x.gd + x.doff + piece * p.2,
      ctr := x.ctr, asid := asidOf s e.ctxKey, data := p.1, last := p.2 + 1 == ps.length, pois := e.pois, xfer := e.id,
      place := piece * p.2, route := route, pw := pw, src := sourceOf s (e.lay / 8) })

def Link.carries (l : Link) : Bool := l.state == .active || l.state == .narrowed

/-- 2^36 flits of one phase (R462). -/
def phaseLimit : Nat := 2 ^ 36

/-! ### The wire (R453, R461) -/

/-- The lanes in use: the lowest-numbered working ones of the width (R454). -/
def Link.lanesUsed (l : Link) : List Nat := ((upto 16).filter (fun k => l.lanes.getLsbD k)).take (widthLanes l.width.toNat)
/-- The lane that carries flit q (R453). -/
def Link.laneOf (l : Link) (q : Nat) : Option Nat := l.lanesUsed[q % l.lanesUsed.length]?

/-- The 16 bytes of a flit's header (R453): the transfer's number and the byte offset have four each.
DESIGN CHOICE: notes/assumptions/26.md. -/
def flitHeader (f : Flit) : List Byte :=
  leBytes 8 (f.q % 2 ^ 48 + 2 ^ 48 * bnat f.phase + 2 ^ 49 * bnat f.late) ++ leBytes 4 f.xfer ++ leBytes 4 f.place

/-- The 96-bit IV (R461): sequence, the link's number and tower, direction. DEDUCED: notes/assumptions/26.md. -/
def linkIv (tower link q : Nat) (direction : Bool) : BitVec 96 :=
  BitVec.ofNat 96 (q % 2 ^ 48 + 2 ^ 48 * (link % 32) + 2 ^ 53 * (tower % 2) + 2 ^ 54 * bnat direction)

/-- Payload bytes encrypted, or decrypted, under a key and an IV (R461). -/
def crypt (key : BitVec 256) (iv : BitVec 96) (b : List Byte) : List Byte :=
  b.zipIdx.map (fun p => p.1 ^^^ Config.gcmStream key iv p.2)

/-- The key of a phase, zero where none is held. -/
def phaseKey (m : Map (BitVec 256)) (phase : Bool) : BitVec 256 := mapGet 0 m (bnat phase)

/-- A flit with its tag over the header and the payload, under the key of its phase (R461). -/
def sealFlit (tower link : Nat) (keys : Map (BitVec 256)) (f : Flit) : Flit :=
  { f with tag := Config.gcmTag (phaseKey keys f.phase) (linkIv tower link f.q (Config.ivDirection tower link)) (flitHeader f) f.data }

/-- A flit's 288 bytes on the wire: header, 256 bytes of payload, zeros after a short one's, and the tag (R453). -/
def flitWire (tower link : Nat) (keys : Map (BitVec 256)) (f : Flit) : List Byte :=
  flitHeader f ++ crypt (phaseKey keys f.phase) (linkIv tower link f.q (Config.ivDirection tower link))
    (f.data ++ List.replicate (256 - f.data.length) 0) ++ leBytes 16 f.tag.toNat

/-- A flit as the far end sent it, decrypted under the key that its phase bit names (R461). -/
def openFlit (tower link : Nat) (keys : Map (BitVec 256)) (f : Flit) : Flit :=
  { f with data := crypt (phaseKey keys f.phase) (linkIv tower link f.q (!Config.ivDirection tower link)) f.data }

/-- A flit whose key is held and whose tag is right (R461, R462). -/
def checksOut (tower link : Nat) (keys : Map (BitVec 256)) (f : Flit) : Bool :=
  phaseKey keys f.phase != 0
    && f.tag == Config.gcmTag (phaseKey keys f.phase) (linkIv tower link f.q (!Config.ivDirection tower link)) (flitHeader f)
      (openFlit tower link keys f).data

/-! ### Sending (R453, R462, R466) -/

/-- A transfer's flits join those a link has to send; where the link is narrower than the planned width they are marked late,
which the link counts once (R466). -/
def joinLink (tower link : Nat) (fs : List Flit) (s : State) : State :=
  s.updLink tower link (fun l =>
    let late := fs.any (fun f => l.width.toNat < f.pw)
    { l with
      pending := l.pending ++ fs.map (fun f => { f with late := f.late || late })
      latec := if late ∧ fs.any (fun f => f.place == 0) ∧ l.latec ≠ BitVec.allOnes 8 then l.latec + 1 else l.latec })

/-- The next flit of a link that has time for one: a replayed one, or the oldest that has not been sent, which takes the next
sequence number and the phase in force (R453, R462). -/
def sendFlit (tower link : Nat) (l : Link) : Link :=
  if l.credit < 18 then l
  else match l.resend with
    | some q =>
      let stop := match l.replay with | some r => r.2 | none => 0
      { l with credit := l.credit - 18, resend := if q + 1 < stop then some (q + 1) else none }
    | none =>
      match l.pending with
      | f :: rest =>
        if l.carries && l.phaseCount < phaseLimit then
          let f := sealFlit tower link l.txKeys { f with q := l.nextQ, phase := l.phase }
          { l with credit := l.credit - 18, pending := rest, nextQ := (l.nextQ + 1) % 2 ^ 48, unacked := l.unacked ++ [f],
                   phaseCount := l.phaseCount + 1 }
        else l
      | [] => l

/-- The flits a link sends in a cycle. -/
def sendFlits (tower link : Nat) (s : State) : State :=
  s.updLink tower link (fun l => (upto 4).foldl (fun l _ => sendFlit tower link l) l)

/-- A transfer to this package: over UCIe or within its base die (R457). -/
def sendLocal (e : Released) (x : Transfer) (s : State) : State :=
  let t := fld (x.ctr.setWidth 64) 12 1
  s.updLink t localLink (fun l => { l with inbound := l.inbound ++ flitsOf s e x 256 0 [] })

/-- A transfer to another package: the check of R457, then its path. The destination tower is that of the arrival counter,
which the descriptor alone names. DEDUCED: notes/assumptions/26.md. -/
def sendRemote (e : Released) (x : Transfer) (d : Nat) (s : State) : State :=
  let t := e.lay / 8
  match planEntry s t (capPkg x.gd).toNat (fld (x.ctr.setWidth 64) 12 1) x.bulk x.depart with
  | none => missSend e x s
  | some p =>
    let o := x.depart % 2 ^ (planAt s x.depart).2 - p.wstart
    let dur := ((x.len + 255) / 256 * 18 + widthLanes p.pw - 1) / widthLanes p.pw
    if !(s.ftLock || s.ftGm) then missSend e x s
    else if !p.short && (!(s.linkAt p.hopDie p.hop0).carries || p.wlen < o + (d - x.depart) + dur) then missSend e x s
    else
      let s := setReleased { e with phase := 4, data := [] } s
      if p.short then
        let ms := (flitsOf s e x 32 0 p.hops.tail).map (fun f => (capPkg x.gd, ShortMsg.fragment f (p.hop0 % 8)))
        s.updTower p.hopDie (fun y => { y with shortQ := y.shortQ ++ ms })
      else joinLink p.hopDie p.hop0 (flitsOf s e x 256 p.pw p.hops.tail) s

/-- SEND_DEPART: at its departure tick a ready transfer leaves, or misses (R204, R457). -/
def execSendDepart (eff : Nat) (s : State) : Res :=
  match findReleased s eff with
  | some e =>
    match e.transfer with
    | some x =>
      if e.phase = 3 then
        match departTick e x with
        | none => .next (missSend e x s)
        | some d =>
          if s.tick.toNat < d then .next s
          else if capPkg x.gd == s.pkg then .next (sendLocal e x (setReleased { e with phase := 4, data := [] } s))
          else .next (sendRemote e x d s)
      else .next s
    | none => .next s
  | none => .next s

/-- A transfer that has left the package is over: a kill at its target comes back to the issuing task (R447, R502). -/
def remoteSent (e : Released) (x : Transfer) (s : State) : State :=
  let n := s.choice
  let s : State := dropReleased e.id { s with choice := n + 1 }
  if remoteAnswer { s with choice := n } (capObj x.gd) = 3 then
    pgKill e.ctxKey (capBase x.gd + x.doff + Config.remoteOffset n % Nat.max 1 x.len) (capObj x.gd) (some e.form) s
  else s

/-! ### Ingress (R132, R458, R502) -/

/-- The counter's update for bytes in place: their count, with bit 63 for poison. -/
def countBytes (f : Flit) (n : Nat) (pois : Bool) (s : State) : State :=
  arriveFlag (flagLayer f.ctr) 3 (s.cycleOf (flagLayer f.ctr) + 1) false (flagIdx f.ctr)
    (BitVec.ofNat 64 (n + if pois || (f.last && f.pois) then 2 ^ 63 else 0)) s

/-- Working lanes. -/
def laneCount (m : BitVec 16) : Nat := ((upto 16).filter (fun k => m.getLsbD k)).length
/-- The largest width that the working lanes allow, as a code; 0 below four lanes. -/
def widthOf (n : Nat) : Nat := Nat.min (n / 4) 4

/-- Going Down: every unacknowledged flit is lost, and the ingress ends each transfer that has begun to arrive and whose
last flit has not come, with the poisoned update (R470). -/
def linkDown (tower f : Nat) (s : State) : State :=
  let l := s.linkAt tower f
  let s := s.setLink tower f { l with state := .down, width := 0, unacked := [], pending := [], replay := none, resend := none,
                                      replayAsk := none, fails := 0, dropped := [], opened := [], ident := none,
                                      rolloverAsked := none, trainLeft := 0 }
  l.opened.foldl (fun s x => countBytes x 0 true s) s

/-- The end of a transfer of this package at its receiver. -/
def endTransfer (link : Nat) (f : Flit) (s : State) : State :=
  if link = localLink ∧ f.last then
    match findReleased s f.xfer with
    | some e => if e.phase = 4 then dropReleased e.id s else s
    | none => s
  else s

/-- A flit's bytes in runs that one translation serves, each with its offset. -/
def flitRuns (s : State) (f : Flit) : List (Nat × List Byte) :=
  (runs s f.obj f.off f.data.length).map (fun r => (r.1, (f.data.drop (r.1 - f.off)).take r.2))

/-- Writes the runs whose place was found. -/
def writePlaced (ws : List (Nat × Where × List Byte)) (s : State) : State :=
  ws.foldl (fun s w => match w.2.1 with | .at_ pa _ => writeMem pa w.2.2 s | _ => s) s

/-- The bytes of a flit at the memory port, under each leaf's policy; while a page of it is parked, or with the host, the flit waits
for the page, whose record names layer 0 of tower 0 (R447, R458, R502; DEDUCED: notes/assumptions/29.md). -/
def ingressWrite (tower link : Nat) (f : Flit) (s : State) : State :=
  let ws := (flitRuns s f).map (fun r => (r.1, locate s tower f.obj r.1 f.asid true, r.2))
  match ws.find? (fun w => match w.2.1 with | .policy 0 _ _ _ | .host => true | _ => false) with
  | some w => askPage 0 f.obj w.1 f.asid true s
  | none =>
    let s := dropAsked f.obj f.asid (countRetired tower f.obj f.off f.data.length f.asid true s)
    let s := writePlaced ws (s.updLink tower link (fun l => { l with inbound := l.inbound.tail }))
    match ws.find? (fun w => match w.2.1 with | .policy 3 _ _ _ => true | _ => false) with
    | some w =>
      match (if link = localLink then findReleased s f.xfer else none) with
      | some e => pgKill e.ctxKey w.1 f.obj (some e.form) (dropReleased e.id s)
      | none => s
    | none =>
      let pois := ws.any (fun w => match w.2.1 with | .policy 2 _ _ _ | .retired _ => true | _ => false)
      endTransfer link f (countBytes f f.data.length pois s)

/-- Flits the elastic buffer of a link holds: 448 KiB of payload (R458). DEDUCED: notes/assumptions/26.md. -/
def bufferFlits : Nat := 1792

/-- A lane is lost: its link narrows, and sends its unacknowledged flits again, or goes Down below four lanes (R454, R470).
DEDUCED, for a link in Identify or Quarantined: notes/assumptions/26.md. -/
def loseLane (tower link lane : Nat) (s : State) : State :=
  let l := s.linkAt tower link
  if l.state = .down then s
  else
    let m := setBitTo l.lanes lane false
    let w := widthOf (laneCount m)
    let s := s.setLink tower link { l with lanes := m }
    if l.state = .train then s
    else if w = 0 then linkDown tower link s
    else
      let again := match l.unacked with | f :: _ => some f.q | [] => none
      s.updLink tower link (fun l => { l with
        width := BitVec.ofNat 3 w
        state := if l.carries then .narrowed else l.state
        before := if l.state = .rekey then .narrowed else l.before
        replay := again.map (fun q => (q, l.nextQ))
        resend := again })

/-- A flit that the receiver does not take up: its link is not in use, or its sequence is not the next (R462, R470). -/
def Link.refuses (l : Link) (f : Flit) : Bool := !(l.carries || l.state == .rekey) || f.q != l.expectQ

/-- The next expected flit fails its check: a replay from it is asked for, and after eight failures in a row its lane has failed
(R454, R462). -/
def failCheck (tower link : Nat) (f : Flit) (s : State) : State :=
  let l := s.linkAt tower link
  let s := s.setLink tower link { l with fails := l.fails + 1, replayAsk := some f.q }
  if l.fails + 1 < 8 then s
  else
    let s := s.updLink tower link (fun l => { l with fails := 0 })
    match l.laneOf f.q with
    | some k => loseLane tower link k s
    | none => s

/-- The receiver has taken the next flit of an optical link: with the first of a new phase it erases the old key (R462). -/
def Link.took (f : Flit) (l : Link) : Link :=
  { l with expectQ := (l.expectQ + 1) % 2 ^ 48, fails := 0, replayAsk := none, rxPhase := f.phase,
           rxKeys := if f.phase = l.rxPhase then l.rxKeys else mapSet 0 l.rxKeys (bnat l.rxPhase) 0 }

/-- A flit for another node is forwarded on its next hop as it arrives; a packet waits for its source's slot (R455, R459). On a
link that carries no transfers it is lost. -/
def forward (hop : Nat × Nat) (rest : List (Nat × Nat)) (optical : Bool) (f : Flit) (s : State) : State :=
  let f := { f with route := rest, tag := 0 }
  if !optical then s.updTower hop.1 (fun t => { t with shortQ := t.shortQ ++ [(f.obj.extractLsb' 16 8, .fragment f (hop.2 % 8))] })
  else if (s.linkAt hop.1 hop.2).carries then joinLink hop.1 hop.2 [f] s
  else s

/-- A flit or packet for this package enters the ingress buffer. One that would overflow it is dropped with the rest of its transfer,
counted in OVF, and poisons the counter (R458). -/
def bufferFlit (tower link : Nat) (f : Flit) (s : State) : State :=
  let l := s.linkAt tower link
  if l.dropped.contains f.xfer then
    s.setLink tower link { l with dropped := if f.last then l.dropped.filter (fun x => x != f.xfer) else l.dropped }
  else if link < 24 ∧ bufferFlits ≤ l.inbound.length then
    countBytes { f with last := false } 0 true (s.setLink tower link { l with
      dropped := if f.last then l.dropped else l.dropped ++ [f.xfer]
      opened := l.opened.filter (fun x => x.xfer != f.xfer)
      ovf := if l.ovf = BitVec.allOnes 8 then l.ovf else l.ovf + 1 })
  else s.setLink tower link { l with
    inbound := l.inbound ++ [f]
    opened := if f.last then l.opened.filter (fun x => x.xfer != f.xfer)
      else if l.opened.any (fun x => x.xfer == f.xfer) then l.opened
      else l.opened ++ [{ f with data := [] }] }

/-- A flit or packet from the far end. A refused one changes nothing but the replay it asks for; any other is decrypted, and is
forwarded or waits for its memory port (R455, R458, R461, R462). -/
def acceptFlit (tower link : Nat) (f : Flit) (s : State) : State :=
  let l := s.linkAt tower link
  let optical : Bool := link < 24
  if optical && l.refuses f then s
  else if !checksOut tower link l.rxKeys f then (if optical then failCheck tower link f s else s)
  else
    let g := openFlit tower link l.rxKeys f
    let s := if optical then s.setLink tower link (l.took f) else s
    match g.route with
    | hop :: rest => forward hop rest optical g s
    | [] => bufferFlit tower link g s

/-- FLIT_ARRIVAL: a flit or packet arrives, or the ingress writes the oldest that waits and counts its bytes (R458). -/
def execFlitArrival (tower link : Nat) (arrives : Option Flit) (s : State) : Res :=
  match arrives with
  | some f => .next (acceptFlit tower link f s)
  | none =>
    match (s.linkAt tower link).inbound with
    | [] => .next s
    | f :: _ => .next (ingressWrite tower link f s)

/-! ### Link states (R454, R462, R470) -/

/-- The rollover begins, with the next new flit, in a later tick than its request and after a replay in progress (R462).
DEDUCED: notes/assumptions/26.md. -/
def beginRollover (now : Nat) (l : Link) : Link :=
  match l.rolloverAsked with
  | some k =>
    if k < now ∧ l.replay.isNone then
      { l with rolloverAsked := none, rollover := some l.nextQ, phase := !l.phase, phaseCount := 0 }
    else l
  | none => l

/-- FLIT_REPLAY: the sender replays from flit `q`, in sequence order (R462). -/
def execFlitReplay (tower link : Nat) (q : BitVec 48) (s : State) : Res :=
  .next (s.updLink tower link (fun l =>
    if l.unacked.any (fun f => f.q == q.toNat) then { l with replay := some (q.toNat, l.nextQ), resend := some q.toNat } else l))

/-- FLIT_ACK: the flits up to `q` are free (R462). -/
def execFlitAck (tower link : Nat) (q : BitVec 48) (s : State) : Res :=
  .next (s.updLink tower link (fun l =>
    let left := l.unacked.filter (fun f => q.toNat < f.q)
    let replay := match l.replay with
      | some (a, b) => if left.any (fun f => f.q < b) then some (a, b) else none
      | none => none
    { l with unacked := left, replay := replay, resend := if replay.isNone then none else l.resend }))

/-- KEY_INSTALL: the next key of both directions; the rollover of the flits sent begins with the first new one (R462). -/
def execKeyInstall (tower link : Nat) (key : BitVec 256) (s : State) : Res :=
  .next (s.updLink tower link (fun l =>
    if l.rollover.isSome || l.rolloverAsked.isSome then l
    else { l with txKeys := mapSet 0 l.txKeys (bnat !l.phase) key, rxKeys := mapSet 0 l.rxKeys (bnat !l.rxPhase) key,
                  rolloverAsked := some s.tick.toNat }))

/-- KEY_ROLLOVER_COMPLETE: every flit of the old phase is acknowledged; the old key is erased, and a link in Rekey
returns to its state (R462, R470). -/
def execKeyRolloverComplete (tower link : Nat) (s : State) : Res :=
  .next (s.updLink tower link (fun l =>
    match l.rollover with
    | some q =>
      if l.unacked.any (fun f => f.q < q) then l
      else { l with rollover := none, txKeys := mapSet 0 l.txKeys (bnat !l.phase) 0,
                    state := if l.state = .rekey then l.before else l.state }
    | none => l))

/-- KEY_PHASE_EXHAUSTED: the phase has encrypted 2^36 flits (R462, R470). -/
def execKeyPhaseExhausted (tower link : Nat) (s : State) : Res :=
  .next (s.updLink tower link (fun l =>
    if l.carries && phaseLimit ≤ l.phaseCount then { l with state := .rekey, before := l.state } else l))

/-- LANE_FAILURE (R454, R470). -/
def execLaneFailure (tower link lane : Nat) (s : State) : Res := .next (loseLane tower link lane s)

/-- Ten milliseconds of ticks, for a timer that stops at 1 (R470). -/
def trainTicks : Nat := 10000001

/-- LINK_ENABLE (R470). -/
def execLinkEnable (tower link : Nat) (s : State) : Res :=
  .next (s.updLink tower link (fun l =>
    if l.state = .down then { l with state := .train, lanes := 0, trainLeft := trainTicks } else l))

/-- The bytes that an identity record's signatures cover, and those that its certificate covers (R463, R474).
DESIGN CHOICE: notes/assumptions/40.md. -/
def identityBytes (r : Identity) : List Byte :=
  leBytes 8 r.dom.toNat ++ leBytes 8 r.pkg.toNat ++ leBytes 8 r.count.toNat ++ r.edKey ++ r.mlKey
def certificateBytes (r : Identity) : List Byte := r.edKey ++ r.mlKey ++ leBytes 8 r.serial.toNat

/-- Both signatures of a message verify under the key pairs that a hash names (R472). -/
def pairVerifies (keys : BitVec 256) (msg ed ml : List Byte) : Bool :=
  Config.ed25519Verifies keys msg ed && Config.mldsa65Verifies keys msg ml

/-- A signed object verifies: its key index is one of four, not revoked, and both signatures verify under its key pairs (R472). -/
def State.signed (s : State) (msg : List Byte) (x : Sigs) : Bool :=
  x.index < 4 && !s.revoke.getLsbD x.index && pairVerifies (mapGet 0 s.keyHashes x.index) msg x.ed x.ml

/-- An identity record verifies: both its signatures under its keys, which its certificate binds to a serial (R463, R474). -/
def identityOk (s : State) (r : Identity) : Bool :=
  s.signed (certificateBytes r) r.cert && pairVerifies (Config.keyPairHash r.edKey r.mlKey) (identityBytes r) r.ed r.ml

/-- This package's own record, signed with the keys that its seed yields (R463, R474). -/
def ownIdentity (s : State) : Option Identity :=
  s.seed.map (fun k =>
    let r : Identity := { dom := s.dom, pkg := s.pkg, count := s.count, edKey := Config.ed25519Public k,
                          mlKey := Config.mldsa65Public k, serial := s.flash.serial, cert := s.flash.cert, ed := [], ml := [] }
    { r with ed := Config.ed25519Sign k (identityBytes r), ml := Config.mldsa65Sign k (identityBytes r) })

/-- LANES_LOCK: with at least four lanes, Identify at the largest width, where this end presents its record; flits are numbered from
0 again (R454, R463, R470; DEDUCED, notes/assumptions/26.md). -/
def execLanesLock (tower link : Nat) (lanes : BitVec 16) (s : State) : Res :=
  .next (s.updLink tower link (fun l =>
    if l.state = .train then
      let w := widthOf (laneCount lanes)
      if w = 0 then { l with lanes := lanes }
      else { l with state := .identify, lanes := lanes, width := BitVec.ofNat 3 w, trainLeft := 0, expectQ := 0, nextQ := 0,
                    unacked := [], pending := [], replay := none, resend := none, fails := 0, replayAsk := none, opened := [],
                    shown := ownIdentity s }
    else l))

/-- TRAIN_TIMEOUT (R470). -/
def execTrainTimeout (tower link : Nat) (s : State) : Res :=
  .next (if (s.linkAt tower link).state = .train then linkDown tower link s else s)

/-- Ports of this package, other than one, that present an identity (R464). -/
def portsWith (s : State) (t f : Nat) (dom : BitVec 6) (pkg : BitVec 8) : List (Nat × Nat × BitVec 32) :=
  (upto 2).flatMap (fun u => (upto 24).filterMap (fun g =>
    if u = t ∧ g = f then none
    else match (s.linkAt u g).ident with
      | some (d, p, c) => if d = dom ∧ p = pkg then some (u, g, c) else none
      | none => none))

def quarantine (t f : Nat) (s : State) : State := s.updLink t f (fun l => { l with state := .quarantined })

/-- IDENTIFY: the far end's record; a clash with another port quarantines the lower count, or both (R463, R464, R470). -/
def execIdentify (tower link : Nat) (dom : BitVec 6) (pkg : BitVec 8) (count : BitVec 32) (proof : IdentityProof) (s : State) : Res :=
  let l := s.linkAt tower link
  if l.state != .identify then .next s
  else if !identityOk s { proof with dom := dom, pkg := pkg, count := count } then .next (alarm 463 s)
  else
    let others := portsWith s tower link dom pkg
    let s := s.setLink tower link { l with
      ident := some (dom, pkg, count), state := if l.width.toNat = 4 then .active else .narrowed }
    .next (others.foldl (fun s o =>
      if o.2.2.toNat < count.toNat then quarantine o.1 o.2.1 s
      else if count.toNat < o.2.2.toNat then quarantine tower link s
      else alarm 464 (quarantine tower link (quarantine o.1 o.2.1 s))) s)

/-- QUARANTINE_RELEASE (R470). -/
def execQuarantineRelease (tower link : Nat) (s : State) : Res :=
  .next (s.updLink tower link (fun l =>
    if l.state = .quarantined then { l with state := .train, ident := none, trainLeft := trainTicks } else l))

/-- LINK_DISABLE (R470). -/
def execLinkDisable (tower link : Nat) (s : State) : Res :=
  .next (if (s.linkAt tower link).state = .down then s else linkDown tower link s)

/-- LSTAT_CLEAR: a supervisor's write sets ASYM and clears LATEC and OVF (R465). -/
def execLstatClear (tower link : Nat) (asym : BitVec 8) (s : State) : Res :=
  .next (s.updLink tower link (fun l => { l with asym := asym, latec := 0, ovf := 0 }))

/-! ### Time (R465 to R469) -/

def isUpstream (s : State) (tower link : Nat) : Bool :=
  !s.ftGm && s.ftUpl.toNat == link && (if s.ftUpt then tower == 1 else tower == 0)

/-- A signed 16-bit value, saturating. -/
def sat16 (x : Int) : BitVec 16 := BitVec.ofInt 16 (max (-32768) (min 32767 x))

/-- The locked counter slews against an offset: a tick withheld, or added, in so many ticks, never fewer than 4096 (R469). The
manual gives no rate below the largest: it is free. -/
def slew (off16 : Int) (s : State) : State :=
  { s with ftRate := -off16.sign, ftEvery := Nat.max 4096 (Config.slewTicks off16), ftCount := 0 }

/-- The servo's correction by an offset in sixteenths of a tick (R469): one step while unlocked; LOCK once at most 16 ticks
follow; locked, the rate alone changes, and an offset above 256 ticks loses the lock.
DEDUCED: notes/assumptions/27.md. -/
def servo (off16 : Int) (s : State) : State :=
  let mag := off16.natAbs
  let s : State := { s with ftLoff := sat16 off16 }
  if s.ftLock then (if 256 * 16 < mag then { s with ftLock := false, ftStepped := false, ftRate := 0 } else slew off16 s)
  else if !s.ftStepped then { s with tick := s.tick - BitVec.ofInt 64 (off16 / 16), ftStepped := true }
  else if mag ≤ 16 * 16 then { s with ftLock := true }
  else s

/-- Offset and delay of an exchange, in sixteenths of a tick, ASYM added to the outbound half (R467). -/
def exchange (asym : BitVec 8) (t1 t2 t3 t4 : DWord) : Int × Int :=
  let a : Int := 16 * (t2 - t1).toInt
  let b : Int := 16 * (t4 - t3).toInt + asym.toInt
  ((a - b) / 2, (a + b) / 2)

/-- 2^20 ticks, for a timer that stops at 1 (R465). -/
def staleTicks : Nat := 2 ^ 20 + 1

/-- An exchange leaves the REALIGNs that wait for it: a second REALIGN on a link whose exchange is in progress waits for the same one
(R206). DEDUCED: notes/assumptions/27.md. -/
def exchangeOver (tower link : Nat) (s : State) : State :=
  settleReleased { s with released := s.released.map (fun e =>
    match e.effect with
    | .realign _ _ => if e.lay / 8 = tower then { e with gather := e.gather.filter (fun f => f != link) } else e
    | _ => e) }

/-- A REALIGN of the tower waits for an exchange on the link (R206, R467). -/
def exchanging (s : State) (tower link : Nat) : Bool :=
  s.released.any (fun e => match e.effect with
    | .realign _ _ => e.lay / 8 == tower && e.gather.contains link
    | _ => false)

/-- Exchanges on links that are no longer Active or Narrowed are skipped: they count as finished (R467).
DEDUCED: notes/assumptions/27.md. -/
def skipExchanges (tower : Nat) (s : State) : State :=
  (upto 24).foldl (fun s f => if exchanging s tower f && !(s.linkAt tower f).carries then exchangeOver tower f s else s) s

/-- TIMESTAMP_EXCHANGE_DONE: an exchange that a REALIGN started, on a link in use (R206, R467); the upstream link's corrects the
counter, by the servo or by the host, which has every exchange's record (R416, R469). -/
def execTimestampExchangeDone (tower link : Nat) (t1 t2 t3 t4 : DWord) (s : State) : Res :=
  let l := s.linkAt tower link
  if !(exchanging s tower link && l.carries) then .next s
  else
    let x := exchange l.asym t1 t2 t3 t4
    let s := s.setLink tower link { l with delay := BitVec.ofInt 16 (x.2 / 16), stale := false, staleLeft := staleTicks }
    let s := if (s.towerAt tower).dsplit.getLsbD 3 then
        s.updTower tower (fun t => { t with host := t.host ++ [.servo link t1 t2 t3 t4] })
      else if isUpstream s tower link then servo x.1 s
      else s
    .next (exchangeOver tower link s)

/-- The oldest exchange record that a tower's host holds. -/
def servoRequest (s : State) (tower : Nat) : Option Nat :=
  (s.towerAt tower).host.findSome? (fun h => match h with
    | .servo link .. => some link
    | _ => none)

/-- A tower's host is done with the oldest exchange record. -/
def dropServo : List HostReq → List HostReq
  | [] => []
  | .servo .. :: r => r
  | h :: r => h :: dropServo r

/-- HOST_SERVO_REPLY: the host's correction for its oldest exchange record, in sixteenths of a tick; only the upstream link's is
applied, as the servo would apply it (R416, R467, R469). -/
def execHostServoReply (correction : ServoReply) (s : State) : Res :=
  match servoRequest s correction.tower with
  | none => .next s
  | some link =>
    let s := s.updTower correction.tower (fun t => { t with host := dropServo t.host })
    .next (if isUpstream s correction.tower link then servo correction.offset s else s)

/-- STALE_TIMEOUT: no exchange within 2^20 ticks (R465); HOLD follows STALE (R468), and the counter keeps its rate (R469). -/
def execStaleTimeout (tower link : Nat) (s : State) : Res :=
  .next (s.updLink tower link (fun l => { l with stale := true, staleLeft := 0 }))

/-! ### Short network (R459) -/

/-- SLOT_TABLE_LOAD: a slot's owner, 2·package + tower, or none. -/
def execSlotTableLoad (tower port slot : Nat) (owner : Option Nat) (s : State) : Res :=
  .next (s.updTower tower (fun t => { t with
    shortTab := mapSet 0 t.shortTab (256 * port + slot % 256) (match owner with | some o => o + 1 | none => 0) }))

/-- The present slot of the short frames, counted from 1 (R459). -/
def slotNow (s : State) : Nat := s.tick.toNat / 8 + 1

/-- The present slot belongs to a source on a port, which has sent nothing in it (R459). -/
def freeSlot (s : State) (tower port src : Nat) : Bool :=
  mapGet 0 (s.towerAt tower).shortTab (256 * port + s.tick.toNat / 8 % 256) == src + 1
    && mapGet 0 (s.towerAt tower).shortSent port != slotNow s

/-- A port of the tower sends a packet in this slot, under its sequence numbers (R459). -/
def useSlot (tower port : Nat) (s : State) : State :=
  let now := slotNow s
  (s.updTower tower (fun t => { t with shortSent := mapSet 0 t.shortSent port now })).updLink tower (portLink port)
    (fun l => { l with nextQ := (l.nextQ + 1) % 2 ^ 48 })

/-- A packet's original source, and whether it leaves by a port: a SEND's data goes by the port its path names (R455, R459). -/
def ShortMsg.source (s : State) (tower : Nat) : ShortMsg → Nat
  | .fragment f _ => f.src
  | _ => sourceOf s tower
def ShortMsg.leavesBy (port : Nat) : ShortMsg → Bool
  | .fragment _ p => p == port
  | _ => true

/-- The message a port can send now: the oldest bound for another package whose source owns the slot. -/
def shortNext (s : State) (tower port : Nat) : Option (BitVec 8 × ShortMsg) :=
  (s.towerAt tower).shortQ.find? (fun m => m.1 != s.pkg && m.2.leavesBy port && freeSlot s tower port (m.2.source s tower))

/-- A credit leaves in an owned slot; one for a layer of this package is on its way to it (R460). -/
def sendCredit (tower port : Nat) (peer : BitVec 16) (s : State) : State :=
  let s := useSlot tower port (s.updTower tower (fun t => { t with credits := t.credits.tail }))
  if peer.extractLsb' 8 8 = s.pkg then
    s.updTower (peer.toNat / 2 ^ 7 % 2) (fun t => { t with
      shortQ := t.shortQ ++ [(s.pkg, .credit (8 * (peer.toNat / 2 ^ 7 % 2) + peer.toNat / 2 ^ 4 % 8) (peer.toNat % 16))] })
  else s

/-- A port's packet of the present slot: a credit, or the oldest message whose source owns the slot (R459, R460). -/
def sendShort (tower port : Nat) (s : State) : State :=
  match (s.towerAt tower).credits, freeSlot s tower port (sourceOf s tower) with
  | peer :: _, true => sendCredit tower port peer s
  | _, _ => match shortNext s tower port with
    | some m => useSlot tower port (s.updTower tower (fun t => { t with shortQ := t.shortQ.erase m }))
    | none => s

/-- An eyelet's name, as a PEER field holds it (R199). -/
def eyeletName (s : State) (lay e : Nat) : BitVec 16 := BitVec.ofNat 16 (e % 16 + 16 * (lay % 16) + 256 * s.pkg.toNat)

/-- EYELET_WORD_SEND: in a slot that its package owns on some port, the oldest word leaves and spends a credit; one for this
package is on its way (R198, R459, R460). -/
def execEyeletWordSend (lay e : Nat) (s : State) : Res :=
  let y := mapGet .reset (s.layerAt lay).eyelets e
  let tower := lay / 8
  match y.words, (upto 8).find? (fun p => freeSlot s tower p (sourceOf s tower)) with
  | w :: rest, some port =>
    if y.en && y.dir && y.credit != 0 && (s.layerAt lay).power != .off then
      let s := useSlot tower port (s.updLayer lay (fun l =>
        { l with eyelets := mapSet .reset l.eyelets e { y with words := rest, credit := y.credit - 1 } }))
      .next (if y.peer.extractLsb' 8 8 = s.pkg then
          s.updTower (y.peer.toNat / 2 ^ 7 % 2) (fun t => { t with shortQ := t.shortQ ++ [(s.pkg, .word y.peer (eyeletName s lay e) w)] })
        else s)
    else .next s
  | _, _ => .next s

end Sys2Proof.Machine
end

