-- ==== Sys2Proof/Machine/Image.lean ====
section
/-!
DEFINITION. Task images (R369 to R382): the checks a launch record's image must pass, and the binary lasts with the switch
settings of their networks (R377 to R379).
-/

namespace Sys2Proof.Machine

/-! ### Lasts (R377, R378) -/

/-- The switch of stage dimension `d` that position `x` meets. -/
def switchOf (d x : Nat) : Nat := x / 2 ^ (d + 1) * 2 ^ d + x % 2 ^ d

/-- Dimension of a stage. -/
def stageDim (s : Nat) : Nat := if s < 9 then 9 - s else s - 9

/-- Where a word that enters at `x` stands after the stages (R378). -/
def benesFrom (w : Nat) : List Nat → Nat → Nat
  | [], x => x
  | s :: r, x =>
    let d := stageDim s
    benesFrom w r (if w.testBit (512 + 512 * s + switchOf d x) then x ^^^ 2 ^ d else x)

/-- A last from its 4096 bytes; any KIND but read and write gives an empty one (R377). -/
def lastOf (b : List Byte) : Last :=
  let w := ofLe b
  let p : BitVec 10240 := BitVec.ofNat 10240 (packNat 10 (benesFrom w (upto 19)) 1024)
  let sel : BitVec 8192 := BitVec.ofNat 8192 (w >>> 20480)
  let m : Row := BitVec.ofNat 1024 (w >>> 28672)
  match w % 4 with
  | 1 => { kind := .read, p := p, f := BitVec.ofNat 10240 (w >>> 10240), sel := sel, m := m, raw := w }
  | 2 => { kind := .write, p := p, f := identPos, sel := sel, m := m, raw := w }
  | _ => .none

/-- Entry of a packed table of positions. -/
def posAt (t : Nat) (j : Nat) : Nat := (t >>> (10 * j)) % 1024

/-- The inverse of a packed permutation. -/
def invPos (t : Nat) : Nat := (upto 1024).foldl (fun a j => a + j * 2 ^ (10 * posAt t j)) 0

/-- One chain of the colouring at dimension `d` (R379): the coloured set and the set with colour 1. -/
def colourChain (t inv d : Nat) : Nat → Nat → Nat × Nat → Nat × Nat
  | 0, _, c => c
  | n + 1, x, (seen, one) =>
    if seen.testBit x then (seen, one)
    else
      let y := x ^^^ 2 ^ d
      colourChain t inv d n (posAt inv (posAt t y ^^^ 2 ^ d)) (seen ||| 2 ^ x ||| 2 ^ y, one ||| 2 ^ y)

/-- The colours of all positions: the set with colour 1. -/
def colours (t d : Nat) : Nat :=
  let inv := invPos t
  ((upto 1024).foldl (fun c x => colourChain t inv d 513 x c) (0, 0)).2

def putBit (x d : Nat) (b : Bool) : Nat := if x.testBit d then (if b then x else x - 2 ^ d) else if b then x + 2 ^ d else x

/-- The settings of stages 9 − d and 9 + d and the inner permutation (R379), as bits of the last's image. -/
def solveLevel (t d : Nat) : Nat × Nat :=
  let h := colours t d
  (upto 1024).foldl (fun a x =>
    let b := h.testBit x
    let y := posAt t x
    let w := if !x.testBit d && b then 2 ^ (512 + 512 * (9 - d) + switchOf d x) else 0
    let v := if y.testBit d != b then 2 ^ (512 + 512 * (9 + d) + switchOf d y) else 0
    (a.1 ||| w ||| v, a.2 + putBit y d b * 2 ^ (10 * putBit x d b))) (0, 0)

/-- Settings that realise a packed permutation, from dimension `d` inward. -/
def solveBenes : Nat → Nat → Nat
  | 0, t => (upto 512).foldl (fun a i => if posAt t (2 * i) != 2 * i then a ||| 2 ^ (512 + 512 * 9 + i) else a) 0
  | d + 1, t => let r := solveLevel t (d + 1); r.1 ||| solveBenes d r.2

/-- A last as 4096 bytes (R377); the bytes R377 ignores are zero. -/
def lastBytes (l : Last) : List Byte :=
  let kind := match l.kind with | .empty => 0 | .read => 1 | .write => 2
  if l.kind = .empty then List.replicate 4096 0
  else leBytes 4096 (kind + solveBenes 9 l.p.toNat + l.f.toNat * 2 ^ 10240 + l.sel.toNat * 2 ^ 20480 + l.m.toNat * 2 ^ 28672)

/-! ### Reading an image -/

/-- Little-endian number at an offset of an image. -/
def at_ (b : List Byte) (o n : Nat) : Nat := ofLe ((b.drop o).take n)

/-- A section: offset and length (R370): 0 CODE, 1 DATA, 2 CONST, 3 BANKFMT, 4 REGIONS, 5 LIVEIN, 6 LASTTAB, 7 LASTS,
8 ROUTINES, 9 RELOCS, 10 SIG. -/
def section_ (b : List Byte) (i : Nat) : Nat × Nat := (at_ b (0x40 + 8 * i) 4, at_ b (0x44 + 8 * i) 4)
def sectionBytes (b : List Byte) (i : Nat) : List Byte := (b.drop (section_ b i).1).take (section_ b i).2

def imgLen (b : List Byte) : Nat := at_ b 0x18 8
def imgShare (b : List Byte) : DWord := BitVec.ofNat 64 (at_ b 8 8)
def imgFlags (b : List Byte) : Nat := at_ b 6 2
def imgProf (b : List Byte) : Bool := (imgFlags b).testBit 0
def imgSup (b : List Byte) : Bool := (imgFlags b).testBit 1
def imgEntry (b : List Byte) : Nat := at_ b 0x10 8

/-- A loop-table entry (R37). -/
def loopEntryOf (w : DWord) : LoopEntry :=
  { kind := fld w 0 3, trip := fld w 8 24, start := w.extractLsb' 32 16, stride := w.extractLsb' 48 16 }
def imgLoops (b : List Byte) : List LoopEntry :=
  (upto 4).map (fun j => loopEntryOf (BitVec.ofNat 64 (at_ b (0x20 + 8 * j) 8)))

/-! ### Shares (R40, R371) -/

/-- Sizes in granules of a SHARE word. -/
def shBanks (w : DWord) : Nat := fld w 0 3
def shVregs (w : DWord) : Nat := fld w 3 3
def shPlanes (w : DWord) : Nat := fld w 6 3
def shAcc (w : DWord) : Nat := fld w 9 3
def shLasts (w : DWord) : Nat := fld w 12 3
def shAwl (w : DWord) : Nat := fld w 15 3
def shEdge (w : DWord) : Bool := w.getLsbD 18
def shEye (w : DWord) : BitVec 16 := w.extractLsb' 32 16

/-- Sizes R40 allows; a supervisor image may hold no banks and no vector registers. -/
def shareSizesOk (sup : Bool) (w : DWord) : Bool :=
  (sup || 1 ≤ shBanks w) && shBanks w ≤ 4 && (sup || 1 ≤ shVregs w) && shVregs w ≤ 4 && shPlanes w ≤ 4 && shAcc w ≤ 4
    && shLasts w ≤ 4 && shAwl w ≤ 4
def shareResvOk (w : DWord) : Bool := fld w 19 13 == 0 && fld w 48 16 == 0

/-- A request is at least a minimum (R371). -/
def shareCovers (req min : DWord) : Bool :=
  shBanks min ≤ shBanks req && shVregs min ≤ shVregs req && shPlanes min ≤ shPlanes req && shAcc min ≤ shAcc req
    && shLasts min ≤ shLasts req && shAwl min ≤ shAwl req && (shEdge req || !shEdge min)
    && (shEye min &&& ~~~ shEye req) == 0

/-- A granted share in R371's layout. -/
def Share.word (h : Share) : DWord :=
  BitVec.ofNat 64 (h.banks.length + 8 * h.vregs.length + 64 * h.planes.length + 512 * h.acc.length + 4096 * h.lasts.length
    + 2 ^ 15 * h.awl.length + 2 ^ 18 * bnat h.edge + 2 ^ 32 * h.eye.toNat)

/-! ### Checks of an image (R369 to R381) -/

/-- NAME is ASCII, zero-padded (R370). -/
def nameOk (n : List Byte) : Bool :=
  n.all (fun c => c.toNat < 128) && (n.dropWhile (fun c => c != 0)).all (fun c => c == 0)

def headerOk (b : List Byte) : Bool :=
  256 ≤ b.length && nameOk ((b.drop 0xA0).take 32) && at_ b 0 4 == 0x474D4957 && at_ b 4 2 == 1 && imgFlags b < 4 && imgEntry b % 4 == 0
    && imgEntry b < (section_ b 0).2 && at_ b 0x98 8 == 0 && at_ b 0xC0 0x40 == 0
    && shareSizesOk (imgSup b) (imgShare b) && shareResvOk (imgShare b)
    && (upto 4).all (fun j => at_ b (0x20 + 8 * j) 1 < 8)

def sectionsOk (b : List Byte) : Bool :=
  let ss := (upto 11).map (fun i => (i, section_ b i))
  ss.all (fun e =>
    let o := e.2.1
    let n := e.2.2
    if n = 0 then o == 0
    else 256 ≤ o && o + n ≤ imgLen b && o % 64 == 0 && (e.1 != 7 || o % 4096 == 0) && (e.1 != 2 || o % 128 == 0)
      && ss.all (fun f => f.1 == e.1 || f.2.2 == 0 || f.2.1 + f.2.2 ≤ o || o + n ≤ f.2.1))

/-- BANKFMT (R373): words of banks outside the minimum share are zero, the rest are ones R73 does not refuse in the share. -/
def bankFmtOk (b : List Byte) (share : DWord) : Bool :=
  let s := section_ b 3
  s.2 == 0 || (s.2 == 256 && (upto 32).all (fun n =>
    let w : DWord := BitVec.ofNat 64 (at_ b (s.1 + 8 * n) 8)
    if 8 * shBanks (imgShare b) ≤ n then w == 0 else !bfmtBad (8 * shBanks share) w))

/-- A live-in descriptor (R375). -/
structure Desc where
  s      : DWord
  g      : BitVec 16
  k      : BitVec 8
  b      : BitVec 4
  planes : BitVec 4
  p      : BitVec 16
  x      : Word
  v      : BitVec 96
  /-- First and last bank, first and last row. -/
  banks  : List (Nat × Nat × Nat × Nat)
  /-- First and last tile. -/
  acc    : List (Nat × Nat)
  deriving DecidableEq, Repr

def descOf (b : List Byte) : Desc :=
  let w1 : DWord := BitVec.ofNat 64 (at_ b 8 8)
  let nb := at_ b 40 1
  let na := at_ b 41 1
  { s := BitVec.ofNat 64 (at_ b 0 8), g := w1.extractLsb' 0 16, k := w1.extractLsb' 16 8, b := w1.extractLsb' 24 4,
    planes := w1.extractLsb' 28 4, p := w1.extractLsb' 32 16, x := BitVec.ofNat 32 (at_ b 16 4),
    v := BitVec.ofNat 96 (at_ b 24 12),
    banks := (upto nb).map (fun i =>
      let r : DWord := BitVec.ofNat 64 (at_ b (48 + 4 * i) 4)
      (fld r 0 5, fld r 5 5, fld r 10 8, fld r 18 8)),
    acc := (upto na).map (fun i =>
      let r : DWord := BitVec.ofNat 64 (at_ b (48 + 4 * nb + 4 * i) 4)
      (fld r 0 6, fld r 6 6)) }

/-- Bytes of a descriptor, its padding among them. -/
def descLen (b : List Byte) : Nat := (48 + 4 * (at_ b 40 1 + at_ b 41 1) + 7) / 8 * 8

/-- A descriptor names nothing outside the share, and its zero fields are zero (R375). -/
def descOk (b : List Byte) (share : DWord) : Bool :=
  let d := descOf b
  let nb := at_ b 40 1
  let na := at_ b 41 1
  at_ b 14 2 == 0 && at_ b 20 4 == 0 && at_ b 36 4 == 0 && at_ b 42 2 == 0 && at_ b 44 4 == 0
    && (upto nb).all (fun i => at_ b (48 + 4 * i) 4 < 2 ^ 26)
    && (upto na).all (fun i => at_ b (48 + 4 * nb + 4 * i) 4 < 2 ^ 12)
    && at_ b (48 + 4 * (nb + na)) (descLen b - 48 - 4 * (nb + na)) == 0
    && d.planes.toNat < 2 ^ shPlanes share && d.p.toNat < 2 ^ (4 * shVregs share) && d.v.toNat < 2 ^ (24 * shVregs share)
    && d.banks.all (fun r => r.1 < 8 * shBanks share && r.2.1 < 8 * shBanks share)
    && d.acc.all (fun r => r.1 < 16 * shAcc share && r.2 < 16 * shAcc share)

def regionTable (b : List Byte) : List (Nat × Bool × Nat) :=
  let s := section_ b 4
  (upto (s.2 / 16)).map (fun i =>
    let w0 := at_ b (s.1 + 16 * i) 8
    (w0 % 2 ^ 32, w0.testBit 32, (section_ b 5).1 + at_ b (s.1 + 16 * i + 8) 8))

def rising : List Nat → Bool
  | a :: b :: r => a < b && rising (b :: r)
  | _ => true

/-- REGIONS and LIVEIN (R374, R375). -/
def regionsOk (b : List Byte) (share : DWord) : Bool :=
  let s := section_ b 4
  let li := section_ b 5
  s.2 % 16 == 0 && (upto (s.2 / 16)).all (fun i => at_ b (s.1 + 16 * i) 8 < 2 ^ 33)
    && rising ((regionTable b).map (fun r => r.1))
    && (regionTable b).all (fun r =>
      r.2.2 + 48 ≤ li.1 + li.2 && r.2.2 + descLen (b.drop r.2.2) ≤ li.1 + li.2 && descOk (b.drop r.2.2) share)

/-- LASTTAB and LASTS (R376, R377). -/
def lastsOk (b : List Byte) : Bool :=
  let s := section_ b 6
  let ls := section_ b 7
  s.2 % 8 == 0 && s.2 ≤ 16384 && (upto (s.2 / 8)).all (fun n =>
    let w := at_ b (s.1 + 8 * n) 4
    let k := at_ b (s.1 + 8 * n + 4) 4
    w < 3 && (w == 0 || (4096 * k + 4096 ≤ ls.2 && at_ b (ls.1 + 4096 * k) 1 % 4 == w)))

/-- Lasts of the table, unused entries among them. -/
def imgLasts (b : List Byte) : List (Option Last) :=
  let s := section_ b 6
  (upto (s.2 / 8)).map (fun n =>
    if at_ b (s.1 + 8 * n) 4 = 0 then none
    else some (lastOf ((b.drop ((section_ b 7).1 + 4096 * at_ b (s.1 + 8 * n + 4) 4)).take 4096)))

/-- Routine records: entry and micro-words; `none` when malformed (R380). -/
def routineRecs : Nat → List Byte → Option (List (Nat × List DWord))
  | 0, b => if b.isEmpty then some [] else none
  | n + 1, b =>
    if b.isEmpty then some []
    else
      let h := at_ b 0 8
      let w := h / 256 % 1024
      if h / 32 % 8 != 0 || 2 ^ 18 ≤ h || w = 0 || 512 < w || b.length < 8 + 8 * w then none
      else (routineRecs n (b.drop (8 + 8 * w))).map (fun r =>
        (h % 32, (upto w).map (fun i => BitVec.ofNat 64 (at_ b (8 + 8 * i) 8))) :: r)

def imgRoutines (b : List Byte) : Option (List (Nat × List DWord)) :=
  let x := sectionBytes b 8
  routineRecs (x.length / 16) x

/-- RELOCS (R381). -/
def relocsOk (b : List Byte) : Bool :=
  let s := section_ b 9
  s.2 % 8 == 0 && (upto (s.2 / 8)).all (fun i =>
    let w : DWord := BitVec.ofNat 64 (at_ b (s.1 + 8 * i) 8)
    fld w 0 3 == 0 && fld w 15 1 == 0 && fld w 16 4 < 3 && fld w 20 44 == 0 && fld w 0 15 < (section_ b 1).2)

/-- SIG's form (R382). -/
def sigOk (b : List Byte) : Bool :=
  let s := section_ b 10
  s.2 == 0 || (s.2 == 3392 && at_ b s.1 8 < 4 && at_ b (s.1 + 3381) 11 == 0
    && (upto 10).all (fun i => (section_ b i).1 + (section_ b i).2 ≤ s.1))

/-- Code 3: any failure of R369 to R381. -/
def imageFormOk (b : List Byte) (share : DWord) : Bool :=
  headerOk b && sectionsOk b && (section_ b 1).2 ≤ 24576 && bankFmtOk b share && regionsOk b share && lastsOk b
    && (imgRoutines b).isSome && relocsOk b

/-- Code 4: the block has its form, and both signatures verify under a key index that is not revoked (R382, R472). -/
def signatureOk (s : State) (b : List Byte) : Bool :=
  let x := section_ b 10
  let sig := sectionBytes b 10
  x.2 == 3392 && sigOk b
    && s.signed (b.take x.1) { index := at_ b x.1 1, ed := (sig.drop 8).take 64, ml := (sig.drop 72).take 3309 }

/-- Code 6: the loop table (R39). -/
def loopsOk (b : List Byte) (gang : Bool) : Bool :=
  let ls := imgLoops b
  ls.all (fun e => e.kind ≤ 4 && (e.kind < 2 || e.trip == 0))
    && [2, 3, 4].all (fun k => (ls.filter (fun e => e.kind == k)).length ≤ 1)
    && (gang || !ls.any (fun e => e.kind == 4))

/-- Code 11: more lasts or routine words than an empty store holds (R404). -/
def tablesFitEmpty (b : List Byte) : Bool :=
  (imgLasts b).length ≤ 2048 && ((imgRoutines b).getD []).foldl (fun a r => a + r.2.length) 0 ≤ 512

/-- The image's tables as issue uses them; `lasts` are the store entries chosen for it. -/
def imageInfo (b : List Byte) (lasts : List (Option Nat)) (asid : BitVec 12) : ImageInfo :=
  { code := (section_ b 0).1, codeLen := (section_ b 0).2, loops := imgLoops b, regions := regionTable b, lasts := lasts,
    routines := ((imgRoutines b).getD []).map (fun r => r.1), asid := asid }

/-- DATA after relocation (R372, R381). -/
def imgData (b : List Byte) (arglen share swin : Nat) : List Byte :=
  let s := section_ b 9
  let put := fun (d : List Byte) (o v : Nat) => (d.take o ++ leBytes 8 v ++ d.drop (o + 8)).take d.length
  (upto (s.2 / 8)).foldl (fun d i =>
    let w : DWord := BitVec.ofNat 64 (at_ b (s.1 + 8 * i) 8)
    put d (fld w 0 15) (match fld w 16 4 with | 0 => arglen | 1 => share | _ => swin)) (sectionBytes b 1)

end Sys2Proof.Machine
end

