-- ==== Sys2Proof/Machine/Flow.lean ====
section
/-!
DEFINITION. Branch targets, transfers, calls, returns and hardware loops (R162 to R175).
-/

namespace Sys2Proof.Machine

/-- land(b[j], 1, target); the register is ready for a transfer from tp+6, five steps after it lands (R162). -/
def prepare (b : BitVec 2) (target : DWord) (s : State) : State :=
  land (.b b.toNat) 1 (onesMask 64) (target.setWidth 32768) s

/-- A taken transfer: this bundle and two delay bundles end, then the target issues, no earlier than `ready`
(R164). -/
def transfer (target : DWord) (ready : Nat) (s : State) : State :=
  s.updMe (fun c => { c with xfer := some (target, 3, ready), delay := 3, xferDepth := c.shadowView.length })

def Ctx.bReadyAt (c : Ctx) (j : Nat) : Nat := mapGet 0 c.bReady j

/-- Transfers to b[j] as it stands at t when the condition holds (R164). -/
def transferIf (cond : Bool) (b : BitVec 2) (s : State) : State :=
  if cond then transfer (s.me.bReg b.toNat) (s.me.bReadyAt b.toNat) s else s

/-- BPREP, relative form: A + 4·imm (R162). -/
def execBprepRelative (b : BitVec 2) (i : BitVec 14) (s : State) : Res :=
  issue (.bprepRelative b i) s (fun s => prepare b (bprepTarget s i) s)

/-- BPREP, register form (R162). -/
def execBprepRegister (b : BitVec 2) (a : BitVec 7) (s : State) : Res :=
  issue (.bprepRegister b a) s (fun s => prepare b (s.src a) s)

/-- BCMP (R163). -/
def execBcmp (c : BitVec 4) (k : BitVec 3) (a b : BitVec 7) (s : State) : Res :=
  issue (.bcmp c k a b) s (fun s => landK k.toNat 1 (branchCond c (s.src a) (s.src b)) s)

/-- BCMPI: a 7-bit signed immediate, 28 bits with LIMM (R163). -/
def execBcmpi (c : BitVec 4) (k : BitVec 3) (a i : BitVec 7) (s : State) : Res :=
  issue (.bcmpi c k a i) s (fun s => landK k.toNat 1 (branchCond c (s.src a) (immS s.latch.limm 7 i.toNat)) s)

/-- BXFER (R164). -/
def execBxfer (b : BitVec 2) (alw neg : Bool) (k : BitVec 3) (s : State) : Res :=
  issue (.bxfer b alw neg k) s (fun s => transferIf (alw || (s.me.k.getLsbD k.toNat != neg)) b s)

/-- BPOIS (R165). -/
def execBpois (b : BitVec 2) (neg : Bool) (s : State) : Res :=
  issue (.bpois b neg) s (fun s => transferIf (s.me.spois != neg) b s)

/-- The return address: the first bundle after the second delay bundle (R168). -/
def returnAddress (s : State) : DWord :=
  BitVec.ofNat 64 (nextBundle s s.lay s.me (nextBundle s s.lay s.me s.latch.next.toNat))

/-- CALL: RA lands in s[X] and goes on the shadow stack; then the transfer (R168, R170). -/
def execCall (d : BitVec 7) (b : BitVec 2) (s : State) : Res :=
  issue (.call d b) s (fun s =>
    welt (.shadow (.push (returnAddress s))) (transferIf true b (landS d 1 (returnAddress s) s)))

/-- RET: pops the matching entry and transfers, the target no earlier than t+4; its delay bundles stand at the caller's depth
(R167, R169, R173). -/
def execRet (a : BitVec 7) (s : State) : Res :=
  issue (.ret a) s (fun s => transfer (s.src a) (s.now + 4) (welt (.shadow .pop) s))

/-- Starts level j with N iterations, or goes to the end address when N = 0 (R172). -/
def startLoop (lv : BitVec 2) (off : BitVec 14) (n : Nat) (s : State) : State :=
  let e := loopStop s off
  if n = 0 then { s with latch := { s.latch with next := e } }
  else s.updMe (fun c =>
    let l : LoopLevel :=
      { active := true, k := 0, n := n, start := s.latch.next, stop := e, depth := c.shadowView.length }
    { c with loops := (upto 4).map (fun j => if j = lv.toNat then l else c.loopOf j) })

/-- LOOP with the count of the loop table (R171, R172). -/
def execLoopTable (lv : BitVec 2) (off : BitVec 14) (s : State) : Res :=
  issue (.loopTable lv off) s (fun s => startLoop lv off (loopCount s (s.me.loopEntry lv.toNat) none) s)

/-- LOOP with the count of a register (R171, R172). -/
def execLoopRegister (lv : BitVec 2) (sc : BitVec 4) (off : BitVec 14) (s : State) : Res :=
  issue (.loopRegister lv sc off) s (fun s => startLoop lv off (loopCount s (s.me.loopEntry lv.toNat) (some sc)) s)

end Sys2Proof.Machine
end

