-- ==== Sys2Proof/Machine/Issue.lean ====
section
/-!
DEFINITION. Issue: the choice of a context (R53), the fetch and the checks of a bundle (R134, R136 to R138, R167, R173,
R175), its holds and waits (R358, R35), and what follows a bundle (R139, R164, R172, R173).
-/

namespace Sys2Proof.Machine

/-! ### The choice of a context (R53) -/

/-- A TEXIT of the context has issued (R209). -/
def Ctx.hasExited (x : Ctx) : Bool :=
  x.exiting.isSome || x.regions.any (fun g => g.effects.any (fun e => match e.2 with | .texit _ => true | _ => false))

/-- A Ready or Issuing context that may be selected, also one whose TEXIT has issued and has not committed: it issues nothing
(R53, R209). -/
def Ctx.selectable (x : Ctx) : Bool :=
  x.state == .resident && (x.task == .ready || x.task == .issuing) && x.wait != .resumeHold

/-- Whether `a` is to be selected before `b`: effective priority, then not the current one, then the longer wait,
then the lower number. -/
def selectFirst (cur : Option Nat) (a b : Nat × Ctx) : Bool :=
  if a.2.eprio != b.2.eprio then b.2.eprio.toNat < a.2.eprio.toNat
  else if (cur == some a.1) != (cur == some b.1) then cur == some b.1
  else if a.2.idle != b.2.idle then b.2.idle < a.2.idle
  else a.1 < b.1

def bestCtx (cur : Option Nat) : List (Nat × Ctx) → Option Nat
  | [] => none
  | a :: r => some (r.foldl (fun m x => if selectFirst cur x m then x else m) a).1

/-- A Ready context that has starved (R55). -/
def Ctx.starved (x : Ctx) : Bool := x.task == .ready && x.eprio == 3 && decide (262144 ≤ x.idle)

/-- Selection at a switch point, and whenever no context issues. A mark that a starved context asked for is over once it is
selected, unless another starves (R55). -/
def select (lay : Nat) (s : State) : State :=
  let l := s.layerAt lay
  let stay := match l.cur with
    | some c => !l.switch && (s.ctxAt (ctxKey lay c)).selectable
    | none => false
  if stay then s
  else
    let cands := ((upto 5).map (fun c => (c, s.ctxAt (ctxKey lay c)))).filter (fun p => p.2.selectable)
    let best := bestCtx l.cur cands
    let s := match l.cur with
      | some c => s.updCtx (ctxKey lay c) (fun x =>
          if x.task = TaskState.issuing ∧ best ≠ some c then { x with task := .ready, idle := 0 } else x)
      | none => s
    let s := match best with
      | some c => s.updCtx (ctxKey lay c) (fun x => { x with task := TaskState.issuing })
      | none => s
    let starving := (upto 5).any (fun c => (s.ctxAt (ctxKey lay c)).starved)
    s.updLayer lay (fun l => { l with cur := best, switch := false, swaySeal := starving })

/-! ### The checks of a bundle (R138) -/

/-- A slot of a bundle as the checks see it: its instruction and the LIMM before it. -/
structure Cand where
  idx   : Nat
  /-- `none` where the class or function is unassigned. -/
  instr : Option Instr
  /-- A field marked zero is not zero (R133). -/
  field_ : Bool
  limm  : Option (BitVec 21)
  deriving DecidableEq, Repr

def candidates : Nat → Option (BitVec 21) → List Word → List Cand
  | _, _, [] => []
  | n, l, w :: r =>
    match decodeSlot w with
    | .ok i => { idx := n, instr := some i, field_ := false, limm := l }
        :: candidates (n + 1) (match i with | .limm h => some h | _ => none) r
    | .error (.nonzeroField i) => { idx := n, instr := some i, field_ := true, limm := l } :: candidates (n + 1) none r
    | .error _ => { idx := n, instr := none, field_ := false, limm := l } :: candidates (n + 1) none r

/-- The bundle's controls (R139). -/
def bctlOf : Option Instr → Bctl
  | some (.bctl ginv gen gp gap is fw iw sway sl) =>
    { ginv := ginv, gen := gen, gp := gp, gap := gap, is := is, fw := fw, iw := iw, sway := sway, sealed := sl }
  | _ => .zero

/-- The state as the check of one slot sees it. -/
def Cand.view (c : Cand) (s : State) : State := { s with latch := { s.latch with slot := c.idx, limm := c.limm } }

/-- The first slot for which a check fails. -/
def firstFault (s : State) (f : Cand → Instr → State → Check) : List Cand → Check
  | [] => none
  | c :: r => match c.instr with
    | some i => orElse (f c i (c.view s)) (fun _ => firstFault s f r)
    | none => firstFault s f r

def isTransfer : Instr → Bool
  | .bxfer .. | .bpois .. | .call .. | .ret _ => true
  | _ => false

/-- Slots that exceed a resource (R136). -/
def overLimit (is : List Instr) : Bool :=
  (upto 17).any (fun r => resourceLimit r < (is.map (fun i => ((resources i).filter (fun x => x == r)).length)).sum)

/-- Two slots name one destination register (R137); registers of one file, and last-cache entries. -/
def sameDest (is : List Instr) : Bool := !(is.flatMap dests).Nodup

/-- An EDGE slot and a net-write slot that send one way (R137). -/
def sendClash (is : List Instr) : Bool :=
  let edge := is.filter (fun i => (resources i).contains 16)
  let net := is.filter (fun i => (resources i).contains 10)
  edge.any (fun a => net.any (fun b => sendsToward a &&& sendsToward b != 0))

/-- The active loops that test their end in the bundle in hand: those of its own call depth or deeper; a delay bundle stands at
the depth of its transfer (R167, R173). -/
def Ctx.testing (x : Ctx) : List LoopLevel :=
  x.loops.filter (fun l => l.active && decide ((if 0 < x.delay then x.xferDepth else x.shadowView.length) ≤ l.depth))

/-- Placement faults of the whole bundle (R137, R148, R167, R175). DEDUCED: notes/assumptions/34.md. -/
def bundlePlacement (s : State) (is : List Instr) (lastLimm : Bool) : Bool :=
  let x := s.me
  let e := s.latch.baddr.toNat + 4 * s.latch.words.length
  sameDest is || sendClash is || lastLimm
    || (is.any isTransfer && (s.latch.bctl.sealed || s.latch.bctl.sway))
    || (0 < x.delay && x.testing.any (fun l => l.stop.toNat == e))
    || x.testing.any (fun l => l.start.toNat ≤ s.latch.baddr.toNat && s.latch.baddr.toNat < l.stop.toNat && l.stop.toNat < e)

/-- The welt entries of the slots before one in its bundle. -/
def weltBefore (cs : List Cand) (n : Nat) : Nat :=
  (cs.filter (fun c => c.idx < n && (match c.instr with | some i => takesWelt i | none => false))).length

/-- The g registers that CLDs of the context still owe. -/
def cldPending (s : State) : List Loc :=
  s.reqs.filterMap (fun q => match q.kind with
    | .cld g => if q.ctxKey = ctxKey s.lay s.ctx ∧ !q.dropped then some (Loc.g g) else none
    | _ => none)

/-- Sequencer reads and writes under debug mode, those of a cell slot's s, g and k registers among them (R353). -/
def debugSeq (i : Instr) (s : State) : Check :=
  if s.me.lm != 2 then none
  else
    let mine := (s.layer.pend ++ s.layer.votes.map Vote.pend).filter (fun p => p.ctx == s.ctx && p.seq < s.latch.seq)
    let owed := cldPending s
    let locOf := fun (r : Reg) => match r.1 with
      | .s => some (Loc.s r.2) | .g => some (Loc.g r.2) | .k => some (Loc.k r.2) | .b => some (Loc.b r.2) | _ => none
    let reads := (srcs i).filterMap locOf
    let writes := (dests i).filterMap locOf
    let lat := match i with
      | .ldd .. | .ldw .. | .ldwu .. => 3
      | .vany .. | .vall .. | .vcount .. | .pvote _ | .pvoteClr _ => 40
      | _ => 1
    let mem := match i with
      | .ldd _ a b => some (dmemBase s.ctx + (smemAddr s a b).toNat, 8)
      | .ldw _ a b | .ldwu _ a b => some (dmemBase s.ctx + (smemAddr s a b).toNat, 4)
      | .send _ _ _ a => some (dmemBase s.ctx + (s.src a).toNat, 32)
      | _ => none
    let touches := fun (p : Pend) => reads.contains p.loc || (match p.loc, mem with
      | .dmem a n, some (b, m) => decide (a < b + m ∧ b < a + n)
      | _, _ => false)
    orElse (failIf (mine.any touches || owed.any reads.contains) (s.issueTrap .latcheck 2)) (fun _ =>
      failIf (mine.any (fun p => writes.contains p.loc && s.now + lat < p.due) || owed.any writes.contains)
        (s.issueTrap .latcheck 3))

/-- The first failing check of the bundle in the latch, in the order of R138, then the checks at issue (R155). A fault that
belongs to no one slot names slot 0, and a bundle with no stop bit its eighth. DESIGN CHOICE: notes/assumptions/41.md. -/
def bundleFault (stopped : Bool) (cs : List Cand) (s : State) : Check :=
  let is := cs.filterMap (fun c => c.instr)
  let lastLimm := match cs.getLast? with | some c => (match c.instr with | some (.limm _) => true | _ => false) | none => false
  orElse (failIf (!stopped) ({ s with latch := { s.latch with slot := 7 } }.issueTrap .illegal 1)) (fun _ =>
  orElse ((cs.find? (fun c => match c.instr with | some i => !i.subfieldsOk | none => true)).map
    (fun c => (c.view s).issueTrap .illegal 1)) (fun _ =>
  orElse (failIf (overLimit is) (s.issueTrap .illegal 2)) (fun _ =>
  orElse (firstFault s (fun _ i t => placementFault i t) cs) (fun _ =>
  orElse (failIf (bundlePlacement s is lastLimm) (s.issueTrap .illegal 3)) (fun _ =>
  orElse (firstFault s (fun c i t => orElse (failIf (c.field_ || !i.operandsOk) (t.issueTrap .illegal 4))
    (fun _ => operandFault i t)) cs) (fun _ =>
  orElse (firstFault s (fun _ i t => orElse (failIf ((dests i ++ srcs i).any (fun r => !t.me.share.has r))
    (t.issueTrap .bounds 1)) (fun _ => shareFault i t)) cs) (fun _ =>
  orElse (firstFault s (fun _ i t => issueFault i t) cs) (fun _ =>
  orElse (firstFault s (fun c i t => failIf (takesWelt i && 256 ≤ t.me.regionWelt + weltBefore cs c.idx)
    (t.issueTrap .welt 0)) cs) (fun _ =>
  firstFault s (fun _ i t => debugSeq i t) cs)))))))))

/-- What the slots of the bundle up to one add to a counter (R284). -/
def addedBy (cs : List Cand) (idx n : Nat) : Nat :=
  (cs.filter (fun c => c.idx ≤ idx && (match c.instr with | some i => addsTo i == some n | none => false))).length

/-- A hold delays the bundle (R358). -/
def bundleHold (cs : List Cand) (s : State) : Bool :=
  cs.any (fun c => match c.instr with
    | some i => slotHold i (c.view s) || (takesWelt i && 512 ≤ s.me.weltCount + weltBefore cs c.idx)
        || (match addsTo i with | some n => 2 ^ 24 - 1 < (s.me.nReg n).toNat + addedBy cs c.idx n | none => false)
    | none => false)

/-- The wait a bundle poses: its one port slot's, with that slot. -/
def bundleWait (cs : List Cand) (s : State) : WaitResult × Nat :=
  cs.foldl (fun a c => match a.1, c.instr with
    | .pass, some i => (slotWait i (c.view s), c.idx)
    | _, _ => a) (.pass, 0)

/-- A slot that may freeze the domain at issue (R35). -/
def posesWait (c : Cand) : Bool :=
  match c.instr with
  | some (.flwait ..) | some (.cwait ..) | some (.epop ..) => true
  | _ => false

/-! ### Fetch -/

/-- Trap of a fetch (R134). DEDUCED: notes/assumptions/24.md. -/
def fetchTrap (s : State) : TrapInfo := s.issueTrap .bounds 2 s.latch.baddr.toNat (capObj s.me.launch.img).toNat

/-- A fetch that faults under park, or that the host is to walk for, holds the context (R416, R441). -/
def parkFetch (lay c off : Nat) (s : State) : State :=
  let x := s.ctxAt (ctxKey lay c)
  let o := capObj x.launch.img
  let wait := fun (st : ReqState) (s : State) =>
    let q : Req := { id := s.nextId, kind := .fetch, state := st, ctxKey := ctxKey lay c, cell := 64,
                     region := x.regionId, seq := s.nextId, eff := s.nextId, lay := lay, obj := o, off := off,
                     asid := x.image.asid, ctr := none, data := 0, pois := false, committed := true,
                     ready := s.cycleOf lay, dropped := false, srid := none }
    (pushReq q s).updCtx (ctxKey lay c) (fun x => { x with wait := .fetch })
  match codeLeaf s lay x off with
  | .fault _ np base size =>
    let r := openFault lay (homePort (lay / 8) o off) c o off false np base size x.image.asid s
    wait (.parked r.1) r.2
  | .host => wait .port s
  | _ => s

/-- The layer's step passes with no bundle. -/
def noIssue (lay : Nat) (s : State) : State := { s with latch := .empty, phase := .advance lay }

/-- The phase after a layer. -/
def nextLayer (lay : Nat) : Phase := if 15 ≤ lay then .close else .issue (lay + 1)

/-- A bundle that passes its checks starts to issue: its region opens, with the special registers as they stand, and the task
is Issuing at its base priority (R54, R211, R420). -/
def openBundle (s : State) : State :=
  let opens := s.me.regionId == s.me.nextRegion
  let snap := if opens then entrySnapshot s else []
  { s.updMe (fun x => { (if opens then x.modRegion (fun r => { r with entrySpecials := snap }) else x.openRegion) with
      eprio := x.bprio, idle := 0, untimed := false, quieted := false, task := .issuing, wait := .none, waited := 0 }) with
    phase := .slots }

/-- What becomes of the bundle in the latch at this step. -/
inductive Verdict where
  | fault (t : TrapInfo)
  | held
  | freezes (w : Wait) (slot : Nat)
  | issues
  deriving DecidableEq, Repr

/-- The bundle's fault, hold or wait (R138, R155, R358, R35). -/
def verdict (stopped : Bool) (cs : List Cand) (s : State) : Verdict :=
  match bundleFault stopped cs s with
  | some t => .fault t
  | none =>
    if bundleHold cs s then .held
    else match bundleWait cs s with
      | (.trap t, _) => .fault t
      | (.freeze w, n) => if s.me.state = .resident then .freezes w n else .held
      | (.pass, _) => .issues

/-- The state in which the bundle in the latch is judged: the cells have executed the step, or, where the bundle may freeze the
domain before it, the commits that are due have taken place. -/
def beforeIssue (lay : Nat) (s : State) : State :=
  if (candidates 0 none s.latch.words).any posesWait then earlyCommit lay s else stepFrontOnce lay s

/-- The offset of a page that a CALL's return address waits for: one of the two bundles after it lies on a page that is parked or
that the host is to walk for, so that its stop bits cannot be read yet (R168, R441). DEDUCED: notes/assumptions/24.md. -/
def callWaits (lay : Nat) (s : State) : Option Nat :=
  let at_ := fun (pc : Nat) => bundleAt s lay s.me 8 pc []
  let parked := fun (r : Except Fetch (List Word)) => match r with | .error (.fault true off) => some off | _ => none
  if (candidates 0 none s.latch.words).any (fun c => match c.instr with | some (.call ..) => true | _ => false) then
    match at_ s.latch.next.toNat with
    | .ok ws => parked (at_ (s.latch.next.toNat + 4 * ws.length))
    | r => parked r
  else none

/-- The bundle in the latch: its fault, its hold, its wait, or its issue. A task that has trapped at this step does not freeze the
domain, and issues nothing (R51, R420). -/
def tryBundle (lay : Nat) (stopped : Bool) (s : State) : State :=
  let s := beforeIssue lay s
  match verdict stopped (candidates 0 none s.latch.words) s with
  | .fault t => noIssue lay (trapHere t (stepFrontOnce lay s))
  | .held => noIssue lay (stepFrontOnce lay s)
  | .freezes w n =>
    let s := freezeHere w { s with latch := { s.latch with slot := n } }
    let s := match w with
      | .counter r _ => sendAhead lay s.ctx r s
      | _ => s
    { s with phase := nextLayer lay }
  | .issues =>
    let s := stepFrontOnce lay s
    if s.me.state != .resident then noIssue lay s
    else match callWaits lay s with
      | some off => noIssue lay (parkFetch lay s.ctx off s)
      | none => openBundle s

/-- The number of the next bundle of a layer: later than everything in flight. -/
def nextSeq (s : State) : Nat × State := s.fresh

/-- The form of a word, whatever its zero fields hold. -/
def firstInstr (w : Word) : Option Instr :=
  match decodeSlot w with
  | .ok i | .error (.nonzeroField i) => some i
  | .error _ => none

/-- Loads the latch with the bundle at the program counter. -/
def loadLatch (lay c : Nat) (ws : List Word) (s : State) : State :=
  let x := s.ctxAt (ctxKey lay c)
  let n := nextSeq s
  { n.2 with lay := lay, ctx := c,
             latch := { words := ws, slot := 0, limm := none, baddr := x.pc, next := x.pc + BitVec.ofNat 64 (4 * ws.length),
                        bctl := bctlOf (match ws with
                          | w :: _ => firstInstr w
                          | [] => none),
                        seq := n.1, flight := [] } }

/-- The cell slots of the bundle in the latch, for the check of lagging results. -/
def openSlots (s : State) : List FSlot :=
  (candidates 0 none s.latch.words).filterMap (fun c => match c.instr with
    | some i => if isCellSlot i then some { idx := c.idx, instr := i, limm := c.limm, draw := 0, eff := 0, cap := 0, ahead := false } else none
    | none => none)

/-- A fetch from a line whose target is retired is counted (R450). -/
def retiredCode (lay : Nat) (x : Ctx) (off : Nat) (s : State) : State :=
  match codeLeaf s lay x off with
  | .leaf l => if isRetired s (l.pa off) then noteRetired (l.pa off) s else s
  | _ => s

/-- A code fetch that missed the second-level cache leaves its leaf there (R441, R442). -/
def fillCode (lay : Nat) (x : Ctx) (s : State) : State :=
  let o := capObj x.launch.img
  let off := capBase x.launch.img + x.image.code + x.pc.toNat
  let home := homePort (lay / 8) o off
  if capNull x.launch.img || (tlbFind s home o off).isSome then s
  else match codeLeaf s lay x off with
    | .leaf l => tlbFill home 4096 o off l s
    | _ => s

/-- Lines of 128 bytes in a layer's instruction cache: 256 KiB (R15). -/
def codeLines : Nat := 2048

/-- The instruction cache holds a line that was fetched, for which a full one gives up another. Its words are those of memory,
so that no rule reads which lines it holds. DESIGN CHOICE: notes/assumptions/38.md. -/
def holdLine (lay : Nat) (e : Option (BitVec 24) × Nat) (s : State) : State :=
  let held := (s.layerAt lay).icache
  if held.contains e then s
  else if codeLines ≤ held.length then
    let v := victim held s
    v.2.updLayer lay (fun l => { l with icache := (match v.1 with | some x => l.icache.erase x | none => l.icache) ++ [e] })
  else s.updLayer lay (fun l => { l with icache := l.icache ++ [e] })

/-- The lines of the `n` words fetched at the program counter. -/
def holdCode (lay : Nat) (x : Ctx) (n : Nat) (s : State) : State :=
  let img := x.launch.img
  let off := capBase img + x.image.code + x.pc.toNat
  (upto n).foldl (fun s i => holdLine lay (if capNull img then none else some (capObj img), (off + 4 * i) / 128) s) s

/-- The chosen context looks for its bundle. Results that lag and that the bundle would touch if it issued come first (R351). -/
def fetchBundle (lay c : Nat) (s : State) : Res :=
  let x := s.ctxAt (ctxKey lay c)
  match bundleAt s lay x 8 x.pc.toNat [] with
  | .ok ws =>
    let s := loadLatch lay c ws (holdCode lay x ws.length (fillCode lay x s))
    let stopped := ws.any stopBit
    let t := beforeIssue lay s
    let probe : State := { s with latch := { s.latch with flight := openSlots s } }
    let probe : State := if verdict stopped (candidates 0 none ws) t = .issues then probe
      else { probe with latch := { probe.latch with words := [] } }
    if !(laggingHits lay (if probe.latch.words.isEmpty then none else some probe.flightNow) probe).isEmpty then
      execLaggingHit lay { probe with phase := .issue lay }
    else .next (tryBundle lay stopped s)
  | .error (.fault true off) => .next (noIssue lay (parkFetch lay c off s))
  | .error (.fault false off) =>
    .next (noIssue lay (pgKill (ctxKey lay c) off (capObj x.launch.img) none { retiredCode lay x off s with lay := lay, ctx := c }))
  | .error (.nowhere pa) => .fault (.noSuchAddress pa)
  | .error _ =>
    let s := loadLatch lay c [] s
    .next (noIssue lay (trapHere (fetchTrap s) s))

/-- The issuing task has trapped at this very step before its bundle was looked at. -/
def justTrapped (lay : Nat) (s : State) : Option Nat :=
  let l := s.layerAt lay
  match l.cur with
  | some c =>
    let x := s.ctxAt (ctxKey lay c)
    if x.state = .discarding ∧ x.trap.isSome ∧ x.trapStep = l.step ∧ x.notBefore ≤ l.step ∧ !x.hasExited then some c else none
  | none => none

/-- The bundle that a task would have issued at the step at which it trapped: a fault of its decode or issue is one of the
traps of that step (R419). -/
def faultOnly (lay c : Nat) (s : State) : State :=
  let x := s.ctxAt (ctxKey lay c)
  match bundleAt s lay x 8 x.pc.toNat [] with
  | .ok ws =>
    let s := beforeIssue lay (loadLatch lay c ws s)
    match verdict (ws.any stopBit) (candidates 0 none ws) s with
    | .fault t => noIssue lay (trapHere t (stepFrontOnce lay s))
    | _ => noIssue lay (stepFrontOnce lay s)
  | _ => noIssue lay s

/-- The cycle for which the step is held back passes (R479, R481); a freeze that follows counts from it (R56). -/
def passStall (lay : Nat) (s : State) : State :=
  if (s.layerAt lay).stall then
    s.updLayer lay (fun l => { l with stall := false, thaw := some (l.thaw.getD (s.cycleOf lay)) })
  else s

/-- Layer `lay` looks for a bundle (R29, R35, R53): nothing passes in a layer that is not in run or whose domain is
frozen; rows that are late come first, then lagging results, then the context's bundle. -/
def beginIssue (lay : Nat) (s : State) : Res :=
  let l := s.layerAt lay
  if l.power != .run || l.frozen.isSome || l.stall then .next { passStall lay s with phase := nextLayer lay }
  else
    let s := dropTiming lay s
    let s := if (justTrapped lay s).isSome then s else select lay s
    let quiet : State := { s with lay := lay, latch := .empty }
    let rows := lateRows lay s
    if rows.any Req.strict then
      -- R419: a lagging result touched at the same step is compared with the late rows
      let hits := (laggingHits lay none quiet).filter (fun h => h.2.1 == 1)
      .next (hits.foldl (fun s h => takeTrap lay h.1 h.2.2 s) (raiseLates lay true { s with phase := .issue lay }))
    else if !rows.isEmpty then .next (raiseLates lay false { s with phase := .issue lay })
    else
      let idle : Res := if (laggingHits lay none quiet).isEmpty then .next (noIssue lay s)
        else execLaggingHit lay { quiet with phase := .issue lay }
      match justTrapped lay s with
      | some c => if !(laggingHits lay none quiet).isEmpty then execLaggingHit lay { quiet with phase := .issue lay }
        else if (s.ctxAt (ctxKey lay c)).fromHeld then idle  -- a task with a held trap issues nothing (R501)
        else .next (faultOnly lay c s)
      | none =>
      match (s.layerAt lay).cur with
      | none => idle
      | some c =>
        let x := s.ctxAt (ctxKey lay c)
        if x.hasExited then idle
        else if l.step < x.notBefore then idle
        else if !x.held.isEmpty then execHeldTrapEffect lay c { s with phase := .issue lay }
        else if x.wait == .fetch && !waitHolds lay c s then idle
        else fetchBundle lay c s

/-! ### After a slot and after a bundle -/

/-- After a slot: the next one; a LIMM's bits reach only the slot after it (R148). A bundle that trapped or froze is
over. -/
def afterSlot (i : Instr) (s : State) : State :=
  if s.latch.words.isEmpty then
    { s with phase := if s.layer.frozen.isSome then nextLayer s.lay else .advance s.lay }
  else
    { s with latch := { s.latch with slot := s.latch.slot + 1,
                                     limm := match i with | .limm _ => s.latch.limm | _ => none } }

/-- A word that is no slot form (R133, R135). -/
def badSlot (e : Reject) (s : State) : State :=
  noIssue s.lay (trapHere (s.issueTrap .illegal (match e with | .nonzeroField _ => 4 | _ => 1)) s)

/-- The loops tested at the end of a bundle, innermost first (R172, R173): the next address, and the loops after.
DEDUCED: notes/assumptions/15.md. -/
def endLoops (endAddr : DWord) (depth : Nat) : Nat → List LoopLevel → DWord × List LoopLevel
  | 0, ls => (endAddr, ls)
  | fuel + 1, ls =>
    let here := ls.filter (fun l => l.active && depth ≤ l.depth && l.stop == endAddr)
    match here with
    | [] => (endAddr, ls)
    | a :: r =>
      let inner := r.foldl (fun m x => if m.start.toNat < x.start.toNat then x else m) a
      if inner.k + 1 < inner.n then
        (inner.start, ls.map (fun l => if l = inner then { l with k := l.k + 1 } else l))
      else endLoops endAddr depth fuel (ls.map (fun l => if l = inner then .idle else l))

/-- A taken transfer ends the loops whose body its target leaves, callers' loops apart (R173). -/
def leaveLoops (target : DWord) (depth : Nat) (ls : List LoopLevel) : List LoopLevel :=
  ls.map (fun l =>
    if l.active && depth ≤ l.depth && (target.toNat < l.start.toNat || l.stop.toNat ≤ target.toNat) then .idle else l)

/-- Where the context goes after a bundle (R139, R164, R172). DEDUCED: notes/assumptions/15.md. -/
def advancePc (x : Ctx) (now : Nat) (b : Latch) : Ctx :=
  let e := b.baddr + BitVec.ofNat 64 (4 * b.words.length)
  let free := now + 1 + b.bctl.gap.toNat
  let depth := x.shadowView.length
  match x.xfer with
  | some (t, n, ready) =>
    if n ≤ 1 then
      { x with pc := t, xfer := none, delay := 0, notBefore := Nat.max free ready, loops := leaveLoops t depth x.loops }
    else { x with pc := e, xfer := some (t, n - 1, ready), delay := n - 1, notBefore := free }
  | none =>
    if b.next != e then { x with pc := b.next, delay := 0, notBefore := free }
    else
      let o := endLoops e depth 4 x.loops
      { x with pc := o.1, loops := o.2, delay := 0, notBefore := free }

/-- The open region ends at this step (R44, R45). -/
def sealRegion (now : Nat) (x : Ctx) : Ctx := x.modRegion (fun r => { r with sealedAt := some now })

/-- The bundle has issued: its cell slots go down the mesh, the region is sealed, the marks are taken, the context
moves on. -/
def endBundle (s : State) : State :=
  let b := s.latch
  let now := s.now
  let f := s.flightNow
  let s := s.updLayer s.lay (fun l => { l with
    flight := if b.flight.isEmpty then l.flight else l.flight ++ [f]
    switch := l.switch || b.bctl.sway || (b.bctl.sealed && l.swaySeal)
    swaySeal := l.swaySeal && !b.bctl.sealed })
  let s := s.updMe (fun x => advancePc (if b.bctl.sealed then sealRegion now x else x) now b)
  noIssue s.lay s

end Sys2Proof.Machine
end

