-- ==== Sys2Proof/Machine/Save.lean ====
section
/-!
DEFINITION. Save records (R426 to R429): what a record holds, and what a restore writes back. How the sections pack what
R428 names is in notes/assumptions/8.md.
-/

namespace Sys2Proof.Machine

/-! ### The live-in descriptor of the resume region (R374, R375) -/

/-- The descriptor that names the whole share. -/
def wholeDesc (h : Share) : Desc :=
  { s := BitVec.allOnes 64, g := BitVec.allOnes 16, k := BitVec.allOnes 8, b := BitVec.allOnes 4,
    planes := BitVec.ofNat 4 (2 ^ h.planes.length - 1), p := BitVec.ofNat 16 (2 ^ (4 * h.vregs.length) - 1),
    x := BitVec.allOnes 32, v := BitVec.ofNat 96 (2 ^ (24 * h.vregs.length) - 1),
    banks := if h.banks.isEmpty then [] else [(0, h.nb - 1, 0, 255)],
    acc := if h.acc.isEmpty then [] else [(0, 16 * h.acc.length - 1)] }

def descBytes (d : Desc) : List Byte :=
  let head := leBytes 8 d.s.toNat
    ++ leBytes 8 (d.g.toNat + 2 ^ 16 * d.k.toNat + 2 ^ 24 * d.b.toNat + 2 ^ 28 * d.planes.toNat + 2 ^ 32 * d.p.toNat)
    ++ leBytes 8 d.x.toNat ++ leBytes 16 d.v.toNat ++ leBytes 2 (d.banks.length + 256 * d.acc.length) ++ leBytes 6 0
    ++ d.banks.flatMap (fun r => leBytes 4 (r.1 + 2 ^ 5 * r.2.1 + 2 ^ 10 * r.2.2.1 + 2 ^ 18 * r.2.2.2))
    ++ d.acc.flatMap (fun r => leBytes 4 (r.1 + 2 ^ 6 * r.2))
  head ++ List.replicate ((8 - head.length % 8) % 8) 0

/-- The descriptor of a resume address, from the image's own bytes; the whole share when no region begins there or the image's
page kills. An error is the offset of a page that has to be waited for. DESIGN CHOICE: notes/assumptions/8.md. -/
def resumeDesc (s : State) (lay : Nat) (x : Ctx) : Except Nat Desc :=
  match x.image.regions.find? (fun r => r.1 == x.pc.toNat) with
  | some r =>
    let read := fun (n : Nat) => readObj s (lay / 8) (capObj x.launch.img) (capBase x.launch.img + r.2.2) n x.image.asid
    (match read 48 with
     | .bytes b _ =>
       (match read (descLen b) with
        | .bytes b _ => .ok (descOf b)
        | .park a .. | .walk a => .error a
        | .kill _ => .ok (wholeDesc x.share))
     | .park a .. | .walk a => .error a
     | .kill _ => .ok (wholeDesc x.share))
  | none => .ok (wholeDesc x.share)

/-- Rows and tiles a descriptor names, in order. -/
def Desc.rows (d : Desc) : List (Nat × Nat) :=
  d.banks.flatMap (fun r => (upto 32).flatMap (fun b =>
    if r.1 ≤ b ∧ b ≤ r.2.1 then ((upto 256).filter (fun w => r.2.2.1 ≤ w && w ≤ r.2.2.2)).map (fun w => (b, w)) else []))
def Desc.tiles (d : Desc) : List Nat :=
  d.acc.flatMap (fun r => (upto 64).filter (fun t => r.1 ≤ t && t ≤ r.2))
def bitList (w n : Nat) : List Nat := (upto n).filter (fun j => w.testBit j)

/-! ### Parked items (R427) -/

/-- The context's loads that are parked at a port, or were when the save began. -/
def parkedLoads (s : State) (key : Nat) : List Req :=
  s.reqs.filter (fun q => q.ctxKey == key && !q.dropped && q.parkedLoad)

/-- The share's name of a physical bank. -/
def Share.bankName (h : Share) (b : Nat) : Nat :=
  match (upto h.nb).find? (fun n => h.physBank n == some b) with
  | some n => n
  | _ => 0
def Share.vName (h : Share) (v : Nat) : Nat :=
  match (upto (24 * h.vregs.length)).find? (fun n => h.physV n == some v) with
  | some n => n
  | _ => 0

/-- One entry of PARKED, 32 bytes: cell, bank or register, row, kind (0 TLD, 1 ALD, 2 CLD) and counter; then the offset, the
object and the copy's number. -/
def parkedBytes (h : Share) (q : Req) : List Byte :=
  let c := match q.ctr with | some n => n | none => 255
  let w := match q.kind with
    | .load b r _ _ => q.cell + 2 ^ 8 * h.bankName b + 2 ^ 16 * r + 2 ^ 24 * bnat q.ctr.isSome
    | .cld g => 64 + 2 ^ 16 * g + 2 ^ 25
    | _ => 0
  leBytes 8 (w + 2 ^ 32 * c) ++ leBytes 8 q.off ++ leBytes 8 q.obj.toNat ++ leBytes 8 q.eff

/-- The context's atomics with a return value that have been released and not landed, by cell and first lane (R428). -/
def taggedReturns (s : State) (key : Nat) : List Req :=
  sortBy (fun q => 1024 * q.cell + (match q.kind with
      | .atomic _ _ _ _ _ (l :: _) _ => l.1
      | _ => 0))
    (s.reqs.filter (fun q => q.ctxKey == key && !q.dropped && (match q.kind with
      | .atomic _ _ _ returns _ _ _ => returns
      | _ => false)))

/-- One entry of RETURNS: cell, register, done and poison; the request; then the lanes' mask and values. -/
def returnBytes (cell vd : Nat) (fin pois : Bool) (id : Nat) (done : List (Nat × Word)) : List Byte :=
  leBytes 8 (cell + 2 ^ 8 * vd + 2 ^ 16 * bnat fin + 2 ^ 17 * bnat pois) ++ leBytes 8 id
    ++ leBytes 128 (bitsOf (fun l => done.any (fun e => e.1 == l))).toNat
    ++ leBytes 4096 (lanesOf (fun l => match done.find? (fun e => e.1 == l) with | some e => e.2 | none => 0)).toNat
def returnLen : Nat := 8 + 8 + 128 + 4096

/-! ### The record (R428) -/

def pad64 (b : List Byte) : List Byte := b ++ List.replicate ((64 - b.length % 64) % 64) 0

/-- The four levels of the loop unit. -/
def loopBytes (l : LoopLevel) : List Byte :=
  leBytes 4 (bnat l.active + 256 * l.depth) ++ leBytes 4 l.k ++ leBytes 4 l.stop.toNat ++ leBytes 4 l.n

/-- Sequencer registers that the descriptor names, in ascending order. DESIGN CHOICE: notes/assumptions/8.md. -/
def seqBytes (x : Ctx) (d : Desc) : List Byte :=
  (bitList d.s.toNat 64).flatMap (fun j => leBytes 8 (x.sReg j).toNat)
    ++ (bitList d.g.toNat 16).flatMap (fun j => leBytes 16 (x.gReg j).toNat)
    ++ (bitList d.k.toNat 8).flatMap (fun j => leBytes 8 (bnat (x.k.getLsbD j)))
    ++ (bitList d.b.toNat 4).flatMap (fun j => leBytes 8 (x.bReg j).toNat)

def cellBytes (s : State) (lay c : Nat) (h : Share) (d : Desc) (k : Nat) : List Byte :=
  let e := s.cellAt (cellKey lay k)
  let y := s.ccAt (ccKey lay k c)
  (bitList d.x.toNat 32).flatMap (fun j => leBytes 4 (mapGet (0 : Word) y.x j).toNat)
    ++ (bitList d.v.toNat 96).flatMap (fun j => leBytes 4096 (mapGet (0 : Lanes) e.v ((h.physV j).getD 0)).toNat)
    ++ (bitList d.p.toNat 16).flatMap (fun j => leBytes 128 (mapGet (0 : Row) e.p ((h.physP j).getD 0)).toNat)
    ++ (upto 8).flatMap (fun j => leBytes 4 (mapGet (0 : Word) y.m j).toNat)
    ++ (upto 8).flatMap (fun j => leBytes 4 (mapGet (0 : Word) y.mShadow j).toNat)
    ++ leBytes 4 y.ap.toNat
    ++ (upto 4).flatMap (fun j => leBytes 4 (match h.physPlane j with
        | some p => (mapGet (0 : BitVec 3) e.pfmt p).toNat
        | none => 0))

/-- Cell k's last cache: the number each static entry was loaded by, and the awl's lasts. -/
def cacheBytes (s : State) (lay : Nat) (x : Ctx) (k : Nat) : List Byte :=
  let e := s.cellAt (cellKey lay k)
  let phys := fun (n : Nat) => (x.share.physLast n).getD 64
  (upto (14 * x.share.lasts.length)).flatMap (fun n =>
    leBytes 4 (if (mapGet Last.none e.lasts (phys n)).kind = .empty then 0 else mapGet 0 e.lastNums (phys n) + 2 ^ 31))
  ++ (upto (2 * x.share.awl.length)).flatMap (fun n => lastBytes (mapGet Last.none e.lasts (phys (56 + n))))

def bankBytes (s : State) (lay : Nat) (h : Share) (d : Desc) (k : Nat) : List Byte :=
  let e := s.cellAt (cellKey lay k)
  d.rows.flatMap (fun r => rowBytes (e.row ((h.physBank r.1).getD 0) r.2))
def accBytes (s : State) (lay : Nat) (h : Share) (d : Desc) (k : Nat) : List Byte :=
  let e := s.cellAt (cellKey lay k)
  d.tiles.flatMap (fun t => leBytes 4096 (mapGet (0 : Lanes) e.acc ((h.physTile t).getD 0)).toNat)
def planeBytes (s : State) (lay : Nat) (h : Share) (d : Desc) (k : Nat) : List Byte :=
  let e := s.cellAt (cellKey lay k)
  (bitList d.planes.toNat 4).flatMap (fun n =>
    let p := (h.physPlane n).getD 0
    (upto 48).flatMap (fun q => leBytes 4096 (mapGet (0 : Lanes) e.planes (48 * p + q)).toNat)
      ++ (upto 2).flatMap (fun j => leBytes 4096 (mapGet (0 : Lanes) e.scales (2 * p + j)).toNat))

/-- The twelve sections. -/
def saveSections (s : State) (lay c : Nat) (d : Desc) : List (List Byte) :=
  let key := ctxKey lay c
  let x := s.ctxAt key
  let h := x.share
  let cells := fun (f : Nat → List Byte) => (upto 64).flatMap f
  [ descBytes d, seqBytes x d,
    leBytes 8 x.shadow.length ++ (upto 64).flatMap (fun i => leBytes 8 ((x.shadow[i]?).getD 0).toNat),
    (upto 0x6000).map (fun a => mapGet (0 : Byte) (s.layerAt lay).dmem (dmemBase c + a)),
    leBytes 8 x.popLog.length ++ (sortBy (fun p => p.1) x.popLog).flatMap (fun p =>
      leBytes 8 p.2.1.toNat ++ leBytes 8 p.2.2.toNat),
    (parkedLoads s key).flatMap (parkedBytes h),
    (taggedReturns s key).flatMap (fun q => match q.kind with
      | .atomic _ _ _ _ vd _ done => returnBytes q.cell (h.vName vd) (q.state == .performed) q.pois q.id done
      | _ => []),
    cells (cellBytes s lay c h d), cells (cacheBytes s lay x), cells (bankBytes s lay h d), cells (accBytes s lay h d),
    cells (planeBytes s lay h d) ]

/-- The directory and the sections' bytes, each at a multiple of 64 (R428). -/
def layOut : Nat → List (List Byte) → List Byte × List Byte
  | _, [] => ([], [])
  | off, b :: r =>
    let p := pad64 b
    let t := layOut (off + p.length) r
    (leBytes 4 off ++ leBytes 4 b.length ++ t.1, p ++ t.2)

/-- Header words 0x038 to 0x0B7: the context registers. -/
def headRegs (x : Ctx) : List Byte :=
  ([0x020, 0x021, 0x022, 0x023, 0x025, 0x026, 0x027, 0x028, 0x029, 0x02A, 0x02B, 0x02C, 0x02D, 0x02E].flatMap
    (fun n => leBytes 8 (ctxSpecial x n).toNat)) ++ leBytes 16 0

/-- Items left at their ports: tagged effects, and atomics whose values have not come back (R427). -/
def outstanding (s : State) (key : Nat) : Nat :=
  let effs := (s.reqs.filter (fun q => q.ctxKey == key && q.writes && !q.dropped)).map (fun q => q.eff)
  let drains := s.released.filter (fun e => e.ctxKey == key && (match e.effect with | .drain _ => true | _ => false))
  effs.eraseDups.length + drains.length

/-- The whole record of a context, with the descriptor of its resume region. -/
def saveRecord (s : State) (lay c srid : Nat) (d : Desc) : List Byte :=
  let x := s.ctxAt (ctxKey lay c)
  let t := layOut 512 (saveSections s lay c d)
  let head := leBytes 4 0x53524557 ++ leBytes 4 srid ++ leBytes 8 x.pc.toNat ++ leBytes 8 x.share.word.toNat
    ++ leBytes 8 (outstanding s (ctxKey lay c)) ++ leBytes 16 x.launch.img.toNat
    ++ leBytes 8 (x.launch.word56.toNat % 2 ^ 41) ++ headRegs x
    ++ (upto 4).flatMap (fun j => loopBytes (x.loopOf j))
    ++ (upto 32).flatMap (fun n => leBytes 4 (x.nReg n).toNat) ++ leBytes 8 0
    ++ t.1 ++ List.replicate (128 - t.1.length) 0
  head ++ t.2

/-! ### Restore (R429) -/

/-- Section i of a record. -/
def recSection (b : List Byte) (i : Nat) : List Byte :=
  (b.drop (at_ b (0x180 + 8 * i) 4)).take (at_ b (0x184 + 8 * i) 4)

/-- Bytes of a record: to the end of its last section. -/
def recLen (b : List Byte) : Nat :=
  (upto 12).foldl (fun a i => Nat.max a (at_ b (0x180 + 8 * i) 4 + at_ b (0x184 + 8 * i) 4)) 512

/-- Fields of n bytes in order. -/
def fields (n : Nat) (b : List Byte) (off count : Nat) : List Nat := (upto count).map (fun i => at_ b (off + n * i) n)

def restoreSeq (x : Ctx) (d : Desc) (b : List Byte) : Ctx :=
  let ss := bitList d.s.toNat 64
  let gs := bitList d.g.toNat 16
  let ks := bitList d.k.toNat 8
  let bs := bitList d.b.toNat 4
  let o1 := 8 * ss.length
  let o2 := o1 + 16 * gs.length
  let o3 := o2 + 8 * ks.length
  { x with
    s := (List.zip ss (fields 8 b 0 ss.length)).foldl (fun m e => mapSet 0 m e.1 (BitVec.ofNat 64 e.2)) x.s
    g := (List.zip gs (fields 16 b o1 gs.length)).foldl (fun m e => mapSet 0 m e.1 (BitVec.ofNat 128 e.2)) x.g
    k := (List.zip ks (fields 8 b o2 ks.length)).foldl (fun m e => setBitTo m e.1 (e.2 == 1)) x.k
    b := (List.zip bs (fields 8 b o3 bs.length)).foldl (fun m e => mapSet 0 m e.1 (BitVec.ofNat 64 e.2)) x.b }

/-- The end address of a LOOP of level j in a bundle at `a`. -/
def loopEndIn (j a : Nat) (ws : List Word) : Option Nat :=
  (candidates 0 none ws).findSome? (fun c => match c.instr with
    | some (.loopTable lv off) => if lv.toNat = j then some (a + 4 * immNat c.limm 14 off.toNat) else none
    | some (.loopRegister lv _ off) => if lv.toNat = j then some (a + 4 * immNat c.limm 14 off.toNat) else none
    | _ => none)

/-- The first address of the body of level j that ends at `stop`: the record carries the end alone, so the code's LOOP of
that level and end is looked for, and the bundle after it begins the body. -/
def loopBody (s : State) (lay : Nat) (x : Ctx) (j stop : Nat) : Nat → Nat → Nat
  | 0, _ => 0
  | n + 1, a =>
    match bundleAt s lay x 8 a [] with
    | .ok ws => if loopEndIn j a ws = some stop then a + 4 * ws.length else loopBody s lay x j stop n (a + 4 * ws.length)
    | .error _ => 0

/-- A level of the loop unit (R428). DESIGN CHOICE: notes/assumptions/8.md. -/
def loopFrom (s : State) (lay : Nat) (x : Ctx) (j : Nat) (b : List Byte) : LoopLevel :=
  let w := at_ b 0 4
  let stop := at_ b 8 4
  if w.testBit 0 then
    { active := true, k := at_ b 4 4 % 2 ^ 24, n := at_ b 12 4 % 2 ^ 24,
      start := BitVec.ofNat 64 (loopBody s lay x j stop (x.image.codeLen / 4) 0), stop := BitVec.ofNat 64 stop,
      depth := w / 256 % 128 }
  else .idle

/-- Header registers. -/
def restoreHead (x : Ctx) (b : List Byte) : Ctx :=
  ([0x020, 0x021, 0x022, 0x023, 0x025, 0x026, 0x027, 0x028, 0x029, 0x02A, 0x02B, 0x02C, 0x02D, 0x02E].zipIdx).foldl
    (fun x e => setCtxSpecial e.1 (BitVec.ofNat 64 (at_ b (0x38 + 8 * e.2) 8)) x) x

/-- Cell k's registers. -/
def restoreCell (lay c : Nat) (h : Share) (d : Desc) (b : List Byte) (k : Nat) (s : State) : State :=
  let xs := bitList d.x.toNat 32
  let vs := bitList d.v.toNat 96
  let ps := bitList d.p.toNat 16
  let len := 4 * xs.length + 4096 * vs.length + 128 * ps.length + 84
  let b := (b.drop (len * k)).take len
  let o1 := 4 * xs.length
  let o2 := o1 + 4096 * vs.length
  let o3 := o2 + 128 * ps.length
  let s := s.updCell (cellKey lay k) (fun e => { e with
    v := (List.zip vs (fields 4096 b o1 vs.length)).foldl
      (fun m y => mapSet 0 m ((h.physV y.1).getD 0) (BitVec.ofNat 32768 y.2)) e.v
    p := (List.zip ps (fields 128 b o2 ps.length)).foldl
      (fun m y => mapSet 0 m ((h.physP y.1).getD 0) (BitVec.ofNat 1024 y.2)) e.p
    pfmt := (upto h.planes.length).foldl (fun m n =>
      mapSet 0 m ((h.physPlane n).getD 0) (BitVec.ofNat 3 (at_ b (o3 + 68 + 4 * n) 4))) e.pfmt })
  s.updCc (ccKey lay k c) (fun y => { y with
    x := (List.zip xs (fields 4 b 0 xs.length)).foldl (fun m e => mapSet 0 m e.1 (BitVec.ofNat 32 e.2)) y.x
    m := (upto 8).foldl (fun m j => mapSet 0 m j (BitVec.ofNat 32 (at_ b (o3 + 4 * j) 4))) y.m
    mShadow := (upto 8).foldl (fun m j => mapSet 0 m j (BitVec.ofNat 32 (at_ b (o3 + 32 + 4 * j) 4))) y.mShadow
    ap := BitVec.ofNat 2 (at_ b (o3 + 64) 4) })

/-- Cell k's last cache: a static entry takes the last its number names in the new last table (R376, R429). -/
def restoreCache (lay : Nat) (x : Ctx) (b : List Byte) (k : Nat) (s : State) : State :=
  let ns := 14 * x.share.lasts.length
  let na := 2 * x.share.awl.length
  let b := (b.drop ((4 * ns + 4096 * na) * k)).take (4 * ns + 4096 * na)
  let store := (s.layerAt lay).store
  s.updCell (cellKey lay k) (fun e =>
    let m := (upto ns).foldl (fun m n =>
      let w := at_ b (4 * n) 4
      let l := if w.testBit 31 then
          (match x.image.lasts[w % 2048]? with | some (some i) => mapGet Last.none store i | _ => .none)
        else .none
      mapSet Last.none m ((x.share.physLast n).getD 0) l) e.lasts
    let nums := (upto ns).foldl (fun m n => mapSet 0 m ((x.share.physLast n).getD 0) (at_ b (4 * n) 4 % 2048)) e.lastNums
    { e with lastNums := nums, lasts := (upto na).foldl (fun m n =>
        mapSet Last.none m ((x.share.physLast (56 + n)).getD 0) (lastOf ((b.drop (4 * ns + 4096 * n)).take 4096))) m })

def restoreBanks (lay : Nat) (h : Share) (d : Desc) (b : List Byte) (k : Nat) (s : State) : State :=
  let rows := d.rows
  let b := b.drop (128 * rows.length * k)
  s.updCell (cellKey lay k) (fun e => { e with
    banks := (List.zip rows (fields 128 b 0 rows.length)).foldl
      (fun m y => mapSet 0 m (256 * (h.physBank y.1.1).getD 0 + y.1.2) (BitVec.ofNat 1024 y.2)) e.banks })

def restoreAcc (lay : Nat) (h : Share) (d : Desc) (b : List Byte) (k : Nat) (s : State) : State :=
  let ts := d.tiles
  let b := b.drop (4096 * ts.length * k)
  s.updCell (cellKey lay k) (fun e => { e with
    acc := (List.zip ts (fields 4096 b 0 ts.length)).foldl
      (fun m y => mapSet 0 m ((h.physTile y.1).getD 0) (BitVec.ofNat 32768 y.2)) e.acc })

def restorePlanes (lay : Nat) (h : Share) (d : Desc) (b : List Byte) (k : Nat) (s : State) : State :=
  let ps := bitList d.planes.toNat 4
  let b := b.drop (4096 * 50 * ps.length * k)
  ps.zipIdx.foldl (fun s e =>
    let p := (h.physPlane e.1).getD 0
    s.updCell (cellKey lay k) (fun c => { c with
      planes := (upto 48).foldl (fun m q => mapSet 0 m (48 * p + q) (BitVec.ofNat 32768 (at_ b (4096 * (50 * e.2 + q)) 4096))) c.planes
      scales := (upto 2).foldl (fun m j => mapSet 0 m (2 * p + j) (BitVec.ofNat 32768 (at_ b (4096 * (50 * e.2 + 48 + j)) 4096))) c.scales })) s

/-- A PARKED row is issued again as an untimed copy of a committed region; its counter stands (R429). -/
def restoreParked (lay c srid : Nat) (b : List Byte) (s : State) : State :=
  let x := s.ctxAt (ctxKey lay c)
  let n := b.length / 32
  let base := s.nextId
  let s := (upto n).foldl (fun (s : State) i =>
    let w := at_ b (32 * i) 8
    let eff := at_ b (32 * i + 24) 8
    let first := ((upto n).find? (fun j => at_ b (32 * j + 24) 8 == eff)).getD 0
    let ctr := if w / 2 ^ 32 % 256 = 255 then none else some (w / 2 ^ 32 % 32)
    let kind := if w / 2 ^ 24 % 4 = 2 then ReqKind.cld (w / 2 ^ 16 % 16)
      else ReqKind.load ((x.share.physBank (w / 2 ^ 8 % 32)).getD 0) (w / 2 ^ 16 % 256) none false
    let q : Req := { id := base + n + i, kind := kind, state := .port, ctxKey := ctxKey lay c, cell := w % 128, region := 0,
                     seq := base + first, eff := base + first, lay := lay, obj := BitVec.ofNat 24 (at_ b (32 * i + 16) 8),
                     off := at_ b (32 * i + 8) 8, asid := x.image.asid, ctr := ctr, data := 0, pois := false,
                     committed := true, ready := s.cycleOf lay, dropped := false, srid := some srid }
    { s with reqs := s.reqs ++ [q] }) { s with nextId := base + 2 * n }
  -- an ALD's counter falls when its last row has landed
  (upto n).foldl (fun s i =>
    let w := at_ b (32 * i) 8
    let eff := at_ b (32 * i + 24) 8
    if w / 2 ^ 24 % 4 = 1 ∧ (upto i).all (fun j => at_ b (32 * j + 24) 8 != eff) then
      s.updCtx (ctxKey lay c) (fun x => { x with
        outs := x.outs ++ [{ eff := base + i, n := w / 2 ^ 32 % 32, after := 0, region := 0 }] })
    else s) s

/-- RETURNS values of finished atomics land in their lanes (R429). -/
def restoreReturns (lay c : Nat) (b : List Byte) (s : State) : State :=
  let x := s.ctxAt (ctxKey lay c)
  (upto (b.length / returnLen)).foldl (fun s i =>
    let o := returnLen * i
    let w := at_ b o 8
    if w.testBit 16 then
      let k := w % 256
      let mask : Row := BitVec.ofNat 1024 (at_ b (o + 16) 128)
      let val : Lanes := BitVec.ofNat 32768 (at_ b (o + 144) 4096)
      let v := (x.share.physV (w / 256 % 256)).getD 0
      let s := s.updCell (cellKey lay k) (fun e => { e with
        v := mapSet 0 e.v v (merge (mapGet 0 e.v v) (laneMask (fun l => mask.getLsbD l)) val) })
      if w.testBit 17 then setPois lay k c s else s
    else s) s

/-- The tagged items count down the live counters again (R429): they take the context's name, and an atomic that is still
to return gives its register the new share's number. -/
def relink (lay c : Nat) (old : Nat) (b : List Byte) (s : State) : State :=
  let x := s.ctxAt (ctxKey lay c)
  let name := fun (q : Req) => match (upto (b.length / returnLen)).find? (fun i => at_ b (returnLen * i + 8) 8 == q.id) with
    | some i => at_ b (returnLen * i) 8 / 256 % 256
    | none => 0
  let mine := s.reqs.filter (fun q => q.ctxKey == old)
  let outs := (mine.filterMap (fun q => match q.kind, q.ctr with
    | .atomic .., some n => some (q.eff, n)
    | _, _ => none)).eraseDups
  let s : State := { s with
    reqs := s.reqs.map (fun q =>
      if q.ctxKey = old then
        { q with ctxKey := ctxKey lay c, lay := lay, srid := none, region := 0,
                 kind := match q.kind with
                   | .atomic op ty cas ret _ lanes done =>
                     .atomic op ty cas ret ((x.share.physV (name q)).getD 0) lanes done
                   | k => k }
      else q)
    released := s.released.map (fun e => if e.ctxKey = old then { e with ctxKey := ctxKey lay c, lay := lay } else e) }
  let s := relabel old (ctxKey lay c) s
  s.updCtx (ctxKey lay c) (fun x => { x with
    outs := x.outs ++ outs.map (fun e => { eff := e.1, n := e.2, after := 0, region := 0 }) })

/-- The record's contents written into a freshly placed context (R429); a cell that has failed on its layer stays masked
(R31). -/
def restoreTask (lay c : Nat) (b : List Byte) (asid : BitVec 12) (s : State) : State :=
  let key := ctxKey lay c
  let srid := at_ b 4 4
  let d := descOf (recSection b 0)
  let h := (s.ctxAt key).share
  let sh := recSection b 2
  let pl := recSection b 4
  let s := s.updCtx key (fun x =>
    let x := restoreSeq (restoreHead x b) d (recSection b 1)
    { x with
      cmask := x.cmask &&& ~~~ s.failedCells lay
      pc := BitVec.ofNat 64 (at_ b 8 8), resume := BitVec.ofNat 64 (at_ b 8 8)
      loops := (upto 4).map (fun j => loopFrom s lay x j (b.drop (0xB8 + 16 * j)))
      n := (upto 32).foldl (fun m j => mapSet 0 m j (BitVec.ofNat 24 (at_ b (0xF8 + 4 * j) 4))) x.n
      shadow := (upto (at_ sh 0 8 % 65)).map (fun i => BitVec.ofNat 64 (at_ sh (8 + 8 * i) 8))
      popLog := (upto (at_ pl 0 8)).map (fun i =>
        (anyPlace, BitVec.ofNat 4 (at_ pl (8 + 16 * i) 8), BitVec.ofNat 64 (at_ pl (16 + 16 * i) 8)))
      srid := some srid, wait := .resumeHold, untimed := true, quieted := true })
  let s := s.updLayer lay (writeDmem (dmemBase c) (recSection b 3))
  let s := (upto 64).foldl (fun s k => restorePlanes lay h d (recSection b 11) k
    (restoreAcc lay h d (recSection b 10) k (restoreBanks lay h d (recSection b 9) k
      (restoreCache lay (s.ctxAt key) (recSection b 8) k (restoreCell lay c h d (recSection b 7) k s))))) s
  let s := restoreReturns lay c (recSection b 6) s
  let s := restoreParked lay c srid (recSection b 5) s
  (upto 4).foldl (fun s old => relink lay c (savedKey srid asid old) (recSection b 6) s) s

end Sys2Proof.Machine
end

