-- ==== Sys2Proof/Machine/Launch.lean ====
section
/-!
DEFINITION. Launch frames and records (R399 to R407), the scheduler (R405 to R408), placement (R43, R409, R410, R497),
restores (R411, R429), gangs (R412, R413) and the loads of the last store and the microprogram store (R215).
-/

namespace Sys2Proof.Machine

/-! ### Frames and the status ring (R399 to R402) -/

/-- The status entries both towers hold, each with its tower, in the order of their events. -/
def heldStatus (s : State) : List (Nat × Status) :=
  sortBy (fun e => e.2.ord) ((upto 2).flatMap (fun t => (s.towerAt t).statusQ.map (fun e => (t, e))))

/-- Held status entries move to the ring while it has room, in the order of their events (R402). -/
def drainStatus (s : State) : State :=
  if !s.linkUp then s
  else
    let go := (heldStatus s).take (4096 - s.status.length)
    let s := (upto 2).foldl (fun s t => s.updTower t (fun w => { w with
      statusQ := w.statusQ.filter (fun e => !go.any (fun g => g.2.ord == e.ord)) })) s
    go.foldl (fun s e => enterRing e.1 [{ e.2 with ord := 0 }] s) s

/-- STATUS_RING_FREE: the host has taken n entries (R402). -/
def execStatusRingFree (n : Nat) (s : State) : Res := .next (drainStatus { s with status := s.status.drop n })

/-- STAVOUX_LINK_FAILURE: frames wait, and the adapter raises an alarm (R397). -/
def execStavouxLinkFailure (s : State) : Res := .next (alarm 397 { s with linkUp := false })
/-- STAVOUX_LINK_RETRAIN: frames resume in order (R397). -/
def execStavouxLinkRetrain (s : State) : Res := .next (drainStatus { s with linkUp := decide (3 ≤ s.boot) })

/-! ### The end of a record that starts no task (R404, R407, R413) -/

/-- A short-network message between towers; one for this package goes to the tower's own queue (R459). -/
def sendMsg (tower : Nat) (pkg : BitVec 8) (dest : Nat) (m : ShortMsg) (s : State) : State :=
  if pkg = s.pkg then s.updTower dest (fun t => { t with shortQ := t.shortQ ++ [(pkg, m)] })
  else s.updTower tower (fun t => { t with shortQ := t.shortQ ++ [(pkg, m)] })

/-- The gang's coordinator: tower 0 of the package in GID bits 15:8 (R412). -/
def coordinator (gid : BitVec 16) : BitVec 8 := gid.extractLsb' 8 8

/-- A launch record as one of no gang: a restored member's gang has started long ago (R411, R413). -/
def Launch.noGang (a : Launch) : Launch := { a with word56 := a.word56 &&& ~~~ ones64 16 13 }
def LRec.ended (r : LRec) : Launch := if r.save.isSome then r.launch.noGang else r.launch

def gangMsg (kind tower : Nat) (a : Launch) (s : State) : State :=
  sendMsg tower (coordinator a.gid) 0 (.gang kind a.gid a.gmi a.gcnt (2 * s.pkg.toNat + tower) 0) s

/-- A record is rejected (event 2) or fails (event 3) with a cause: its completion is poisoned, and the coordinator of its
gang hears of it, unless the record is refused as no member of it (R404, R407, R413). DEDUCED: notes/assumptions/28.md. -/
def endRecord (tower event cause : Nat) (a : Launch) (s : State) : State :=
  let s := if a.hostc then s else controllerFlag tower a.cflag poisonAdd s
  let s := putStatus tower { tag := a.tag, seq := a.seq, event := event, cause := cause,
                             value := if a.hostc then poisonAdd else 0 } s
  if a.gcnt = 0 ∨ cause = 7 ∨ cause = 13 then s else gangMsg 3 tower a s

/-- A frame of a launch ring: its record is appended, or it is rejected with cause FRAME and never queued. A wrong SEQ leaves
the ring's number, a wrong TYPE advances it; an entry that a TLAUNCH waits for is not free (R402).
DEDUCED: notes/assumptions/28.md. -/
def takeFrame (header : BitVec 128) (record : BitVec 512) (save : Option Cap) (s : State) : State :=
  let h : DWord := header.setWidth 64
  let tower := fld h 8 1
  let q := fld h 9 4
  let t := s.towerAt tower
  let want := mapGet 0 t.rings q
  let a := { launchOf (leBytes 64 record.toNat) true (h.extractLsb' 32 32) (h.extractLsb' 16 16) with
             resv := fld h 13 3 != 0 || header.extractLsb' 64 64 != 0 }
  if s.boot < 5 || !s.linkUp || 256 ≤ (t.queue q).length || launchWaits s tower q then s
  else if fld h 16 16 != want then endRecord tower 2 13 a s
  else
    let s := s.updTower tower (fun t => { t with rings := mapSet 0 t.rings q ((want + 1) % 65536) })
    if fld h 0 8 != (if save.isSome then 2 else 1) then endRecord tower 2 13 a s
    else appendRec tower q 8 a save s

/-- LAUNCH_FRAME (R399). -/
def execLaunchFrame (header : BitVec 128) (record : BitVec 512) (s : State) : Res := .next (takeFrame header record none s)
/-- RESTORE_FRAME (R399, R411). -/
def execRestoreFrame (header : BitVec 128) (record : BitVec 512) (save : Cap) (s : State) : Res :=
  .next (takeFrame header record (some save) s)

def popHead (tower q : Nat) (s : State) : State :=
  s.updTower tower (fun t => { t with queues := mapSet [] t.queues q (t.queue q).tail })
def setHead (tower q : Nat) (r : LRec) (s : State) : State :=
  s.updTower tower (fun t => { t with queues := mapSet [] t.queues q (match t.queue q with
    | _ :: rest => r :: rest
    | [] => []) })

/-! ### Checks of a head (R404) -/

/-- Records of a gang in flight in this package: checked at the head, and not yet started. DEDUCED: notes/assumptions/28.md. -/
def gangRecords (s : State) (gid : BitVec 16) : List LRec :=
  (upto 2).flatMap (fun t =>
    (((upto 16).flatMap (fun q => (s.towerAt t).queue q)) ++ (s.towerAt t).running).filter (fun r =>
      r.launch.gcnt != 0 && r.launch.gid == gid && r.state != .queued && r.state != .completed && r.state != .started))

def maskFails (s : State) (tower : Nat) (a : Launch) : Bool :=
  let dead := fun (l : Nat) => a.lmask &&& ~~~ s.failedCells (8 * tower + l) == 0
  a.lmask == 0 || (if a.pin then dead a.pinLayer || (s.towerAt tower).absent.contains a.pinLayer
    else (upto 8).all (fun l => dead l || (s.towerAt tower).absent.contains l))

/-- The first check at the head that fails: codes 1, 2, 5, 7, 8, 9, 10. DEDUCED: notes/assumptions/28.md. -/
def headCheck (s : State) (tower : Nat) (r : LRec) : Option Nat :=
  let a := r.launch
  let p := fun (b : Bool) (c : Nat) (rest : Option Nat) => if b then some c else rest
  let dom := fun (f : BitVec 21) => flagPkg f != s.pkg || flagLayer f / 8 != tower
  let top := fun (f : BitVec 21) => 510 ≤ (flagIdx f).toNat
  p (a.resv || a.word48.getLsbD 31 || fld a.word56 62 2 != 0 || (!a.pin && a.pinLayer != 0)
      || (a.gcnt == 0 && a.gmi != 0)) 1
    (p (capNull a.img || !s.capValid a.img || !hasRight a.img 0 || capBase a.img % 4096 != 0
        || !(capNull a.arg || s.capValid a.arg)) 2
      (p (!shareResvOk a.share || !shareSizesOk false a.share || (0 < shAwl a.share && (s.towerAt tower).dsplit.getLsbD 2)) 5
        (p (a.gcnt != 0 && (4096 < a.gcnt || a.gcnt ≤ a.gmi || (gangRecords s a.gid).any (fun x =>
            x.id != r.id && (x.launch.gcnt != a.gcnt || x.launch.gmi == a.gmi)))) 7
          (p (maskFails s tower a) 8
            (p (2048 < fld a.word48 19 12) 9
              (p ((a.dval == 0 && a.dflag != 0) || (a.dval != 0 && dom a.dflag) || (a.cflag != 0 && a.hostc)
                  || (!a.host && (top a.cflag || top a.dflag))) 10 none))))))

/-! ### The image of a record -/

/-- ASID of the image's object (R437): of another package's, free (notes/assumptions/5.md). -/
def imgAsid (s : State) (a : Launch) : BitVec 12 :=
  let o := capObj a.img
  BitVec.ofNat 12 (if objRemote s o then ofLe (remoteBytes s (2 ^ 40) 2) else objAsid s o)

/-- What the scheduler reads through its tower's ports; an error is the offset of a page that it has to wait for, parked or with
the host (R416, R444). A page that kills reads as nothing. -/
def schedRead (s : State) (tower : Nat) (o : BitVec 24) (off n : Nat) (asid : BitVec 12) : Except Nat (List Byte) :=
  match readObj s tower o off n asid with
  | .bytes b _ => .ok b
  | .park a .. | .walk a => .error a
  | .kill _ => .ok []

/-- The image's bytes. -/
def recImage (s : State) (tower : Nat) (a : Launch) : Except Nat (List Byte) :=
  let b := capBase a.img
  match schedRead s tower (capObj a.img) b 256 0 with
  | .ok h => if h.length < 256 ∨ capLimit a.img - b < imgLen h then .ok h else schedRead s tower (capObj a.img) b (imgLen h) 0
  | e => e

/-- Checks at the first selection: codes 2, 3, 4, 5, 6, 11, 12, in that order. -/
def imageCheck (s : State) (a : Launch) (b : List Byte) : Option Nat :=
  let p := fun (c : Bool) (n : Nat) (rest : Option Nat) => if c then some n else rest
  let policy := match s.config with | some c => c.imgpol | none => false
  p (capLimit a.img - capBase a.img < imgLen b || imgAsid s a == 0) 2
    (p (!imageFormOk b a.share) 3
      (p ((policy || imgSup b) && !signatureOk s b) 4
        (p (!shareCovers a.share (imgShare b)) 5
          (p (!loopsOk b (a.gcnt != 0)) 6
            (p (!tablesFitEmpty b) 11 (p (imgSup b) 12 none))))))

/-! ### Fitting and assignment (R409, R410) -/

/-- Contexts of a layer that hold a share. -/
def holders (s : State) (lay : Nat) : List Ctx :=
  ((upto 5).map (fun c => s.ctxAt (ctxKey lay c))).filter (fun x => x.state != .free)

/-- The lowest `n` numbers below `total` that are not taken. -/
def lowest (taken : List Nat) (n total : Nat) : Option (List Nat) :=
  let free := (upto total).filter (fun i => !taken.contains i)
  if free.length < n then none else some (free.take n)

/-- Granules for a request, lowest first; an EDGE share's highest banks are physical 24–31. -/
def assign (s : State) (lay : Nat) (w : DWord) : Option Share :=
  let hs := (holders s lay).map (fun x => x.share)
  let bt := hs.flatMap (fun h => h.banks)
  let banks := if shEdge w then
      (if bt.contains 3 then none else (lowest (3 :: bt) (shBanks w - 1) 4).map (fun l => l ++ [3]))
    else lowest bt (shBanks w) 4
  match banks, lowest (hs.flatMap (fun h => h.vregs)) (shVregs w) 4, lowest (hs.flatMap (fun h => h.planes)) (shPlanes w) 4,
      lowest (hs.flatMap (fun h => h.acc)) (shAcc w) 4, lowest (hs.flatMap (fun h => h.lasts)) (shLasts w) 4,
      lowest (hs.flatMap (fun h => h.awl)) (shAwl w) 4 with
  | some b, some v, some p, some a, some l, some x =>
    if hs.any (fun h => h.eye &&& shEye w != 0) then none
    else some { banks := b, vregs := v, planes := p, acc := a, lasts := l, awl := x, eye := shEye w, edge := shEdge w }
  | _, _, _, _, _, _ => none

/-- Store entries for an image's lasts: an entry that holds a byte-identical last, else the lowest free one, none of them one that
a load is to write (R101, R215, R376). DESIGN CHOICE: notes/assumptions/46.md. -/
def placeLasts (s : State) (lay : Nat) (ls : List (Option Last)) : Option (List (Option Nat) × Map Last) :=
  let l := s.layerAt lay
  let loading := s.loadingOf lay
  let named := (holders s lay).flatMap (fun x => x.image.lasts.filterMap id)
  let reuse := fun (store : Map Last) (x : Last) => (store.find? (fun e => e.2 == x && !loading.contains e.1)).map (fun e => e.1)
  let kept := ls.filterMap (fun o => o.bind (reuse l.store))
  let r := ls.foldl (fun (a : Option (List (Option Nat) × Map Last × List Nat)) o =>
    match a, o with
    | some (ix, st, used), none => some (ix ++ [none], st, used)
    | some (ix, st, used), some x =>
      (match reuse st x with
       | some i => some (ix ++ [some i], st, i :: used)
       | none =>
         (match lowest (used ++ named ++ loading) 1 2048 with
          | some (i :: _) => some (ix ++ [some i], mapSet Last.none st i x, i :: used)
          | _ => none))
    | none, _ => none) (some ([], l.store, kept))
  r.map (fun x => (x.1, x.2.1))

def dirWords (e : DWord) : List Nat := if e.getLsbD 63 then (upto (fld e 9 9 + 1)).map (fun i => fld e 0 9 + i) else []

/-- Store words and directory entries for an image's routines (R380): none while a load is to write one of them (R215). -/
def placeRoutines (s : State) (lay : Nat) (rs : List (Nat × List DWord)) : Option (Map DWord × Map DWord) :=
  let l := s.layerAt lay
  let loading := s.loadingOf lay
  rs.foldl (fun a r => match a with
    | none => none
    | some (mp, md) =>
      let e := mapGet (0 : DWord) md r.1
      if loading.contains (4096 + r.1) then none
      else if e.getLsbD 63 then
        if (dirWords e).map (fun i => mapGet (0 : DWord) mp i) == r.2 && !(dirWords e).any (fun i => loading.contains (2048 + i))
        then some (mp, md) else none
      else
        let used := (upto 32).flatMap (fun j => dirWords (mapGet 0 md j)) ++ (loading.filter (2048 ≤ ·)).map (· - 2048)
        let w := r.2.length
        match (upto (513 - w)).find? (fun st => (upto w).all (fun i => !used.contains (st + i))) with
        | some st =>
          some (r.2.zipIdx.foldl (fun m x => mapSet 0 m (st + x.2) x.1) mp,
            mapSet 0 md r.1 (BitVec.ofNat 64 (2 ^ 63 + 512 * (w - 1) + st)))
        | none => none) (some (l.mprog, l.mdir))

/-- What a placement takes on a layer. -/
structure Place where
  lay   : Nat
  ctx   : Nat
  share : Share
  lasts : List (Option Nat)
  store : Map Last
  mprog : Map DWord
  mdir  : Map DWord
  deriving DecidableEq, Repr

/-- The host's granules for a request, one list per resource in the order of SHARE: the right number of each, free, and
with EDGE the edge banks (R409, R416). Names go in ascending physical order (R410). -/
def granted (s : State) (lay : Nat) (w : DWord) (gs : List (List Nat)) : Option Share :=
  let set := fun (i : Nat) => (upto 4).filter (fun g => (gs.getD i []).contains g)
  let hs := (holders s lay).map (fun x => x.share)
  let ok := fun (i n : Nat) (taken : List Nat) =>
    (gs.getD i []).length == n && (set i).length == n && (set i).all (fun g => !taken.contains g)
  if ok 0 (shBanks w) (hs.flatMap (fun h => h.banks)) && ok 1 (shVregs w) (hs.flatMap (fun h => h.vregs))
      && ok 2 (shPlanes w) (hs.flatMap (fun h => h.planes)) && ok 3 (shAcc w) (hs.flatMap (fun h => h.acc))
      && ok 4 (shLasts w) (hs.flatMap (fun h => h.lasts)) && ok 5 (shAwl w) (hs.flatMap (fun h => h.awl))
      && (!shEdge w || (set 0).contains 3) && hs.all (fun h => h.eye &&& shEye w == 0) then
    some { banks := set 0, vregs := set 1, planes := set 2, acc := set 3, lasts := set 4, awl := set 5, eye := shEye w,
           edge := shEdge w }
  else none

/-- The name of the controllers' own power requests (R485, R495). -/
def forcedKey : Nat := goneKey 0 0 0

/-- A transition of the layer away from run is under way, or is forced, or it has failed: the scheduler places no task on it (R213,
R214, R485, R495). -/
def leavesRun (s : State) (lay : Nat) : Bool :=
  (s.layerAt lay).failing.isSome || (match (s.layerAt lay).preqs with
    | p :: _ => (p.started || p.ctxKey == forcedKey) && p.target != .run
    | [] => false)

/-- Whether a record fits a layer in the share that is chosen for it, with the entries it would take (R409). -/
def fitsIn (share : Option Share) (s : State) (tower l : Nat) (a : Launch) (b : List Byte) : Option Place :=
  let lay := 8 * tower + l
  let free := (upto 4).find? (fun c => (s.ctxAt (ctxKey lay c)).state == .free)
  if (s.layerAt lay).power != .run || leavesRun s lay || (s.towerAt tower).absent.contains l || (a.pin && a.pinLayer != l)
      || a.lmask &&& ~~~ s.failedCells lay == 0 then none
  else match free, share, placeLasts s lay (imgLasts b), placeRoutines s lay ((imgRoutines b).getD []) with
    | some c, some h, some ls, some rs =>
      some { lay := lay, ctx := c, share := h, lasts := ls.1, store := ls.2, mprog := rs.1, mdir := rs.2 }
    | _, _, _, _ => none

/-- Whether a record fits a layer, in the lowest free granules (R409, R410). -/
def fitsOn (s : State) (tower l : Nat) (a : Launch) (b : List Byte) : Option Place :=
  fitsIn (assign s (8 * tower + l) a.share) s tower l a b

/-- The lowest logical layer that fits. -/
def fits (s : State) (tower : Nat) (a : Launch) (b : List Byte) : Option Place := (upto 8).findSome? (fun l => fitsOn s tower l a b)

/-! ### Placement (R43, R373, R410) -/

/-- Every location of the share is zero, and every last-cache entry empty (R43, R98). -/
def clearCell (h : Share) (e : Cell) : Cell :=
  { e with
    banks := e.banks.filter (fun x => !h.banks.contains (x.1 / 2048))
    v := e.v.filter (fun x => !h.vregs.contains (x.1 / 24))
    p := e.p.filter (fun x => !h.vregs.contains (x.1 / 4))
    acc := e.acc.filter (fun x => !h.acc.contains (x.1 / 16))
    planes := e.planes.filter (fun x => !h.planes.contains (x.1 / 48))
    scales := e.scales.filter (fun x => !h.planes.contains (x.1 / 2))
    pfmt := e.pfmt.filter (fun x => !h.planes.contains x.1)
    lasts := e.lasts.filter (fun x => if x.1 < 56 then !h.lasts.contains (x.1 / 14) else !h.awl.contains ((x.1 - 56) / 2))
    lastNums := e.lastNums.filter (fun x => !h.lasts.contains (x.1 / 14)) }

def clearShare (lay c : Nat) (h : Share) (s : State) : State :=
  (upto 64).foldl (fun s k => (s.updCell (cellKey lay k) (clearCell h)).setCc (ccKey lay k c) .reset) s

/-- BFMT registers from the image (R373). -/
def imgBfmt (b : List Byte) (nb : Nat) : Map DWord :=
  let x := section_ b 3
  if x.2 = 0 then []
  else (upto nb).foldl (fun m n => mapSet 0 m n (BitVec.ofNat 64 (at_ b (x.1 + 8 * n) 8 % 2 ^ 28))) []

/-- The registers of a fresh task (R43, R65, R300, R349, R410). -/
def freshCtx (a : Launch) (h : Share) (info : ImageInfo) (b : List Byte) (failed : BitVec 64) : Ctx :=
  { Ctx.free with
    task := .placed, state := .placing, share := h, launch := a, image := info, pc := BitVec.ofNat 64 (imgEntry b),
    g := mapSet 0 (mapSet 0 [] 0 a.img) 1 a.arg, loops := List.replicate 4 .idle,
    cmask := a.lmask &&& ~~~ failed, bprio := a.prio, eprio := a.prio, swlo := a.word48.extractLsb' 8 11,
    swhi := a.word48.extractLsb' 19 12, prof := imgProf b, bfmt := imgBfmt b h.nb }

/-- A record is placed: the context is Placing, with everything the placement writes (R410, R429). -/
def placeTask (tower : Nat) (r : LRec) (p : Place) (b : List Byte) (saved : Option (List Byte)) (s : State) : State :=
  let a := r.launch
  let asid := imgAsid s a
  let info := imageInfo b p.lasts asid
  let swin := (a.word48.extractLsb' 8 11).toNat + 65536 * (a.word48.extractLsb' 19 12).toNat
  let data := imgData b (capLimit a.arg - capBase a.arg) p.share.word.toNat swin
  let s := clearShare p.lay p.ctx p.share s
  let s := s.updLayer p.lay (fun l =>
    writeDmem (dmemBase p.ctx) (data ++ List.replicate (0x6000 - data.length) 0)
      { l with store := p.store, mprog := p.mprog, mdir := p.mdir })
  let s := s.setCtx (ctxKey p.lay p.ctx) { freshCtx a p.share info b (s.failedCells p.lay) with nextRegion := s.nextId }
  let s := match saved with
    | some w => restoreTask p.lay p.ctx w asid s
    | none => s
  let recs := match saved with
    | some w => ((s.saved.find? (fun v => v.srid == at_ w 4 4)).map (fun v => v.recs)).getD []
    | none => []
  let s : State := match saved with
    | some w => { s with saved := s.saved.filter (fun v => v.srid != at_ w 4 4) }
    | none => s
  s.updTower tower (fun t => { t with
    running := t.running ++ [{ r with state := .placing, place := some (p.lay, p.ctx), left := 4096, prior := recs }] })

def updRunning (tower id : Nat) (f : LRec → LRec) (s : State) : State :=
  s.updTower tower (fun t => { t with running := t.running.map (fun r => if r.id = id then f r else r) })

/-- A placed task enters Ready; its record is Started (R410, R414). -/
def startTask (lay c : Nat) (s : State) : State :=
  let tower := lay / 8
  match recOf s lay c with
  | some r =>
    let s := s.updCtx (ctxKey lay c) (fun x => { x with task := .ready, state := .resident, idle := 0 })
    let s := updRunning tower r.id (fun r => { r with state := .started }) s
    if r.launch.host then
      putStatus tower { tag := r.launch.tag, seq := r.launch.seq, event := 1, cause := 0, value := 0 } s
    else s
  | none => s

/-- PLACEMENT_COMPLETE: the task is Placed: a member of a gang is held and reports READY, any other's record is Placed, and the
next such event starts it (R52, R410, R412, R414, R432). The gang of a restored member has started before (R411). -/
def execPlacementComplete (lay ctx : Nat) (s : State) : Res :=
  let x := s.ctxAt (ctxKey lay ctx)
  let become := fun (c : CtxState) (st : RecState) (id : Nat) =>
    updRunning (lay / 8) id (fun r => { r with state := st }) (s.updCtx (ctxKey lay ctx) (fun x => { x with state := c }))
  match recOf s lay ctx with
  | some r =>
    if x.task != .placed then .next s
    else if r.state = .placed ∧ x.state = .resident then .next (startTask lay ctx s)
    else if x.state != .placing then .next s
    else if r.ended.gcnt = 0 then .next (become .resident .placed r.id)
    else .next (gangMsg 0 (lay / 8) r.launch (become .held .gangHeld r.id))
  | none => .next s

/-! ### Restores (R411) -/

/-- What a restore's save record is: its bytes, a reject code, or a page at an offset to wait for. -/
inductive SaveRead where
  | bytes (b : List Byte)
  | reject (code : Nat)
  | wait (off : Nat)
  deriving DecidableEq, Repr

/-- The save record a restore names, with the reject code it meets. -/
def restoreCheck (s : State) (tower : Nat) (r : LRec) (cap : Cap) : SaveRead :=
  let room := capLimit cap - capBase cap
  let read := fun (n : Nat) => schedRead s tower (capObj cap) (capBase cap) n (imgAsid s r.launch)
  if capNull cap || !s.capValid cap || !hasRight cap 0 || room < 512 then .reject 2
  else match read 512 with
    | .error a => .wait a
    | .ok h =>
      if at_ h 0 4 != 0x53524557 || room < recLen h || !s.saved.any (fun v => v.srid == at_ h 4 4) then .reject 2
      else (match read (recLen h) with
        | .error a => .wait a
        | .ok [] => .reject 2
        | .ok b => if BitVec.ofNat 64 (at_ b 0x10 8) != r.launch.share then .reject 5 else .bytes b)

/-! ### Selection (R405 to R408) -/

/-- A flag of this tower as the scheduler reads it; a layer that is off has it in the keeper (R407). -/
def depFlag (s : State) (f : BitVec 21) : DWord :=
  let lay := flagLayer f
  if (s.layerAt lay).power = .off then
    mapGet 0 (s.towerAt (lay / 8)).keeperFlags (512 * (lay % 8) + (flagIdx f).toNat)
  else (s.layerAt lay).flag (flagIdx f)

def depHolds (s : State) (a : Launch) : Bool := a.dval == 0 || (!flagP (depFlag s a.dflag) && a.dval ≤ (flagV (depFlag s a.dflag)).toNat)
def depPoisoned (s : State) (a : Launch) : Bool := a.dval != 0 && flagP (depFlag s a.dflag)

/-- BAR: every earlier record of the queue, which are all that it has started, is Completed: its task has left its context and its
update is ready (R405, R406). -/
def barHolds (s : State) (tower : Nat) (r : LRec) : Bool :=
  !r.launch.bar || !(s.towerAt tower).running.any (fun x => x.queue == r.queue && (x.state != .completed || x.place.isSome))

/-- The head of a queue: its first record, once every earlier one has started, been rejected or failed (R405), and the cycle in
which it was appended is over, whose appends may still come before it (R400). -/
def Tower.queueHead (t : Tower) (q : Nat) : Option LRec :=
  if t.running.any (fun x => x.queue == q && (x.state == .placing || x.state == .placed || x.state == .gangHeld)) then none
  else match t.queue q with
    | r :: _ => if r.since = t.cycle + 1 then none else some r
    | [] => none

/-- A queue's head: checked when it becomes head, failed on a poisoned dependence, else Head or Eligible (R404, R407, R414). -/
def evalHead (tower q : Nat) : Nat → State → State
  | 0, s => s
  | fuel + 1, s =>
    match (s.towerAt tower).queueHead q with
    | none => s
    | some r =>
      match if r.state = .queued then headCheck s tower r else none with
      | some c => evalHead tower q fuel (endRecord tower 2 c r.ended (popHead tower q s))
      | none =>
        if depPoisoned s r.launch then evalHead tower q fuel (endRecord tower 3 14 r.ended (popHead tower q s))
        else setHead tower q { r with state := if barHolds s tower r && depHolds s r.launch then .eligible else .head } s

/-- A head that could be selected now, and where (R408, R409). -/
structure Choice where
  q     : Nat
  rec_  : LRec
  prio  : Nat
  image : List Byte
  place : Option Place
  deriving DecidableEq, Repr

def hostPlacing (s : State) (tower id : Nat) : Bool :=
  (s.towerAt tower).host.any (fun h => match h with | .place r _ => r == id | _ => false)

/-- A queue's head that is offered for selection in this cycle (R407, R408, R413, R416); with LOCK = 0 the tower takes part in no
gang start (R469). -/
def offered (s : State) (tower q : Nat) : Option LRec :=
  if !(s.towerAt tower).qen.getLsbD q then none
  else match (s.towerAt tower).queueHead q with
    | some r =>
      if r.state != .eligible || s.tick.toNat < r.notBefore || hostPlacing s tower r.id
          || (r.ended.gcnt != 0 && !(s.ftLock || s.ftGm)) then none
      else some r
    | none => none

/-- A page of an offered head's image or save record that the scheduler has to wait for: object, offset and space. -/
def waitsFor (s : State) (tower : Nat) (r : LRec) : Option (BitVec 24 × Nat × BitVec 12) :=
  match recImage s tower r.launch with
  | .error a => some (capObj r.launch.img, a, 0)
  | .ok _ =>
    match r.save with
    | some cap => (match restoreCheck s tower r cap with
      | .wait a => some (capObj cap, a, imgAsid s r.launch)
      | _ => none)
    | none => none

/-- The pages are asked for at a port (R416, R444). -/
def askPages (tower : Nat) (s : State) : State :=
  ((upto 16).filterMap (fun q => (offered s tower q).bind (waitsFor s tower))).foldl
    (fun s w => askPage (8 * tower) w.1 w.2.1 w.2.2 false s) s

/-- The eligible heads whose share fits, of priority 3 once they have for 2^20 cycles before this one (R408); one whose image fails its checks is selected too, to be rejected. -/
def choices (s : State) (tower : Nat) : List Choice :=
  (upto 16).filterMap (fun q =>
    match offered s tower q with
    | none => none
    | some r =>
      match recImage s tower r.launch with
      | .error _ => none
      | .ok b =>
        let p := fits s tower r.launch (if (imageCheck s r.launch b).isSome then [] else b)
        if p.isSome && (waitsFor s tower r).isNone then
          some { q := q, rec_ := r, prio := if 2 ^ 20 < r.age then 3 else r.launch.prio.toNat, image := b, place := p }
        else none)

/-- Round robin after the last queue served (R408). -/
def rrKey (last : Option Nat) (q : Nat) : Nat := match last with | some l => (q + 16 - l - 1) % 16 | none => q
def chooseBest (last : Option Nat) : List Choice → Option Choice
  | [] => none
  | c :: r => some (r.foldl (fun m x =>
      if m.prio < x.prio || (m.prio == x.prio && rrKey last x.q < rrKey last m.q) then x else m) c)

/-- A selected record is placed, or rejected for its image or its save record (R404, R410, R411). -/
def takeChoice (tower : Nat) (c : Choice) (p : Place) (s : State) : State :=
  let s := popHead tower c.q (s.updTower tower (fun t => { t with lastQueue := some c.q }))
  match imageCheck s c.rec_.launch c.image with
  | some code => endRecord tower 2 code c.rec_.ended s
  | none =>
    match c.rec_.save with
    | none => placeTask tower c.rec_ p c.image none s
    | some cap =>
      (match restoreCheck s tower c.rec_ cap with
       | .reject code => endRecord tower 2 code c.rec_.ended s
       | .bytes b => placeTask tower c.rec_ p c.image (some b) s
       | .wait _ => s)

/-- The pages that were asked for a record are used up. -/
def doneAsking (s : State) (r : LRec) : State :=
  let s := dropAsked (capObj r.launch.img) 0 s
  match r.save with
  | some c => dropAsked (capObj c) (imgAsid s r.launch) s
  | none => s

/-- Whether a selected record would be placed: its image and its save record pass their checks. -/
def choiceSound (s : State) (tower : Nat) (c : Choice) : Bool :=
  (imageCheck s c.rec_.launch c.image).isNone && (match c.rec_.save with
    | none => true
    | some cap => (match restoreCheck s tower c.rec_ cap with | .bytes _ => true | _ => false))

/-- The granules of a layer that no share holds. -/
def freeShare (s : State) (lay : Nat) : Share :=
  let hs := (holders s lay).map (fun x => x.share)
  let rest := fun (f : Share → List Nat) => (upto 4).filter (fun g => !(hs.flatMap f).contains g)
  { banks := rest (fun h => h.banks), vregs := rest (fun h => h.vregs), planes := rest (fun h => h.planes),
    acc := rest (fun h => h.acc), lasts := rest (fun h => h.lasts), awl := rest (fun h => h.awl),
    eye := hs.foldl (fun m h => m &&& ~~~ h.eye) (BitVec.allOnes 16), edge := (rest (fun h => h.banks)).contains 3 }

/-- What the host is told with a head: the free granules of each layer of the tower that a task can be placed on (R416). -/
def freeLayers (s : State) (tower : Nat) : List (Nat × Share) :=
  ((upto 8).filter (fun l => (s.layerAt (8 * tower + l)).power == .run && !leavesRun s (8 * tower + l)
    && !(s.towerAt tower).absent.contains l)).map (fun l => (l, freeShare s (8 * tower + l)))

/-- Every head is evaluated in every cycle (R407). -/
def evalHeads (tower : Nat) (s : State) : State := (upto 16).foldl (fun s q => evalHead tower q 257 s) s

/-- SCHEDULER_SELECT: the heads are evaluated, and at most one is selected (R407, R408); with the duty at the host, one that
passes its checks is offered there (R416). A full status queue stops the scheduler (R402). -/
def execSchedulerSelect (tower : Nat) (s : State) : Res :=
  let s := askPages tower (evalHeads tower s)
  if statusFull s tower then .next s
  else match chooseBest (s.towerAt tower).lastQueue (choices s tower) with
    | some c =>
      (match c.place with
       | some p =>
         if (s.towerAt tower).dsplit.getLsbD 4 && choiceSound s tower c then
           .next (s.updTower tower (fun t => { t with
             lastQueue := some c.q, host := t.host ++ [.place c.rec_.id (freeLayers s tower)] }))
         else .next (doneAsking (takeChoice tower c p s) c.rec_)
       | none => .next s)
    | none => .next s

/-- HEAD_AGEING: in a cycle in which a head is eligible and fits it waits one more; any other head has waited none (R408). -/
def execHeadAgeing (tower queue : Nat) (s : State) : Res :=
  match (s.towerAt tower).queueHead queue with
  | some r =>
    .next (setHead tower queue { r with age := if (choices s tower).any (fun c => c.q == queue) then r.age + 1 else 0 } s)
  | none => .next s

/-- HOST_PLACE_REPLY: a layer and granules, or DEFER; an assignment that does not fit is PLACEBAD (R416). -/
def execHostPlaceReply (tower : Nat) (assign : Option (Nat × List (List Nat))) (s : State) : Res :=
  match (s.towerAt tower).host.findSome? (fun h => match h with | .place r _ => some r | _ => none) with
  | none => .next s
  | some id =>
    let s := s.updTower tower (fun t => { t with host := t.host.filter (fun h => match h with | .place r _ => r != id | _ => true) })
    match assign, (choices s tower).find? (fun c => c.rec_.id == id) with
    | some (l, gs), some c =>
      (match fitsIn (granted s (8 * tower + l) c.rec_.launch.share gs) s tower l c.rec_.launch
          (if (imageCheck s c.rec_.launch c.image).isSome then [] else c.image) with
       | some p => .next (doneAsking (takeChoice tower c p s) c.rec_)
       | none => .next (s.updTower tower (fun t => { t with host := t.host ++ [.placeBad id] })))
    | some _, none => .next (s.updTower tower (fun t => { t with host := t.host ++ [.placeBad id] }))
    | none, _ => .next s

/-! ### Gangs (R412, R413) -/

/-- A task leaves its context before it has issued. -/
def vacate (lay c : Nat) (s : State) : State := s.setCtx (ctxKey lay c) .free

def gangTicks (s : State) (tower : Nat) : Nat := 2 ^ ((s.towerAt tower).gto.toNat + 16)

/-- Members a tower holds for a gang, not yet given a start tick. -/
def heldMembers (s : State) (tower : Nat) (gid : BitVec 16) : List (LRec × Nat × Nat) :=
  (s.towerAt tower).running.filterMap (fun r => match r.place with
    | some (l, c) =>
      let x := s.ctxAt (ctxKey l c)
      if r.state = .gangHeld ∧ r.launch.gid = gid ∧ x.state = .held ∧ x.startTick.isNone then some (r, l, c) else none
    | none => none)

/-- GANG_READY: the coordinator holds a READY, and on holding all sends START, for 50,000 ticks later (R412; DESIGN CHOICE,
notes/assumptions/28.md); for a gang that has failed it sends FAIL (R413). `from_` is 2·package + tower. -/
def execGangReady (gid : BitVec 16) (gmi gcnt from_ : Nat) (s : State) : Res :=
  if coordinator gid != s.pkg then .next s
  else
    let g := (s.gangs.find? (fun g => g.gid == gid)).getD { gid := gid, count := gcnt, ready := [], first := s.tick.toNat, start := none, failed := false }
    let g := { g with count := gcnt, ready := if g.ready.contains (gmi, from_) then g.ready else g.ready ++ [(gmi, from_)] }
    let rest := s.gangs.filter (fun x => x.gid != gid)
    if g.failed then
      let s := sendMsg 0 (BitVec.ofNat 8 (from_ / 2)) (from_ % 2) (.gang 4 gid gmi gcnt from_ 0) s
      .next { s with gangs := if g.count ≤ g.ready.length then rest else rest ++ [g] }
    else if g.count ≤ g.ready.length then
      let t := s.tick + 50000
      let towers := (g.ready.map (fun r => r.2)).eraseDups
      .next (towers.foldl (fun s f => sendMsg 0 (BitVec.ofNat 8 (f / 2)) (f % 2) (.gang 1 gid 0 gcnt f t) s) { s with gangs := rest })
    else .next { s with gangs := rest ++ [g] }

/-- GANG_START: the tower's held members take the start tick (R412). -/
def execGangStart (tower : Nat) (gid : BitVec 16) (tick : DWord) (s : State) : Res :=
  .next ((heldMembers s tower gid).foldl (fun s m =>
    s.updCtx (ctxKey m.2.1 m.2.2) (fun x => { x with startTick := some tick })) s)

/-- GANG_START_TICK: at the tick the member enters Ready (R412); with LOCK = 0 the tower takes part in no start (R469).
DEDUCED: notes/assumptions/28.md. -/
def execGangStartTick (lay ctx : Nat) (s : State) : Res :=
  let x := s.ctxAt (ctxKey lay ctx)
  match x.startTick with
  | some t => if x.state = .held ∧ t.toNat ≤ s.tick.toNat ∧ (s.ftLock || s.ftGm) then .next (startTask lay ctx s) else .next s
  | none => .next s

/-- GANG_TIMEOUT: not every READY came in time (R413). -/
def execGangTimeout (gid : BitVec 16) (s : State) : Res :=
  match s.gangs.find? (fun g => g.gid == gid) with
  | some g =>
    if s.tick.toNat < g.first + gangTicks s 0 || (g.failed && g.count != 0) then .next s
    else if g.failed then .next { s with gangs := s.gangs.filter (fun x => x.gid != gid) }
    else
      let towers := (g.ready.map (fun r => r.2)).eraseDups
      .next (towers.foldl (fun s f => sendMsg 0 (BitVec.ofNat 8 (f / 2)) (f % 2) (.gang 2 gid 0 g.count f 0) s)
        { s with gangs := s.gangs.filter (fun x => x.gid != gid) })
  | none => .next s

/-- GANG_ABORT: held members leave their contexts; their records go back to the heads of their queues (R413). -/
def execGangAbort (tower : Nat) (gid : BitVec 16) (s : State) : Res :=
  .next ((heldMembers s tower gid).foldl (fun s m =>
    let r := { m.1 with state := .head, place := none, age := 0, notBefore := s.tick.toNat + gangTicks s tower }
    vacate m.2.1 m.2.2 (s.updTower tower (fun t => { t with
      running := t.running.filter (fun x => x.id != r.id)
      queues := mapSet [] t.queues r.queue (r :: t.queue r.queue) }))) s)

/-- A tower hears that the gang failed: its held members fail with GANGFAIL (R413). -/
def failMembers (tower : Nat) (gid : BitVec 16) (s : State) : State :=
  (heldMembers s tower gid).foldl (fun s m =>
    let s := vacate m.2.1 m.2.2 (s.updTower tower (fun t => { t with running := t.running.filter (fun x => x.id != m.1.id) }))
    endRecord tower 3 15 m.1.launch.noGang s) s

/-- Every member of a gang has reported, so that the coordinator has done with it. -/
def Gang.over (g : Gang) : Bool := 0 < g.count && g.count ≤ g.ready.length

/-- The coordinator receives FAIL and aborts the other members: those that have reported now, the others as they report; once
every member has, the gang is over (R413). A count of 0 is not known yet. -/
def failGang (gid : BitVec 16) (gcnt : Nat) (s : State) : State :=
  if coordinator gid != s.pkg then s
  else
    let g := (s.gangs.find? (fun g => g.gid == gid)).getD { gid := gid, count := gcnt, ready := [], first := s.tick.toNat, start := none, failed := false }
    let towers := if g.failed then [] else (g.ready.map (fun r => r.2)).eraseDups
    let g := { g with failed := true, count := if g.count = 0 then gcnt else g.count, ready := g.ready ++ [(8192 + g.ready.length, 0)] }
    let s := towers.foldl (fun s f => sendMsg 0 (BitVec.ofNat 8 (f / 2)) (f % 2) (.gang 4 gid 0 g.count f 0) s) s
    let rest := s.gangs.filter (fun x => x.gid != gid)
    { s with gangs := if g.over then rest else rest ++ [g] }

/-- GANG_FAIL: a FAIL that names the gang alone (R413). Of a gang from which no READY has come the count is learnt from the next
one, or the gang is over at its timeout. DEDUCED: notes/assumptions/28.md. -/
def execGangFail (gid : BitVec 16) (s : State) : Res := .next (failGang gid 0 s)

/-! ### Delivery of messages of this package (R190, R459) -/

/-- What a message does where it arrives. -/
def deliverMsg (tower : Nat) (m : ShortMsg) (s : State) : Res :=
  match m with
  | .flag set homes v =>
    .next (homes.foldl (fun s h => arriveFlag (flagLayer h) 3 (s.cycleOf (flagLayer h)) set (flagIdx h) v s) s)
  | .word peer src w => execEyeletWordArrival (8 * (peer.toNat / 2 ^ 7 % 2) + peer.toNat / 2 ^ 4 % 8) (peer.toNat % 16) { word := w, src := src } s
  | .credit lay e => execEyeletCredit lay e s
  | .gang kind gid gmi gcnt f tick =>
    (match kind with
     | 0 => execGangReady gid gmi gcnt f s
     | 1 => execGangStart tower gid tick s
     | 2 => execGangAbort tower gid s
     | 3 => .next (failGang gid gcnt s)
     | _ => .next (failMembers tower gid s))
  | .fragment _ _ => .next s

/-- SHORT_NETWORK_SLOT: ports 0–7 send one packet in a slot that its source owns; port 8 stands for UCIe and the package's own
dies, and hands over the oldest message bound for this package (R190, R459). -/
def execShortNetworkSlot (tower port : Nat) (s : State) : Res :=
  if port < 8 then .next (sendShort tower port s)
  else match (s.towerAt tower).shortQ.find? (fun m => m.1 == s.pkg) with
    | some m => deliverMsg tower m.2 (s.updTower tower (fun t => { t with shortQ := t.shortQ.erase m }))
    | none => .next s

/-! ### Loads of the shared stores (R215, R502) -/

/-- An LSTLD or MPSLD has read its source: its entries are written, and its counter falls. -/
def writeStores (e : Released) (b : List Byte) (s : State) : State :=
  match e.effect with
  | .lstld _ _ first cnt n =>
    let s := s.updLayer e.lay (fun l => { stopLoading e l with
      store := (upto cnt).foldl (fun m i => mapSet Last.none m (first + i) (lastOf ((b.drop (4096 * i)).take 4096))) l.store })
    counterDown e.ctxKey n (dropReleased e.id s)
  | .mpsld _ _ dir first cnt n =>
    let word := fun (i : Nat) => BitVec.ofNat 64 (at_ b (8 * i) 8)
    let s := s.updLayer e.lay (fun l =>
      if dir then { stopLoading e l with mdir := (upto 32).foldl (fun m i => mapSet 0 m i (word i)) l.mdir }
      else { stopLoading e l with mprog := (upto cnt).foldl (fun m i => mapSet 0 m (first + i) (word i)) l.mprog })
    counterDown e.ctxKey n (dropReleased e.id s)
  | _ => s

/-- LAST_STORE_LOAD_COMPLETE: the source is read after the earlier stores have performed, and the last entry is written
(R215, R502). -/
def execLastStoreLoadComplete (eff : Nat) (s : State) : Res :=
  match findReleased s eff with
  | some e =>
    let go := fun (src : Cap) (off : DWord) (n : Nat) =>
      if e.phase = 2 then
        Host.Outcome.next (portRead e (capObj src) (capBase src + off.toNat) n (fun b p s =>
          writeStores e b (if p then setSpois e.ctxKey s else s)) s)
      else .next s
    (match e.effect with
     | .lstld src off _ cnt _ => go src off (4096 * cnt)
     | .mpsld src off _ _ cnt _ => go src off (8 * cnt)
     | _ => .next s)
  | none => .next s

/-! ### The supervisor (R497) -/

/-- The supervisor context placed from the installed image: at its first placement in the lowest free granules, later in
the same ones. -/
def placeSupervisor (lay : Nat) (s : State) : State :=
  match (s.towerAt (lay / 8)).supImage with
  | none => s
  | some b =>
    let share := match (s.layerAt lay).supShare with
      | some h => some h
      | none => assign s lay (imgShare b)
    match share with
    | none => s
    | some h =>
      let s := s.setCtx (ctxKey lay 4) .free
      let ls := (placeLasts s lay (imgLasts b)).getD ([], (s.layerAt lay).store)
      let rs := (placeRoutines s lay ((imgRoutines b).getD [])).getD ((s.layerAt lay).mprog, (s.layerAt lay).mdir)
      let info := imageInfo b ls.1 0
      let s := clearShare lay 4 h s
      let data := imgData b 0 h.word.toNat 0
      let s := s.updLayer lay (fun l =>
        writeDmem 0x18000 (List.replicate 0x800 0 ++ (data ++ List.replicate (0x7800 - data.length) 0).take 0x7800)
          { l with supShare := some h, store := ls.2, mprog := rs.1, mdir := rs.2, sctx := 4 })
      s.setCtx (ctxKey lay 4) { freshCtx { Launch.none with lmask := BitVec.allOnes 64 } h info b (s.failedCells lay) with
        task := .ready, state := .resident, bprio := 3, eprio := 3, g := mapSet 0 [] 0 Config.supImageCap, nextRegion := s.nextId }

end Sys2Proof.Machine
end

