-- ==== Sys2Proof/Machine/Retire.lean ====
section
/-!
DEFINITION. How a task leaves its context: exit (R209), trap records and their replies (R420 to R424, R501), pre-emption and
saving (R425 to R428), tagged items of a saved task (R427), and the end of a kill (R431, R432).
-/

namespace Sys2Proof.Machine

/-! ### A context is given up -/

/-- The context is free; what its task still has at the ports takes the name `new` (R432). -/
def leaveContext (lay c new : Nat) (s : State) : State :=
  let s := s.updTower (lay / 8) (fun t => { t with
    running := t.running.map (fun r => if r.place == some (lay, c) then { r with place := none } else r) })
  let s := s.updLayer lay (fun l => endFreeze c { l with tpend := setBitTo l.tpend c false })
  vacate lay c (relabel (ctxKey lay c) new s)

/-- A task that is gone: its fetches and loads go with it, its stores perform when they are serviced (R431). -/
def leaveForGood (lay c : Nat) (s : State) : State :=
  let key := ctxKey lay c
  let s : State := { s with reqs := s.reqs.filter (fun q => !(q.ctxKey == key && (q.kind == .fetch || q.parkedLoad))) }
  leaveContext lay c (goneKey s.nextId (asidOf s key) c) { s with nextId := s.nextId + 1 }

/-- Every counter of a task is zero (R209). -/
def Ctx.countersZero (x : Ctx) : Bool := x.n.all (fun e => e.2 == 0)

/-- A completion entry that waits on the tower's full queue keeps the task's share (R402). -/
def entryHeld (lay c : Nat) (s : State) : Bool :=
  statusFull s (lay / 8) && s.released.any (fun e => e.ctxKey == ctxKey lay c && (match e.effect with
    | .complete _ true _ _ => true
    | _ => false))

/-- TASK_RETIRE: the task is Exited once every committed result has landed, one of a parked row too (R209). -/
def execTaskRetire (lay ctx : Nat) (s : State) : Res :=
  let x := s.ctxAt (ctxKey lay ctx)
  if x.state = .releasing ∧ x.exiting.isSome ∧ !x.killing ∧ x.regions.isEmpty ∧ x.countersZero ∧ !settling lay ctx s
      ∧ !holding lay ctx s ∧ !entryHeld lay ctx s then
    .next (leaveForGood lay ctx s)
  else .next s

/-- KILL_RELEASE: every committed result of the killed task has landed (R431); a layer that is not in run lands none. -/
def execKillRelease (lay ctx : Nat) (s : State) : Res :=
  let x := s.ctxAt (ctxKey lay ctx)
  if x.state = .releasing ∧ x.killing ∧ x.exiting.isSome ∧ x.regions.isEmpty
      ∧ (!settling lay ctx s ∨ (s.layerAt lay).power ≠ .run) ∧ !entryHeld lay ctx s then
    .next (leaveForGood lay ctx s)
  else .next s

/-! ### The trap record (R420 to R424) -/

/-- Word 0 of a record. -/
def trapWord0 (t : TrapInfo) : DWord :=
  BitVec.ofNat 64 (t.cause.code + 2 ^ 8 * t.sub + 2 ^ 16 * t.code.toNat + 2 ^ 32 * (t.cell.getD 0) + 2 ^ 38 * bnat t.cell.isSome
    + 2 ^ 39 * bnat t.dec + 2 ^ 40 * (t.slot % 8))

/-- The eight words of a record; the resume address is where the discard left the context.
DEDUCED: notes/assumptions/17.md. -/
def trapWords (x : Ctx) (t : TrapInfo) : List DWord :=
  [trapWord0 t, t.baddr, x.pc, BitVec.ofNat 64 (x.trapStep % 2 ^ 48), BitVec.ofNat 64 x.trapCycle, t.aux0, t.aux1,
   BitVec.ofNat 64 (x.tseq + 1)]

/-- A record delivered: to the context's place in data memory with an FLADD of 1 to flag 511 in the next cycle, or to the
host, which takes every trap of the supervisor (R421, R423, R424). -/
def deliverTrap (lay c : Nat) (ws : List DWord) (s : State) : State :=
  if c = 4 || toHost s lay 5 then
    s.updTower (lay / 8) (fun t => { t with host := t.host ++ [.trap lay c ws] })
  else
    arriveFlag lay 2 (s.cycleOf lay + 1) false 511 1
      (s.updLayer lay (writeDmem (0x18000 + 64 * c) (ws.flatMap (fun w => leBytes 8 w.toNat))))

/-- The record of trap `t` is written: TLAST, TPEND and the task's state follow it; after a PGKILL a task is killed, and the
supervisor waits for the host (R424, R502). -/
def recordTrap (lay c : Nat) (t : TrapInfo) (s : State) : State :=
  let x := s.ctxAt (ctxKey lay c)
  let ws := trapWords x t
  let s := s.updCtx (ctxKey lay c) (fun x => { x with
    state := .resident, task := .trapped, tlast := (trapWord0 t) &&& ones64 0 40, tseq := x.tseq + 1, trap := none,
    resume := x.pc })
  let s := s.updLayer lay (fun l => { l with tpend := setBitTo l.tpend c (t.cause != .pgKill) })
  let s := deliverTrap lay c ws s
  if t.cause = .pgKill ∧ c ≠ 4 then killTask lay c s else s

/-- TRAP_RECORD_WRITE: the discard is over and every committed result has landed (R420, step 3). -/
def execTrapRecordWrite (lay ctx : Nat) (s : State) : Res :=
  let x := s.ctxAt (ctxKey lay ctx)
  match x.trap with
  | some t =>
    if x.state = .discarding ∧ x.regions.isEmpty ∧ x.trapStep < (s.layerAt lay).step ∧ !settling lay ctx s then
      .next (recordTrap lay ctx t s)
    else .next s
  | none => .next s

/-- Whether the host holds the record of a context's trap. -/
def hostHasTrap (s : State) (lay c : Nat) : Bool :=
  (s.towerAt (lay / 8)).host.any (fun h => match h with | .trap l k _ => l == lay && k == c | _ => false)
def dropHostTrap (lay c : Nat) (s : State) : State :=
  s.updTower (lay / 8) (fun t => { t with host := t.host.filter (fun h => match h with
    | .trap l k _ => !(l == lay && k == c)
    | _ => true) })

/-- HOST_TRAP_RESUME: the effect of ERET (R416, R424). -/
def execHostTrapResume (lay ctx : Nat) (s : State) : Res :=
  if hostHasTrap s lay ctx then .next (leaveTrapped lay ctx false (dropHostTrap lay ctx s)) else .next s

/-- Every fault record a layer holds open is written again (R424). -/
def redeliverFaults (lay : Nat) (s : State) : State :=
  (s.layerAt lay).faults.foldl (fun s f => deliverFault lay f s) s

/-- HOST_TRAP_KILL: the effect of `eret.kill`; a supervisor is placed afresh (R424). -/
def execHostTrapKill (lay ctx : Nat) (s : State) : Res :=
  if hostHasTrap s lay ctx then
    let s := dropHostTrap lay ctx s
    if ctx = 4 then
      if (s.ctxAt (ctxKey lay 4)).task = .trapped then
        .next (redeliverFaults lay (placeSupervisor lay (leaveForGood lay 4 s)))
      else .next s
    else .next (leaveTrapped lay ctx true s)
  else .next s

/-! ### Pre-emption requests (R425) -/

/-- A write of PREQ by the supervisor of a layer: its checks, then the request (R425). -/
def writePreq (lay : Nat) (w : DWord) (s : State) : State :=
  let t : State := { s with lay := lay, ctx := 4 }
  if mtsrBad t 0x032 w then
    takeTrap lay 4 { cause := .illegal, sub := 5, code := 0, cell := none, dec := true, slot := 0, baddr := t.me.pc,
                     region := t.me.regionId, aux0 := 0, aux1 := 0 } s
  else
    let area : Cap := t.me.gReg (fld w 3 4)
    landSpecial lay 4 0x032 (onesMask 64) (w.setWidth 32768 ||| (area.setWidth 32768 <<< 64)) s

/-- PREQ_SAVE (R425). -/
def execPreqSave (lay ctx gsel : Nat) (s : State) : Res :=
  .next (writePreq lay (BitVec.ofNat 64 (ctx % 4 + 8 * (gsel % 16))) s)
/-- PREQ_KILL (R425). -/
def execPreqKill (lay ctx : Nat) (s : State) : Res := .next (writePreq lay (BitVec.ofNat 64 (ctx % 4 + 4)) s)

def endPreq (lay : Nat) (res : BitVec 2) (s : State) : State :=
  s.updLayer lay (fun l => { l with preq := none, preqRes := res })

/-- HOST_PREEMPT_RECORD: the same request from the host, when none is pending (R425).
DEDUCED: notes/assumptions/16.md. -/
def execHostPreemptRecord (lay ctx : Nat) (kill : Bool) (area : Cap) (s : State) : Res :=
  if (s.layerAt lay).preq.isSome || 4 ≤ ctx then .next s
  else if (s.ctxAt (ctxKey lay ctx)).task = .free then .next (endPreq lay 2 s)
  else if !kill && (capNull area || !s.capValid area || !hasRight area 1 || capLimit area - capBase area < 512) then
    .next (endPreq lay 3 s)
  else
    .next (s.updLayer lay (fun l => { l with
      preq := some { ctx := ctx, kill := kill, area := area, host := true, since := s.cycleOf lay } }))

/-- The request takes effect: from the next step the task issues nothing, and a freeze it owns ends (R426). -/
def beginPreempt (lay c : Nat) (s : State) : State :=
  let s := s.updCtx (ctxKey lay c) (fun x => { x with
    state := .discarding, trap := none, trapStep := (s.layerAt lay).step, wait := .none, waited := 0, untimed := true,
    quieted := true, fromHeld := false })
  s.updLayer lay (fun l => endFreeze c { l with switch := true })

/-- The parked load rows leave their ports for the save record, and so does a parked fetch (R427). -/
def withdrawParked (key : Nat) (s : State) : State :=
  { s with reqs := (s.reqs.filter (fun q => !(q.ctxKey == key && q.kind == .fetch))).map (fun q =>
      if q.ctxKey == key && !q.dropped && q.parkedLoad then { q with state := .withdrawn } else q) }

/-- PREEMPT_EFFECT: the pending request of a layer goes one state further: the discard begins, a kill begins after it, a save
once the committed results have landed; a task that is gone ends it (R425, R426, R432). A Trapped task's is held; a Placed task
is killed at once, and saved once it is Ready (R52). -/
def execPreemptEffect (lay ctx : Nat) (s : State) : Res :=
  match (s.layerAt lay).preq with
  | some p =>
    let x := s.ctxAt (ctxKey lay ctx)
    if p.ctx ≠ ctx ∨ s.cycleOf lay < p.since then .next s
    else match x.state with
      | .free => .next (endPreq lay 2 s)
      | .placing | .held => if p.kill then .next (killTask lay ctx s) else .next s
      | .resident =>
        if x.task = .placed ∧ p.kill then .next (killTask lay ctx s)
        else if x.task = .placed ∨ x.task = .trapped ∨ (s.layerAt lay).power ≠ .run then .next s else .next (beginPreempt lay ctx s)
      | .discarding =>
        if x.trap.isSome ∨ !x.regions.isEmpty ∨ (s.layerAt lay).step ≤ x.trapStep then .next s
        else if p.kill then .next (killTask lay ctx s)
        else if settling lay ctx s then .next s
        else .next (withdrawParked (ctxKey lay ctx) (s.updCtx (ctxKey lay ctx) (fun x => { x with state := .saving })))
      | _ => .next s
  | none => .next s

/-! ### The save (R426, R427) -/

/-- A released store of the task that the record's write stands behind (R126, R426): one that is not parked. -/
def saveWaits (s : State) (key : Nat) : Bool :=
  s.released.any (fun r => r.ctxKey == key && (match r.effect with
    | .copyStore false _ | .atomic _ | .cst | .stackStore | .send .. =>
      !effPerformed s r && !s.reqs.any (fun q => q.eff == r.id && (match q.state with | .parked _ => true | _ => false))
    | _ => false))

/-- Where each run of the record goes. -/
def areaPlaces (s : State) (tower : Nat) (o : BitVec 24) (off n : Nat) (asid : BitVec 12) : List (Nat × Nat × Where) :=
  (runs s o off n).map (fun r => (r.1, r.2, locate s tower o r.1 asid true))

/-- The first unit under the area that faults under park: offset, whether no page is there, and the unit.
DEDUCED: notes/assumptions/16.md. -/
def firstPark (ps : List (Nat × Nat × Where)) : Option (Nat × Bool × Nat × Nat) :=
  ps.findSome? (fun p => match p.2.2 with | .policy 0 np b z => some (p.1, np, b, z) | _ => none)

/-- The record's bytes at the area; a unit under another policy takes none of them (R131).
DEDUCED: notes/assumptions/16.md. -/
def writeArea : List (Nat × Nat × Where) → List Byte → State → State
  | [], _, s => s
  | (_, k, w) :: r, b, s => writeArea r (b.drop k) (match w with
      | .at_ pa _ => writeMem pa (b.take k) s
      | _ => s)

/-- The save is refused: rows are issued again, and the task resumes under a hold (R426). -/
def refuseSave (lay c : Nat) (s : State) : State :=
  let key := ctxKey lay c
  let again := (parkedLoads s key).map (fun q => q.id)
  let s : State := { s with reqs := s.reqs.map (fun q =>
    if again.contains q.id then { q.untime with state := .port, srid := none } else q) }
  endPreq lay 3 (s.updCtx key (fun x => { x with
    state := .resident, task := .ready, wait := .resumeHold, waited := 0, idle := 0, resume := x.pc }))

/-- A tagged atomic names its register as the share does, and one whose values have arrived has performed; a tagged item carries
the record's SRID (R427). -/
def tagReq (h : Share) (srid : Nat) (q : Req) : Req :=
  { q with
    srid := some srid
    state := match q.kind, q.state with | .atomic .., .arrived _ => .performed | _, st => st
    kind := match q.kind with
      | .atomic op ty cas ret vd lanes done => .atomic op ty cas ret (h.vName vd) lanes done
      | k => k }

/-- The task is Saved: its loads are withdrawn, its stores and atomics are tagged, its context is free (R426, R427). -/
def finishSave (lay c srid : Nat) (area : Cap) (s : State) : State :=
  let key := ctxKey lay c
  let x := s.ctxAt key
  let asid := x.image.asid
  let gone := (parkedLoads s key).map (fun q => q.id)
  let recs := match recOf s lay c with | some r => r.id :: r.prior | none => []
  let outst := outstanding s key
  let s : State := { s with
    reqs := (s.reqs.filter (fun q => !gone.contains q.id && !(q.ctxKey == key && q.kind == .fetch))).map (fun q =>
      if q.ctxKey == key && q.writes && !q.dropped then tagReq x.share srid q else q)
    saved := s.saved ++ [{ srid := srid, cap := area, outst := outst, recs := recs, asid := asid }] }
  endPreq lay 1 (leaveContext lay c (savedKey srid asid c) s)

/-- The record is written to its area once every page of it can be written, or refused when it does not fit (R426). -/
def writeRecord (lay c : Nat) (area : Cap) (d : Desc) (s : State) : State :=
  let srid := s.nextId % 2 ^ 32
  let asid := asidOf s (ctxKey lay c)
  let b := saveRecord s lay c srid d
  let o := capObj area
  let ps := areaPlaces s (lay / 8) o (capBase area) b.length asid
  if capLimit area - capBase area < b.length then refuseSave lay c s
  else match firstPark ps, ps.find? (fun p => p.2.2 == .host) with
    | some (off, np, base, size), _ => (openFault lay (homePort (lay / 8) o off) c o off true np base size asid s).2
    | none, some p => askPage lay o p.1 asid true s
    | none, none => 
      finishSave lay c srid area (writeArea ps b
        (countRetired (lay / 8) o (capBase area) b.length asid true { s with nextId := s.nextId + 1 }))

/-- SAVE_RECORD_WRITE: the record is written behind the task's released stores; a page of the image or the area that is parked or
with the host is waited for (R426). -/
def execSaveRecordWrite (lay ctx : Nat) (s : State) : Res :=
  let key := ctxKey lay ctx
  match (s.layerAt lay).preq with
  | some p =>
    if (s.ctxAt key).state ≠ .saving ∨ p.ctx ≠ ctx ∨ saveWaits s key then .next s
    else match resumeDesc s lay (s.ctxAt key) with
      | .error off => .next (askPage lay (capObj (s.ctxAt key).launch.img) off (s.ctxAt key).image.asid false s)
      | .ok d => .next (writeRecord lay ctx p.area d s)
  | none => .next s

/-! ### Items of a saved task (R427) -/

/-- A returned value goes into its RETURNS entry. -/
def putReturn (v : Saved) (q : Req) (s : State) : State :=
  let o := capObj v.cap
  let base := capBase v.cap
  let off := readNum s 0 o (base + 0x180 + 8 * 6) 4 v.asid
  let len := readNum s 0 o (base + 0x184 + 8 * 6) 4 v.asid
  match q.kind with
  | .atomic _ _ _ true vd _ done =>
    (match (upto (len / returnLen)).find? (fun i => readNum s 0 o (base + off + returnLen * i + 8) 8 v.asid == q.id) with
     | some i => (writeObj 0 o (base + off + returnLen * i) (returnBytes q.cell vd true q.pois q.id done) v.asid s).getD s
     | none => s)
  | _ => s

/-- TAGGED_ITEM_COMPLETE: a tagged store or atomic has performed: its record takes the value, the counter and OUTST when it
is the last of its effect (R427). -/
def execTaggedItemComplete (req : Nat) (s : State) : Res :=
  match s.findReq req with
  | some q =>
    (match q.srid with
     | some k =>
       if q.ctxKey < 128 ∨ q.state ≠ .performed then .next s
       else
         let s := match s.saved.find? (fun v => v.srid == k) with
           | some v => putReturn v q s
           | none => s
         let s := dropReq req s
         .next (if s.reqs.any (fun r => r.eff == q.eff && r.srid == some k) then s else itemEnd k q.ctr s)
     | none => .next s)
  | none => .next s

/-- Someone still asks for an object's pages: an ingress for a flit, a tower's scheduler for a head, a record's writer. -/
def pageWanted (s : State) (o : BitVec 24) : Bool :=
  (upto 2).any (fun t =>
    let w := s.towerAt t
    w.links.any (fun l => l.2.inbound.any (fun f => f.obj == o)) || w.queues.any (fun q => match q.2 with
      | r :: _ => capObj r.launch.img == o || r.save.any (fun c => capObj c == o)
      | [] => false))
    || s.layers.any (fun l => l.2.preq.any (fun p =>
      capObj p.area == o || capObj (s.ctxAt (ctxKey l.1 p.ctx)).launch.img == o))

/-- A page that a port was asked for and nobody waits for any more. -/
def pageSpent (s : State) (q : Req) : Bool :=
  (q.kind == .recordRead || q.kind == .recordWrite)
    && (if q.ctxKey = pageKey then q.answered && !pageWanted s q.obj else !s.released.any (fun e => e.id == q.eff))

/-- What is left of a task that is gone: its returned values and its completed record (R51, R414); and pages that nobody waits
for. -/
def sweepGone (s : State) : State :=
  let s : State := { s with reqs := s.reqs.filter (fun q => !pageSpent s q) }
  let s : State := { s with reqs := s.reqs.filter (fun q => !(128 ≤ q.ctxKey && q.srid.isNone && (match q.kind, q.state with
    | .atomic .., .performed => true
    | .atomic .., .arrived _ => true
    | .cld _, .arrived _ => true
    | .load .., .arrived _ => true
    | _, _ => false))) }
  (upto 2).foldl (fun s t => s.updTower t (fun t => { t with
    running := t.running.filter (fun r => !(r.state == .completed && r.place.isNone)) })) s

end Sys2Proof.Machine
end

