-- ==== Sys2Proof/Machine/Power.lean ====
section
/-!
DEFINITION. Layer power states (R112, R213, R214, R493, R494), the package's power limit and the towers' dividers (R492,
R495).
-/

namespace Sys2Proof.Machine

/-! ### Transitions of a layer -/

/-- Cycles of a transition, without the keeper's copy (R493). -/
def transitionCycles : Power → Power → Nat
  | .run, .doze => 1024
  | .doze, .run => 512
  | .off, .run => 50000
  | .off, .doze => 50000
  | .run, .off => 4096
  | .doze, .off => 4096
  | _, _ => 0

/-- Released effects of a layer's tasks that it still has to send: a stack store's beats, whatever holds them back, and, before it
goes off, its flag updates and store rows as well (R123, R190). -/
def releasedToSend (s : State) (lay : Nat) (off : Bool) : Bool :=
  s.released.any (fun e => e.lay == lay && (match e.effect with
    | .stackStore => (s.layerAt lay).beats.any (fun b => b.eff == e.id)
    | .flag .. | .complete .. => off
    | _ => false))

/-- Released beats, updates and store rows of the layer that have not been sent (R123, R124, R190). -/
def unsent (s : State) (lay : Nat) (target : Power) : Bool :=
  let l := s.layerAt lay
  let off := target == .off
  l.beats.any (fun b => b.ready.isSome) || !l.outUpd.isEmpty || releasedToSend s lay off
    || s.reqs.any (fun q => q.lay == lay && (q.state == .queued || (off && q.state == .held && q.committed)))

/-- Whether the layer's resident tasks let the transition start (R213). DEDUCED: notes/assumptions/30.md. -/
def transitionAllowed (s : State) (lay : Nat) (target : Power) : Bool :=
  match target with
  | .run => true
  | .doze => (upto 4).all (fun c => let x := s.ctxAt (ctxKey lay c); x.state == .free || x.task == .waiting)
  | .off => (upto 4).all (fun c => (s.ctxAt (ctxKey lay c)).state == .free)

/-- The request at the head has been met: it leaves and its counter falls (R213, R494). -/
def finishRequest (lay : Nat) (p : PowerReq) (s : State) : State :=
  counterDown p.ctxKey p.n (s.updLayer lay (fun l => { l with preqs := l.preqs.tail }))

/-- The physical layer behind a logical one (R14). -/
def physOf (t : Tower) (l : Nat) : Nat := match t.spare with | some (_, k) => if k = l then 8 else l | none => l

/-- A logical layer with no physical one that works: it stays off (R485, R486). -/
def layerDead (s : State) (lay : Nat) : Bool :=
  let t := s.towerAt (lay / 8)
  t.absent.contains (lay % 8) || t.failed.contains (physOf t (lay % 8))

/-- LAYER_TRANSITION_START: the oldest request starts once its condition holds and nothing is left to be sent; one for the present
state ends at once (R213, R493, R494). -/
def execLayerTransitionStart (lay : Nat) (s : State) : Res :=
  let l := s.layerAt lay
  match l.preqs with
  | p :: rest =>
    if p.started then .next s
    else if p.target = l.power then .next (finishRequest lay p s)
    else if layerDead s lay then .next s
    else if transitionAllowed s lay p.target && !(l.power == .run && unsent s lay p.target) then
      let q : PowerReq := { p with started := true, left := transitionCycles l.power p.target }
      .next (s.updLayer lay (fun l => { l with preqs := q :: rest }))
    else .next s
  | [] => .next s

/-- One cycle of the transition in progress, which counts from the last released beat that is sent; at the end of power-up the
keeper's copy begins (R112, R493). -/
def tickTransition (lay : Nat) (s : State) : State :=
  let l := s.layerAt lay
  match l.preqs with
  | p :: rest =>
    if p.started ∧ l.power = .run ∧ unsent s lay p.target then
      s.updLayer lay (fun l => { l with preqs := { p with left := transitionCycles .run p.target + 1 } :: rest })
    else if p.started ∧ p.left ≠ 0 then
      let copy := if p.left = 1 ∧ l.power = .off then 512 else l.copyLeft
      s.updLayer lay (fun l => { l with preqs := { p with left := p.left - 1 } :: rest, copyLeft := copy })
    else s
  | [] => s

/-- The layer's power is gone: its flag file, eyelets and ECFG are in the keeper, everything else is lost (R190, R214).
DEDUCED: notes/assumptions/25.md. -/
def enterOff (lay : Nat) (s : State) : State :=
  let l := s.layerAt lay
  let n := lay % 8
  let s := s.updTower (lay / 8) (fun t => { t with
    keeperFlags := l.flags.foldl (fun m e => mapSet 0 m (512 * n + e.1) e.2) t.keeperFlags
    keeperEyelets := l.eyelets.foldl (fun m e => mapSet .reset m (16 * n + e.1) e.2) t.keeperEyelets })
  let s := (upto 5).foldl (fun s c =>
    if (s.ctxAt (ctxKey lay c)).state = .free then s else leaveForGood lay c s) s
  let s : State := { s with cells := s.cells.filter (fun e => e.1 / 64 != lay),
                            cellCtxs := s.cellCtxs.filter (fun e => e.1 / 512 != lay) }
  s.updLayer lay (fun l => { Layer.reset with
    preqs := l.preqs, preq := l.preq, preqRes := l.preqRes, preqCtx := l.preqCtx, preqKill := l.preqKill,
    preqGsel := l.preqGsel, updates := l.updates, fid := l.fid, faults := l.faults, uncorr := l.uncorr, supShare := l.supShare })

/-- LAYER_TRANSITION_DONE: doze, off, or run from doze is reached, with everything sent (R123, R190, R493). -/
def execLayerTransitionDone (lay : Nat) (s : State) : Res :=
  let l := s.layerAt lay
  match l.preqs with
  | p :: _ =>
    if !p.started ∨ p.left ≠ 0 ∨ l.power = .off ∨ (l.power = .run ∧ unsent s lay p.target)
        ∨ (p.target = .off ∧ !transitionAllowed s lay .off) then .next s
    else
      match p.target with
      | .off => .next (finishRequest lay p (enterOff lay s))
      | t => .next (finishRequest lay p (s.updLayer lay (fun l => { l with power := t })))
  | [] => .next s

/-- The keeper's partition of a cell. DEDUCED: notes/assumptions/30.md. -/
def keeperPart (t : Tower) (k : Nat) : Map Byte :=
  (t.keeper.filter (fun e => e.1 / 65536 == k)).map (fun e => (e.1 - 65536 * k, e.2))

/-- What a layer takes back from the keeper: mirrors, with the writes it has heard, flags and eyelets (R112, R190, R214). -/
def takeBack (lay : Nat) (s : State) : State :=
  let t := s.towerAt (lay / 8)
  let n := lay % 8
  let s := (upto 64).foldl (fun s k => s.updCell (cellKey lay k) (fun e => { e with mirror := keeperPart t k })) s
  let s := (s.layerAt lay).heard.foldl (fun s b =>
    s.updCell (cellKey lay b.1) (fun e => { e with mirror := beatBytes b.2 e.mirror 0 })) s
  let s := s.updLayer lay (fun l => { l with
    heard := []
    flags := (t.keeperFlags.filter (fun e => e.1 / 512 == n)).map (fun e => (e.1 - 512 * n, e.2))
    eyelets := (t.keeperEyelets.filter (fun e => e.1 / 16 == n)).map (fun e => (e.1 - 16 * n, e.2)) })
  s.updTower (lay / 8) (fun t => { t with
    keeperFlags := t.keeperFlags.filter (fun e => e.1 / 512 != n)
    keeperEyelets := t.keeperEyelets.filter (fun e => e.1 / 16 != n) })

/-- Slots of the keeper's copy for a layer that have not been applied (R112, R482). -/
def copying (s : State) (lay : Nat) : Bool :=
  (s.layerAt lay).copyLeft != 0 || (s.towerAt (lay / 8)).busSlots.any (fun b => b.copy == some (lay % 8))

/-- KEEPER_COPY_DONE: a waking layer is released, with its supervisor placed afresh (R112, R214). -/
def execKeeperCopyDone (lay : Nat) (s : State) : Res :=
  let l := s.layerAt lay
  match l.preqs with
  | p :: _ =>
    if !p.started ∨ p.left ≠ 0 ∨ l.power ≠ .off ∨ copying s lay ∨ p.target = .off then .next s
    else
      let s := placeSupervisor lay ((takeBack lay s).updLayer lay (fun l => { l with power := p.target }))
      .next (finishRequest lay p s)
  | [] => .next s

/-! ### Dividers (R492, R495) -/

/-- The divider a tower should run at. DESIGN CHOICE: notes/assumptions/35.md. -/
def wantedDiv (t : Tower) : BitVec 5 := if t.hot then 8 else t.limDiv
/-- A change of DIV waits for the frame boundary (R492). -/
def askDiv (t : Tower) : Tower := { t with divNext := if wantedDiv t = t.div then none else some (wantedDiv t) }

/-- DIV_CHANGE: at a frame boundary (R492). -/
def execDivChange (tower : Nat) (s : State) : Res :=
  let t := s.towerAt tower
  match t.divNext with
  | some d => if t.cycle % 256 = 0 then .next (s.setTower tower { t with div := d, divNext := none }) else .next s
  | none => .next s

/-- The divider that the limit asks for after a comparison (R495). -/
def limitDiv (lim w : Nat) (d : BitVec 5) : BitVec 5 :=
  if lim < w then (if 8 < d.toNat then d - 1 else d)
  else if 100 * w < 95 * lim then (if d.toNat < 16 then d + 1 else d)
  else d

/-- Milliseconds of ticks since reset. -/
def State.ms (s : State) : Nat := s.tick.toNat / 1000000

/-- POWER_CHECK: once in every millisecond of ticks, the average of the last one against the limit (R495).
DESIGN CHOICE: notes/assumptions/35.md. -/
def execPowerCheck (watts : BitVec 16) (s : State) : Res :=
  if s.ms ≤ s.pwrMs then .next s
  else
    let go := fun (t : Tower) =>
      let d := limitDiv s.pwrLimit.toNat watts.toNat t.limDiv
      askDiv { t with limDiv := d, thr := d.toNat < 16 }
    .next ((upto 2).foldl (fun s n => s.updTower n go) { s with pwr := watts, pwrMs := s.ms })

/-- JUNCTION_HOT: at 105 °C the tower runs at DIV = 8 (R495). -/
def execJunctionHot (tower : Nat) (tj : BitVec 8) (s : State) : Res :=
  .next (s.updTower tower (fun t => askDiv { t with tj := tj, hot := t.hot || 105 ≤ tj.toNat }))

/-- JUNCTION_COOLED: below 100 °C the forced divider is lifted (R495). -/
def execJunctionCooled (tower : Nat) (tj : BitVec 8) (s : State) : Res :=
  .next (s.updTower tower (fun t => askDiv { t with tj := tj, hot := t.hot && 100 ≤ tj.toNat }))

/-! ### A tower too hot (R495) -/

/-- Every task of a layer is killed by R431, and the layer goes off once it may; what was asked of it is void with those who asked.
DESIGN CHOICE: notes/assumptions/35.md. -/
def stopLayer (lay : Nat) (s : State) : State :=
  let s := (upto 5).foldl (fun s c => killTask lay c s) s
  s.updLayer lay (fun l =>
    if l.power = .off then { l with preqs := [], copyLeft := 0, heard := [] }
    else match l.preqs with
      | p :: _ => if p.started ∧ p.target = .off then { l with preqs := [{ p with ctxKey := forcedKey }] }
        else { l with preqs := [{ target := .off, ctxKey := forcedKey, n := 0, started := false, left := 0 }] }
      | [] => { l with preqs := [{ target := .off, ctxKey := forcedKey, n := 0, started := false, left := 0 }] })

/-- JUNCTION_CRITICAL: at 115 °C every task of the tower is killed, its layers go off, a wake under way included, and an
alarm is raised (R495). -/
def execJunctionCritical (tower : Nat) (tj : BitVec 8) (s : State) : Res :=
  let s := s.updTower tower (fun t => askDiv { t with tj := tj, hot := t.hot || 105 ≤ tj.toNat })
  if tj.toNat < 115 then .next s
  else .next (alarm 495 ((upto 8).foldl (fun s n => stopLayer (8 * tower + n) s) s))

end Sys2Proof.Machine
end

