-- ==== Sys2Proof/Machine/Reliab.lean ====
section
/-!
DEFINITION. Errors and their records (R479 to R484), retries (R481, R487), failed layers and the spare (R14, R485, R486).
-/

namespace Sys2Proof.Machine

/-- The 32 bytes of an error record (R483). -/
def errorBytes (code kind tower phys cell ctx : Nat) (loc : DWord) (cycle : Nat) : List Byte :=
  leBytes 8 (code % 2 ^ 8 + 2 ^ 8 * (kind % 4) + 2 ^ 10 * (tower % 2) + 2 ^ 11 * (phys % 16) + 2 ^ 15 * (cell % 64) + 2 ^ 21 * (ctx % 8))
    ++ leBytes 8 loc.toNat ++ leBytes 8 cycle ++ leBytes 8 0

/-- An error record in the mailbox (R483). -/
def errorRecord (code kind tower phys cell ctx : Nat) (loc : DWord) (s : State) : State :=
  { s with mail := s.mail ++ [.error (errorBytes code kind tower phys cell ctx loc (s.towerAt tower).cycle)] }

/-- The logical layer a physical one serves as (R14). -/
def logicalOf (t : Tower) (phys : Nat) : Option Nat :=
  if t.failed.contains phys then none
  else match t.spare with
    | some (p, l) => if phys = 8 then some l else if phys = p then none else if phys < 8 then some phys else none
    | none => if phys < 8 then some phys else none

/-! ### A failed layer (R485, R486) -/

/-- The record of a task killed with its layer goes to the host (R485, step 1). -/
def failTask (lay c phys : Nat) (s : State) : State :=
  let x := s.ctxAt (ctxKey lay c)
  if x.task = .free then s
  else
    let t : TrapInfo := { cause := .uncorr, sub := 0, code := 0, cell := none, dec := false, slot := 0, baddr := x.pc,
                          region := 0, aux0 := BitVec.ofNat 64 phys, aux1 := 0 }
    let y : Ctx := { x with pc := x.resumeEntry, trapStep := (s.layerAt lay).step, trapCycle := s.cycleOf lay }
    s.updTower (lay / 8) (fun w => { w with host := w.host ++ [.trap lay c (trapWords y t)] })

/-- The flags of a failed layer as the keeper reads them: whether each can be read is free; one that cannot is poisoned
(R485, step 3). DESIGN CHOICE: notes/assumptions/32.md. -/
def salvageFlags (lay : Nat) (s : State) : State :=
  (upto 512).foldl (fun s i =>
    let r := s.choose
    if r.1 then r.2
    else r.2.updLayer lay (fun l =>
      let v : DWord := mapGet 0 l.flags i
      { l with flags := mapSet 0 l.flags i (v ||| ones64 63 1) })) s

/-- What the layer's queues hold unsent is dropped: stack beats, flag updates, and store data; a completion that its task has left behind
is poisoned (R431, R485). DESIGN CHOICE: notes/assumptions/32.md. -/
def dropQueues (lay : Nat) (s : State) : State :=
  let gone := fun (q : Req) => q.lay == lay && (q.state == ReqState.queued || q.state == ReqState.held)
  let kept := fun (e : Released) => e.lay != lay || (match e.effect with | .flag .. => false | _ => true)
  let s : State := { s with
    reqs := s.reqs.filter (fun q => !gone q)
    released := (s.released.filter kept).map (fun e => match e.effect with
      | .complete r h f _ => if e.lay = lay then { e with effect := .complete r h f poisonAdd } else e
      | _ => e) }
  s.updLayer lay (fun l => { l with beats := [], outUpd := [] })

/-- Every task of a layer that steps no more is killed, with its updates made and its context free (R431). -/
def killAll (lay : Nat) (s : State) : State :=
  (upto 5).foldl (fun s c =>
    if (s.ctxAt (ctxKey lay c)).task = .free then s else leaveForGood lay c (endDiscard lay c (killTask lay c s))) s

/-- The spare takes a logical number and leaves off, with what was asked of the layer behind (R14, R485, step 5). -/
def useSpare (tower logical phys : Nat) (s : State) : State :=
  let wake : PowerReq := { target := .run, ctxKey := forcedKey, n := 0, started := false, left := 0 }
  (s.updTower tower (fun t => { t with spare := some (phys, logical) })).updLayer (8 * tower + logical)
    (fun l => { l with preqs := wake :: l.preqs })

/-- A logical layer becomes absent (R486). -/
def becomeAbsent (tower logical : Nat) (s : State) : State :=
  s.updTower tower (fun t => { t with absent := if t.absent.contains logical then t.absent else t.absent ++ [logical] })

/-- A physical layer is declared failed: its record, its tasks, its queues (R483; R485, step 1). DESIGN CHOICE:
notes/assumptions/32.md. -/
def failLayer (tower phys : Nat) (s : State) : State :=
  let t := s.towerAt tower
  if t.failed.contains phys then s
  else
    let s := errorRecord 0 3 tower phys 0 7 0 (s.updTower tower (fun t => { t with failed := t.failed ++ [phys] }))
    match logicalOf t phys with
    | none => s
    | some n =>
      let lay := 8 * tower + n
      let s := (upto 4).foldl (fun s c => failTask lay c phys s) s
      pump (killAll lay (dropQueues lay (s.updLayer lay (fun l => { l with failing := some phys, cur := none, uncorr := [] }))))

/-- The cycle after: the failed layer is off, its flags are in the keeper, and the spare takes its number, the host decides, or it is
absent (R485, steps 2 to 5; R486). What was asked of its power stands. -/
def layerOver (lay : Nat) (s : State) : State :=
  match (s.layerAt lay).failing with
  | none => s
  | some phys =>
    let tower := lay / 8
    let s := if (s.layerAt lay).power = .off then s else enterOff lay (salvageFlags lay s)
    let s := s.updLayer lay (fun l => { l with
      power := .off, failing := none, copyLeft := 0, heard := [], preqs := l.preqs.map (fun p => { p with started := false, left := 0 }) })
    let t := s.towerAt tower
    if t.spare.isSome || t.failed.contains 8 then becomeAbsent tower (lay % 8) s
    else if t.dsplit.getLsbD 6 then s.updTower tower (fun t => { t with host := t.host ++ [.spare (lay % 8) phys] })
    else useSpare tower (lay % 8) phys s

/-- LAYER_FAILURE (R485). -/
def execLayerFailure (tower phys : Nat) (s : State) : Res := .next (failLayer tower phys s)

/-- HOST_SPARE_REPLY: the substitution the host names is made (R416, R485). -/
def execHostSpareReply (tower logical : Nat) (s : State) : Res :=
  match (s.towerAt tower).host.findSome? (fun h => match h with
    | .spare l p => if l = logical then some p else none
    | _ => none) with
  | some phys =>
    let s := s.updTower tower (fun t => { t with host := t.host.filter (fun h => match h with
      | .spare l _ => l != logical
      | _ => true) })
    .next (if (s.towerAt tower).spare.isSome || (s.towerAt tower).failed.contains 8 then becomeAbsent tower logical s
      else useSpare tower logical phys s)
  | none => .next s

/-! ### Soft errors (R479, R480, R483) -/

/-- The bundle that a cell executes for a context at this step. -/
def readingFlight (s : State) (lay ctx cell : Nat) : Option Flight :=
  (s.layerAt lay).flight.find? (fun f => f.ctx == ctx && f.t + skew cell == (s.layerAt lay).step && !f.slots.isEmpty)

/-- A place in a cell as its slots read it: bank and row, register, tile and word (R480). -/
def placeOf (code cell loc : Nat) : Option Loc :=
  match code with
  | 1 => some (.bank cell (loc / 256) (loc % 256))
  | 2 => some (.v cell loc)
  | 3 => some (.acc cell (loc / 1024))
  | _ => none

/-- The slot of a bundle that reads a place. -/
def readingSlot (s : State) (cell : Nat) (f : Flight) (place : Option Loc) : Nat :=
  ((place.bind (fun p => f.slots.find? (fun z => (readLocs { f := f, cell := cell, slot := z } s).contains p))).map
    (fun z => z.idx)).getD 0

/-- What an uncorrectable error is attributed to: the region, address and slot of the form that reads the place, or, for a landing, the
region that R286 names (R479). DEDUCED: notes/assumptions/33.md. -/
def errorSite (s : State) (lay ctx code cell loc : Nat) : Nat × DWord × Nat :=
  let x := s.ctxAt (ctxKey lay ctx)
  let here := (x.regionId, x.pc, 0)
  match code with
  | 5 => match (s.cellAt (cellKey lay cell)).landing[loc]? with
    | some d => (faultRegion x d.region, x.resumeEntry, 0)
    | none => here
  | 9 => here
  | 14 => match x.regions with
    | g :: _ => (g.id, x.resumeEntry, 0)
    | [] => here
  | _ => match readingFlight s lay ctx cell, (s.cellAt (cellKey lay cell)).routine with
    | some f, _ => (faultRegion x f.region, f.baddr, readingSlot s cell f (placeOf code cell loc))
    | none, some q => if q.ctx = ctx then (faultRegion x q.region, q.baddr, q.slot) else here
    | none, none => here

/-- UNCORR in a context; the fourth of a layer within 2^30 cycles fails the layer (R479, R480, R483). -/
def raiseUncorr (lay ctx code cell loc : Nat) (s : State) : State :=
  if (s.ctxAt (ctxKey lay ctx)).task = .free then s
  else
    let r := errorSite s lay ctx code cell loc
    noteUncorr lay (takeTrap lay ctx
      { cause := .uncorr, sub := code, code := 0, cell := if code = 9 ∨ code = 14 then none else some cell, dec := false,
        slot := r.2.2, baddr := r.2.1, region := r.1, aux0 := errorLoc cell loc, aux1 := 0 } s)

/-- A layer with four UNCORR events within 2^30 cycles has failed (R483). -/
def wornOut (lay : Nat) (s : State) : State :=
  let c := s.cycleOf lay
  if 4 ≤ ((s.layerAt lay).uncorr.filter (fun k => c < k + 2 ^ 30)).length then
    failLayer (lay / 8) (physOf (s.towerAt (lay / 8)) (lay % 8)) s
  else s

/-- One frozen cycle while data is fetched or a traversal repeats: the layer's next step comes a cycle later, and no task is Frozen
for it (R479, R481). DEDUCED: notes/assumptions/33.md. -/
def freezeOnce (lay : Nat) (s : State) : State :=
  if (s.layerAt lay).power = .run then s.updLayer lay (fun l => { l with stall := true }) else s

/-- A static last-cache entry is reloaded from the last store (code 7). -/
def reloadLast (lay cell ctx entry : Nat) (s : State) : State :=
  match mapFind (s.cellAt (cellKey lay cell)).lastNums entry with
  | some n => match ((s.ctxAt (ctxKey lay ctx)).image.lasts[n]?).join with
    | some i => s.updCell (cellKey lay cell) (fun e => { e with lasts := mapSet Last.none e.lasts entry (mapGet Last.none (s.layerAt lay).store i) })
    | none => s
  | none => s

/-- A weight row's parity is wrong (code 4). -/
def spoilRow (lay cell row : Nat) (s : State) : State :=
  s.updCell (cellKey lay cell) (fun e => { e with badRows := if e.badRows.contains row then e.badRows else e.badRows ++ [row] })

/-- A mirror word is fetched from the keeper (code 10). -/
def refetchMirror (lay cell loc : Nat) (s : State) : State :=
  let k := (s.towerAt (lay / 8)).keeper
  s.updCell (cellKey lay cell) (fun e => { e with
    mirror := (upto 4).foldl (fun m i =>
      mapSet 0 m (loc / 4 * 4 + i) (mapGet (0 : Byte) k (65536 * cell + loc / 4 * 4 + i))) e.mirror })

/-- A keeper word is rewritten from the mirror of the lowest layer in run or doze, or zeroed (code 11). -/
def rewriteKeeper (tower loc : Nat) (s : State) : State :=
  let a := loc / 4 * 4
  let src := (upto 8).find? (fun l => hearing (s.layerAt (8 * tower + l)))
  let byte := fun (i : Nat) => match src with
    | some l => mapGet (0 : Byte) (s.cellAt (cellKey (8 * tower + l) (a / 65536 % 64))).mirror (a % 65536 + i)
    | none => 0
  s.updTower tower (fun t => { t with keeper := (upto 4).foldl (fun m i => mapSet 0 m (a + i) (byte i)) t.keeper })

/-- An uncorrectable HBM read: the reads of that place that stand at their ports, and those of code and of records in this cycle, are
answered as under return poison (code 13). DEDUCED: notes/assumptions/33.md. -/
def poisonReads (loc : Nat) (s : State) : State :=
  { s with
    badReads := s.badReads ++ [loc / 32]
    reqs := s.reqs.map (fun q =>
      let hit := match q.state with
        | .ready l => l.size != 0 && loc / 32 * 32 < l.pa q.addr + q.len && l.pa q.addr < loc / 32 * 32 + 32
        | _ => false
      let reads := match q.kind with | .load .. | .cld _ | .atomic .. => true | _ => false
      if hit && reads then { q with state := .answer 2 } else q) }

/-- What an uncorrectable error of a layer's structure does (R479). `ctx` is the context whose share holds the place, 7 for
none. -/
def uncorrectableIn (lay phys code cell ctx loc : Nat) (s : State) : State :=
  if code = 7 ∧ loc < 56 then freezeOnce lay (reloadLast lay cell ctx loc s)
  else if code = 10 then freezeOnce lay (refetchMirror lay cell loc s)
  else if code = 9 ∧ ctx = 4 then failLayer (lay / 8) phys s
  else if code = 4 then (if ctx < 5 then spoilRow lay cell loc s else s)
  else if ctx < 5 ∧ (code ≤ 7 ∨ code = 9 ∨ code = 14) then wornOut lay (raiseUncorr lay ctx code cell loc s)
  else s

/-- SOFT_ERROR (R479 to R484). For code 13 `loc` is the physical address; for code 11 it is the keeper offset. -/
def execSoftError (code tower phys cell ctx loc : Nat) (uncorrectable : Bool) (s : State) : Res :=
  let s := errorRecord code (if uncorrectable then 1 else 0) tower phys cell ctx (errorLoc cell loc) s
  let s := if code = 13 then
      countTel tower (if uncorrectable then telHbmUncorrectable (hbmTarget s loc) else telHbmCorrected (hbmTarget s loc)) s
    else countTel tower (if uncorrectable then telUncorrectable code phys else telCorrected code phys) s
  if !uncorrectable then .next s
  else if code = 13 then .next (poisonReads loc s)
  else if code = 11 then .next (rewriteKeeper tower loc s)
  else match logicalOf (s.towerAt tower) phys with
    | some n => .next (uncorrectableIn (8 * tower + n) phys code (cell % 64) ctx loc s)
    | none => .next s

/-- NETWORK_RETRY: the traversal repeats in a frozen cycle; a repeat that fails raises UNCORR (R481). -/
def execNetworkRetry (lay cell ctx : Nat) (again : Bool) (s : State) : Res :=
  let tower := lay / 8
  let phys := physOf (s.towerAt tower) (lay % 8)
  let s := countTel tower (telNetwork phys cell) (errorRecord 6 2 tower phys cell ctx (errorLoc cell 0) s)
  let s := freezeOnce lay s
  if again then
    let s := countTel tower (telUncorrectable 6 phys) (errorRecord 6 1 tower phys cell ctx (errorLoc cell 0) s)
    .next (if ctx < 5 then wornOut lay (raiseUncorr lay ctx 6 (cell % 64) 0 s) else s)
  else .next s

/-- COLUMN_RETRY_EXCESS: more than 16 slots of the frame retried on the column (R487). -/
def execColumnRetryExcess (tower col : Nat) (s : State) : Res :=
  if 16 < mapGet 0 (s.towerAt tower).retries col then
    .next (errorRecord 12 2 tower 15 col 7 (errorLoc col 0) s)
  else .next s

/-- TELEMETRY_READ_CLEAR (R484). -/
def execTelemetryReadClear (tower : Nat) (s : State) : Res :=
  let m : Mail := .telemetry tower (s.towerAt tower).telemetry
  let s : State := { s with mail := s.mail ++ [m] }
  .next (s.updTower tower (fun t => { t with telemetry := [] }))

end Sys2Proof.Machine
end

