-- ==== Sys2Proof/Machine/Boot.lean ====
section
/-!
DEFINITION. Boot and trust (R472 to R478). The hash, the signatures and the encryption are named by the manual and left free
(notes/assumptions/3.md).
-/

namespace Sys2Proof.Machine

/-- A copy the tower controller may take (R449, R472, R476). -/
def copyOk (s : State) (c : RecordCopy) : Bool :=
  s.signed c.bytes c.sigs && masksOk c.record.hmask && s.rollback ≤ c.record.version.toNat

/-- Of the copies in flash that qualify, the one with the higher VERSION (R476). -/
def chooseCopy (s : State) : Option RecordCopy :=
  match ([s.flash.copy0, s.flash.copy1].filterMap id).filter (copyOk s) with
  | [] => none
  | a :: r => some (r.foldl (fun m x => if m.record.version.toNat < x.record.version.toNat then x else m) a)

/-- A tower as a configuration record leaves it (R14, R415, R471, R475). -/
def bootTower (c : ConfigRecord) (n : Nat) : Tower :=
  let sp := (if n = 0 then c.spare0 else c.spare1).map (fun p => p.toNat)
  { Tower.reset with
    dsplit := c.dsplit
    sot := match c.sot with
      | some m => (upto 256).foldl (fun a i => a ||| (BitVec.ofNat 1024 ((mapGet (0 : BitVec 4) m i).toNat) <<< (4 * i))) 0
      | none => defaultSot
    spare := sp.map (fun p => (p, p))
    failed := match sp with | some p => [p] | none => [] }

/-- The package at power-on: what is fused, the flash and the part's own seed stay. A version accepted before raises the rollback
count at this boot (R472, R474, R476). -/
def powerOn (flash : Flash) (s : State) : State :=
  { State.reset with
    rollback := match s.config with | some c => Nat.max s.rollback c.version.toNat | none => s.rollback
    revoke := s.revoke, keyHashes := s.keyHashes, flash := flash, seed := some (Config.pufSeed 0), choice := s.choice,
    agenda := s.agenda }

/-- The package with a configuration record's fields applied (R473, step 2; R475). -/
def applyRecord (c : RecordCopy) (s : State) : State :=
  let r := c.record
  { s with
    boot := 2, pkg := r.pkg, dom := r.dom, count := r.count, config := some r, configHash := Config.sha384 c.bytes,
    keyIndex := c.sigs.index, otbase := r.otbase, hmask := r.hmask, hret := r.hret,
    towers := mapSet .reset (mapSet .reset [] 0 (bootTower r 0)) 1 (bootTower r 1) }

/-- POWER_ON_RESET: boot steps 1 to 3 (R473), over the flash as it is or as it has been written while the power was off;
`trains` says whether UCIe, HBM and the Stavoux link train. -/
def execPowerOnReset (program : Option Flash) (trains : Bool) (s : State) : Res :=
  let s := powerOn (program.getD s.flash) s
  if !s.signed s.flash.firmware s.flash.fwSigs then .next (alarm 1 s)
  else
    let s := { s with boot := 1, firmware := Config.sha384 s.flash.firmware }
    match chooseCopy s with
    | none => .next (alarm 2 s)
    | some c =>
      let s := applyRecord c s
      .next (if trains then { s with boot := 3, linkUp := true } else alarm 3 s)

/-- KCAP_INSTALL: boot step 4, a key encrypted to the identity key (R433, R473). -/
def execKcapInstall (key : SealedKey) (s : State) : Res :=
  match s.seed with
  | some seed =>
    if s.boot = 3 then
      .next (if key.tag = Config.kcapTag seed key.body then { s with boot := 4, kcap := some (key.body ^^^ Config.kcapMask seed) }
        else alarm 4 s)
    else .next s
  | none => .next s

/-- A supervisor image that may be installed (R382, R477, R497): SUP is 1, R369 to R381 and R39 hold, both signatures verify,
and its hash is SUPHASH. -/
def supervisorOk (s : State) (b : List Byte) : Bool :=
  let b' := b.take (imgLen b)
  imgSup b && imageFormOk b (imgShare b) && loopsOk b false && !(imgLoops b).any (fun e => e.kind == 4) && tablesFitEmpty b
    && signatureOk s b && (match s.config with | some c => Config.sha384 b' == c.suphash | none => false)

/-- Every layer of a tower is off (R477). -/
def allOff (s : State) (tower : Nat) : Bool := (upto 8).all (fun l => (s.layerAt (8 * tower + l)).power == .off)

/-- The image that a tower's layers are released with (R477). -/
def setSupervisor (tower : Nat) (image : List Byte) (s : State) : State :=
  s.updTower tower (fun t => { t with supImage := some image })

/-- A layer is released in run, with its supervisor placed (R473, step 5). -/
def releaseLayer (lay : Nat) (s : State) : State :=
  if (s.towerAt (lay / 8)).absent.contains (lay % 8) then s
  else placeSupervisor lay (s.updLayer lay (fun l => { l with power := .run }))

/-- SUPERVISOR_INSTALL: at boot step 5, in both towers, or later in one while every layer of it is off (R473, R477). -/
def execSupervisorInstall (image : SupImage) (s : State) : Res :=
  let b := image.bytes
  if s.boot = 4 then
    if supervisorOk s b then
      .next ((upto 16).foldl (fun s l => releaseLayer l s) (setSupervisor 0 b (setSupervisor 1 b { s with boot := 5 })))
    else .next (alarm 5 s)
  else if s.boot = 5 ∧ allOff s image.tower ∧ supervisorOk s b then .next (setSupervisor image.tower b s)
  else .next s

/-- The hash of the identity's public keys (R478). -/
def identityHash (s : State) : BitVec 256 :=
  match s.seed with
  | some k => Config.keyPairHash (Config.ed25519Public k) (Config.mldsa65Public k)
  | none => 0

/-- An attestation report without its signatures (R478). -/
def reportBody (s : State) (nonce : BitVec 256) : List Byte :=
  let h := match s.config with | some c => c.suphash.toNat | none => 0
  let v := match s.config with | some c => c.version.toNat | none => 0
  leBytes 8 0x5454415454414F47 ++ leBytes 32 nonce.toNat ++ leBytes 48 s.firmware.toNat ++ leBytes 48 s.configHash.toNat
    ++ leBytes 48 h ++ leBytes 4 v ++ leBytes 4 s.rollback ++ leBytes 4 s.revoke.toNat ++ leBytes 4 s.keyIndex
    ++ leBytes 32 (identityHash s).toNat

/-- A signature in a field of n bytes. -/
def sigField (n : Nat) (b : List Byte) : List Byte := (b ++ List.replicate n 0).take n

/-- The identity's two signatures of a message, Ed25519 then ML-DSA-65 (R474, R478). -/
def identitySign (s : State) (b : List Byte) : List Byte :=
  match s.seed with
  | some k => sigField 64 (Config.ed25519Sign k b) ++ sigField 3309 (Config.mldsa65Sign k b)
  | none => []

/-- ATTESTATION_REQUEST (R478): 4096 bytes, signatures then zeros. -/
def execAttestationRequest (nonce : BitVec 256) (s : State) : Res :=
  let b := reportBody s nonce
  let r := b ++ identitySign s b
  .next { s with mail := s.mail ++ [.report (r ++ List.replicate (4096 - r.length) 0)] }

end Sys2Proof.Machine
end

