-- ==== Sys2Proof/Machine/Cycle.lean ====
section
/-!
DEFINITION. What the package does by itself in a tower cycle: what arrives and what the ports and controllers carry on
(`startCycle`), the waits and the scheduler (`evalWaits`), what ends after the layers' steps (`closeCycle`), and the counts
that rise (`finishCycle`). Where the manual leaves the time of an access open, a free choice takes it
(notes/assumptions/2.md).
-/

namespace Sys2Proof.Machine

/-- One meaning after another. -/
def andThen (r : Res) (f : State → Res) : Res :=
  match r with
  | .next s => f s
  | .fault e => .fault e
  | .refused e => .refused e

/-- A meaning for each element in turn. -/
def forAll {α : Type} (xs : List α) (f : α → State → Res) (s : State) : Res :=
  xs.foldl (fun r x => andThen r (f x)) (.next s)

/-- Meanings in turn. -/
def inTurn (fs : List (State → Res)) (s : State) : Res := fs.foldl andThen (.next s)

/-- Something that happens now or later (R36, R106, R125). -/
def maybe (f : State → Res) (s : State) : Res := let c := s.choose; if c.1 then f c.2 else .next c.2

def pureRes (f : State → State) (s : State) : Res := .next (f s)

/-- Contexts that are not at their reset value. -/
def liveCtxs (s : State) : List Nat := (s.ctxs.map (fun e => e.1)).filter (fun k => k < 128)
def liveLayers (s : State) : List Nat := s.layers.map (fun e => e.1)

/-! ### The cycle begins -/

/-- The end of a frame: the new slot table and divider (R471, R492); and, once its last slot can be retried no more, the columns
that retried too often (R482, R487). -/
def frameEnd (tower : Nat) (s : State) : Res :=
  match (s.towerAt tower).cycle % 256 with
  | 0 => inTurn [pureRes (frameStart tower), execDivChange tower] s
  | 3 =>
    inTurn [forAll (((s.towerAt tower).retries).map (fun e => e.1)) (fun k => execColumnRetryExcess tower k),
      pureRes (fun s => s.updTower tower (fun t => { t with retries := [] }))] s
  | _ => .next s

/-- Link timers and phases (R462, R465, R470). -/
def linkTimers (tower : Nat) (s : State) : Res :=
  forAll ((s.towerAt tower).links.map (fun e => e.1)) (fun f s =>
    let l := s.linkAt tower f
    let arrive := fun (s : State) =>
      if (s.linkAt tower f).inbound.isEmpty then Host.Outcome.next s
      else maybe (execFlitArrival tower f none) s
    inTurn [
      fun s => if l.state = .train ∧ l.trainLeft = 1 then execTrainTimeout tower f s else .next s,
      fun s => if l.staleLeft = 1 then execStaleTimeout tower f s else .next s,
      fun s => .next (sendFlits tower f (s.updLink tower f (beginRollover s.tick.toNat))),
      execKeyRolloverComplete tower f, execKeyPhaseExhausted tower f, arrive] s) s

/-- The eyelets' words, and the short network (R190, R198, R459). -/
def shortWork (tower : Nat) (s : State) : Res :=
  let lays := (liveLayers s).filter (fun l => l / 8 == tower)
  inTurn [
    forAll lays (fun lay s => forAll ((s.layerAt lay).eyelets.map (fun e => e.1)) (fun e s =>
      if (mapGet .reset (s.layerAt lay).eyelets e).words.isEmpty then .next s else maybe (execEyeletWordSend lay e) s) s),
    fun s => if (s.towerAt tower).shortQ.isEmpty && (s.towerAt tower).credits.isEmpty then .next s
      else forAll (upto 9) (fun p s => if p < 8 then execShortNetworkSlot tower p s else maybe (execShortNetworkSlot tower p) s) s] s

/-- Fabric sends: the source is read, the transfer departs (R203, R204). -/
def sendWork (s : State) : Res :=
  forAll (s.released.map (fun e => e.id)) (fun id s =>
    match findReleased s id with
    | some e =>
      (match e.effect, e.phase with
       | .send .., 2 => maybe (execSendReady id) s
       | .send .., 3 => execSendDepart id s
       | _, _ => .next s)
    | _ => .next s) s

/-- The plan (R456). -/
def planWork (s : State) : Res :=
  if s.plArm && s.planNext.isNone then maybe readPlan s else execPlanSwitch s

/-- Every request at the ports goes on, now or later (R125); one that waits for its commit, its slot or a service stands. -/
def requestWork (s : State) : Res :=
  forAll (s.reqs.map (fun q => q.id)) (fun id s =>
    match s.findReq id with
    | some q =>
      (match q.state with
       | .held | .queued | .sent _ | .parked _ | .walking _ | .withdrawn | .arrived _ => .next s
       | _ => maybe (progressReq id) s)
    | _ => .next s) s

/-- The rows that arrive in this cycle enter their landing buffers at its end, in time for a step that begins in a later one
(R106, R355). -/
def arrivals (s : State) : Res :=
  forAll (s.reqs.map (fun q => q.id)) (fun id s =>
    match s.findReq id with
    | some q => (match q.kind, q.state with | .load .., .arrived _ => progressReq id s | _, _ => .next s)
    | none => .next s) s

/-- Power transitions (R213, R493, R494). -/
def powerWork (s : State) : Res :=
  forAll (liveLayers s) (fun l => fun s => inTurn [execLayerTransitionStart l, execLayerTransitionDone l, execKeeperCopyDone l] s) s

/-- A cycle begins: stack beats and flag updates of earlier slots apply, ports and controllers go on, this cycle's slots are
sent. -/
def startCycle (s : State) : Res :=
  if s.boot < 5 then .next { s with phase := .finish }
  else
    inTurn [
      fun s => forAll (liveLayers s) (fun l => pureRes (layerOver l)) s,
      forAll [0, 1] frameEnd,
      forAll [0, 1] (fun t => execStackBeatApply t 0 false),
      forAll [0, 1] linkTimers,
      forAll [0, 1] shortWork,
      planWork, sendWork, requestWork, pureRes settleReleased,
      fun s => if s.tinvBusy then execTinvComplete s else .next s,
      powerWork,
      fun s => forAll (liveLayers s) (fun l => execFlagUpdateApply l none) s,
      forAll [0, 1] execStackBusSlot,
      pureRes (fun s => { s with phase := .waits })] s

/-! ### Waits and the scheduler -/

/-- A layer's waits after the cycle's updates (R52, R56, R58, R191); one that dozes evaluates waits alone (R214). What lands in
a frozen cycle, and the counters that fall for it, come after the frozen wait's evaluation: the freeze ends in the cycle after
(R108; DEDUCED, notes/assumptions/36.md). What has arrived in the cycle before the freeze began is written in its second cycle,
or in its first where all of the step's work is done there. DEDUCED, in the same entry. -/
def layerWaits (lay : Nat) (s : State) : Res :=
  match (s.layerAt lay).power with
  | .run =>
    inTurn [
      execWaitPass lay,
      fun t => .next (if (s.layerAt lay).frozen.isSome || (s.layerAt lay).stall then frozenLandings lay t else t),
      forAll (upto 5) (fun c => fun s => inTurn [execWaitSatisfied lay c, execResumeHoldEnd lay c, execWatchdog lay c,
        execPriorityAgeing lay c, execStarvationSwitch lay c] s),
      execFreezeSwitch lay] s
  | .doze => forAll (upto 5) (fun c => execWaitSatisfied lay c) s
  | .off => .next s

/-- Placements in progress end after their cycles, or earlier (R410); a Placed task starts in the cycle after. -/
def placements (tower : Nat) (s : State) : Res :=
  forAll (s.towerAt tower).running (fun r s =>
    match r.place with
    | some (l, c) =>
      if r.state = .placing then
        let now := r.left = 0
        let s := updRunning tower r.id (fun r => { r with left := r.left - 1 }) s
        if now then execPlacementComplete l c s else maybe (execPlacementComplete l c) s
      else if r.state = .placed then execPlacementComplete l c s
      else if r.state = .gangHeld then execGangStartTick l c s
      else .next s
    | none => .next s) s

/-- A tower's scheduler: the heads are evaluated, wait, and are selected from (R407, R408). -/
def scheduler (tower : Nat) (s : State) : Res :=
  inTurn [
    pureRes (evalHeads tower),
    fun s => forAll ((s.towerAt tower).queues.map (fun e => e.1)) (fun q => execHeadAgeing tower q) s,
    execSchedulerSelect tower,
    placements tower] s

/-- The waits of every layer, then the scheduler. -/
def evalWaits (s : State) : Res :=
  inTurn [
    fun s => forAll (liveLayers s) layerWaits s,
    forAll [0, 1] scheduler,
    fun s => forAll (s.gangs.map (fun g => g.gid)) execGangTimeout s,
    pureRes (fun s => { s with phase := .issue 0 })] s

/-! ### After the layers' steps -/

/-- Effects whose end waits on something else than the memory: deferred words, loads of the shared stores, sends that have left
(R201, R204, R215). DESIGN CHOICE: notes/assumptions/26.md. -/
def deferred (s : State) : Res :=
  forAll (s.released.map (fun e => e.id)) (fun id s =>
    match findReleased s id with
    | some e =>
      (match e.effect with
       | .epush .. => if e.phase = 1 then execEpushDeferred (e.ctxKey / 8) (e.ctxKey % 8) s else .next s
       | .lstld .. => maybe (execLastStoreLoadComplete id) s
       | .mpsld .. => maybe (execLastStoreLoadComplete id) s
       | .send .. =>
         (match e.transfer with
          | some x =>
            if e.phase = 4 ∧ capPkg x.gd ≠ s.pkg then maybe (fun s => .next (remoteSent e x s)) s
            else if e.phase = 5 ∧ missApplied s e x then .next (dropReleased e.id s)
            else .next s
          | none => .next s)
       | _ => .next s)
    | _ => .next s) s

/-- The first record that waits for an entry of its queue and finds one, in the order of R400: by its issuer's layer, and in
release order within one (R402). -/
def nextLaunch (s : State) : Option Released :=
  (sortBy (fun e => e.lay) s.released).find? (fun e => e.phase == 1 && (match e.effect with
    | .tlaunch q _ => decide (((s.towerAt (e.lay / 8)).queue q).length < 256)
    | _ => false))
def deferredLaunches (s : State) : Res :=
  forAll s.released (fun _ s => match nextLaunch s with
    | some e => execTlaunchDeferredAppend (e.ctxKey / 8) (e.ctxKey % 8) s
    | none => .next s) s

/-- What a context's settling lets happen (R209, R420, R426, R431). -/
def settleCtx (key : Nat) (s : State) : Res :=
  inTurn [execTrapRecordWrite (key / 8) (key % 8), execTaskRetire (key / 8) (key % 8), execKillRelease (key / 8) (key % 8),
    execSaveRecordWrite (key / 8) (key % 8)] s

/-- Releases, records and requests at the end of the cycle. -/
def closeCycle (s : State) : Res :=
  inTurn [
    arrivals, deferredLaunches, pureRes (fun s => skipExchanges 1 (skipExchanges 0 s)),
    pureRes (fun s => settleReleased (pump s)),
    deferred,
    fun s => forAll (liveCtxs s) settleCtx s,
    fun s => forAll (liveLayers s) (fun l s => match (s.layerAt l).preq with
      | some p => execPreemptEffect l p.ctx s
      | none => .next s) s,
    fun s => forAll (s.reqs.map (fun q => q.id)) execTaggedItemComplete s,
    pureRes (fun s => sweepGone (drainStatus s)),
    fun s => forAll (liveLayers s) (fun l => pureRes (wornOut l)) s,
    pureRes (fun s => { s with phase := .finish })] s

/-! ### The cycle ends -/

/-- The counts of a context: cycles Ready and not issuing, under a hold or not, and cycles of its wait once it is placed, in a layer
in run (R54, R58, R214). Cycles in which the layer dozes or is off count for neither. DESIGN CHOICE: notes/assumptions/49.md. -/
def countCtx (key : Nat) (s : State) : State :=
  if (s.layerAt (key / 8)).power != .run then s
  else s.updCtx key (fun x => { x with
    waited := if x.wait != .none && x.task != .placed then x.waited + 1 else x.waited
    idle := if x.task == .ready then x.idle + 1 else x.idle })

/-- A link after `d` ticks: time of its lanes for its next flits, of 18 ticks on one lane each (R453), and its timers, whose last tick
is left to the timeout's event. -/
def tickLink (d : Nat) (l : Link) : Link :=
  { l with credit := if l.pending.isEmpty && l.resend.isNone then 18 else l.credit + d * l.lanesUsed.length
           trainLeft := if l.trainLeft = 0 then 0 else Nat.max 1 (l.trainLeft - d)
           staleLeft := if l.staleLeft = 0 then 0 else Nat.max 1 (l.staleLeft - d) }

/-- Bounds of the ticks in a cycle of a tower: 16000 / (BIN·DIV) of them, rounded down and up; 0 to 2 before BIN is known
(R2, R475, R492). DESIGN CHOICE: notes/assumptions/11.md. -/
def tickBounds (s : State) (tower : Nat) : Nat × Nat :=
  let k := match s.config with | some c => c.bin * (s.towerAt tower).div.toNat | none => 0
  if k = 0 then (0, 2) else (16000 / k, 16000 / k + 1)

/-- The ticks of a cycle, of which `extra` are free between the bounds of the two towers. -/
def ticksIn (s : State) (extra : Nat) : Nat :=
  let a := tickBounds s 0
  let b := tickBounds s 1
  Nat.min (Nat.max a.2 b.2) (Nat.min a.1 b.1 + extra)

/-- Ticks of the counter's reference, with the correction of a locked counter: one tick added, or withheld, in so many (R469). -/
def slewed (d : Nat) (s : State) : Nat × State :=
  let n := s.ftCount + d
  if s.ftRate = 0 ∨ n < s.ftEvery ∨ d = 0 then (d, { s with ftCount := n })
  else ((d + s.ftRate).toNat, { s with ftCount := 0 })

/-- Tower cycles and ticks go on; how many ticks pass in a cycle depends on clocks, and is free (R2, R492).
DESIGN CHOICE: notes/assumptions/11.md. -/
def finishCycle (s : State) : State :=
  let s := (liveCtxs s).foldl (fun s k => countCtx k s) s
  let s := (liveLayers s).foldl (fun s l => tickTransition l s) s
  let a := s.choose
  let b := a.2.choose
  let d := ticksIn b.2 (bnat a.1 + bnat b.1)
  let r := slewed d b.2
  let d := r.1
  let s := r.2
  let s := [0, 1].foldl (fun (s : State) t => s.updTower t (fun t => { t with
    cycle := (t.cycle + 1) % 2 ^ 64, links := t.links.map (fun e => (e.1, tickLink d e.2)) })) s
  { s with tick := s.tick + BitVec.ofNat 64 d, badReads := [], phase := .start }

/-! ### One step of the machine between events -/

/-- The next slot of the open bundle, or the bundle's end. `run` is the meaning of an instruction. -/
def slotStep (run : Instr → State → Res) (s : State) : Res :=
  match s.latch.words[s.latch.slot]? with
  | some w =>
    (match decodeSlot w with
     | .ok i => andThen (run i s) (fun t => .next (afterSlot i t))
     | .error e => .next (badSlot e s))
  | none => .next (endBundle s)

/-- What the machine does in each phase when no event waits. -/
def phaseStep (run : Instr → State → Res) (s : State) : Res :=
  match s.phase with
  | .start => startCycle s
  | .waits => evalWaits s
  | .issue lay => beginIssue lay s
  | .slots => slotStep run s
  | .advance lay => andThen (execStepAdvance lay s) (fun t => .next { t with phase := nextLayer lay })
  | .close => closeCycle s
  | .finish => .next (finishCycle s)

/-- One step: a bundle's slots follow one another; between bundles and phases an event that waits comes first.
DESIGN CHOICE: notes/assumptions/1.md. -/
def nextStep (run : Instr → State → Res) (s : State) : Res :=
  match s.phase, s.agenda with
  | .slots, _ => slotStep run s
  | _, i :: rest => run i { s with agenda := rest }
  | _, [] => phaseStep run s

/-- A latch that holds one word as a bundle at address `pc`. -/
def wordLatch (w : Word) (pc : DWord) (seq : Nat) : Latch :=
  { Latch.empty with
    words := [w], baddr := pc, next := pc + 4, seq := seq,
    bctl := bctlOf (match decodeSlot w with | .ok i => some i | .error _ => none) }

/-- Every granule of a layer. -/
def fullShare : Share :=
  { banks := [0, 1, 2, 3], vregs := [0, 1, 2, 3], planes := [0, 1, 2, 3], acc := [0, 1, 2, 3], lasts := [0, 1, 2, 3],
    awl := [0, 1, 2, 3], eye := BitVec.allOnes 16, edge := true }

/-- The state with one word in the bundle latch of the supervisor of layer 0, in run and issuing (notes/assumptions/10.md). -/
def placeWord (s : State) (w : Word) : State :=
  let s := s.updLayer 0 (fun l => { l with power := .run, frozen := none, cur := some 4 })
  let s := s.updCtx (ctxKey 0 4) (fun c => { c with task := .issuing, state := .resident, share := fullShare })
  { s with lay := 0, ctx := 4, phase := .slots, agenda := [],
           latch := wordLatch w (s.ctxAt (ctxKey 0 4)).pc s.nextId, nextId := s.nextId + 1 }

end Sys2Proof.Machine
end

