-- ==== Sys2Proof/Machine/CapOps.lean ====
section
/-!
DEFINITION. Capability slots (R180 to R185).
-/

namespace Sys2Proof.Machine

/-- CDERIVE: a narrower capability with a new check (R182). -/
def execCderive (d g a : BitVec 7) (s : State) : Res :=
  issue (.cderive d g a) s (fun s =>
    let c := s.me.gReg g.toNat
    let lo := capBase c + (s.me.sReg a.toNat).toNat
    let hi := lo + (s.me.sReg (a.toNat + 1)).toNat
    landG d.toNat 1 (s.sealCap (mkCap (capObj c) (capRights c) lo hi)) s)

/-- CNARROW: rights ANDed with M, new check (R182). -/
def execCnarrow (d : BitVec 7) (hi : Bool) (g : BitVec 4) (m : BitVec 7) (s : State) : Res :=
  issue (.cnarrow d hi g m) s (fun s =>
    let c := s.me.gReg g.toNat
    let mask : BitVec 8 := BitVec.ofBool hi ++ m
    landG d.toNat 1 (s.sealCap (mkCap (capObj c) (capRights c &&& mask) (capBase c) (capLimit c))) s)

/-- CCHECK: never raises a trap (R182). -/
def execCcheck (g : BitVec 4) (k : BitVec 3) (o l : BitVec 7) (s : State) : Res :=
  issue (.ccheck g k o l) s (fun s =>
    let c := s.me.gReg g.toNat
    landK k.toNat 1 (!capNull c && (s.src o).toNat + (s.src l).toNat ≤ capLimit c - capBase c) s)

/-- The byte address of a CST or CLD (R183, R184). -/
def capAddr (s : State) (b o : BitVec 7) : Nat := capBase (s.me.gReg b.toNat) + (s.src o).toNat

/-- CST: the capability enters the welt as an ordered store (R183). -/
def execCst (v b o : BitVec 7) (s : State) : Res :=
  issue (.cst v b o) s (fun s =>
    let c := s.me.gReg v.toNat
    let eff := s.nextId
    let s := welt .cst s
    pushReq { newReq s s.ctx 64 s.me.regionId eff (.cst c) .held (s.me.gReg b.toNat) (capAddr s b o) none
      (c.setWidth 1024) with baddr := s.latch.baddr, slot := s.latch.slot } s)

/-- CLD: adds 1 to the counter and sends its request at t (R184). -/
def execCld (n : BitVec 3) (d : BitVec 4) (b o : BitVec 7) (s : State) : Res :=
  issue (.cld n d b o) s (fun s =>
    let s := ctrAdd n.toNat s
    pushReq { newReq s s.ctx 64 s.me.regionId s.nextId (.cld d.toNat) .port (s.me.gReg b.toNat) (capAddr s b o)
      (some n.toNat) 0 with baddr := s.latch.baddr, slot := s.latch.slot } s)

end Sys2Proof.Machine
end

