-- ==== Sys2Proof/Machine/Scalar.lean ====
section
/-!
DEFINITION. Scalar ALU and scalar immediate slots (R156 to R158): the result lands in an s register at t+1.
-/

namespace Sys2Proof.Machine

/-- land(s[X], 1, f(s[Y], s[Z])) (R156). -/
def scalar2 (d a b : BitVec 7) (f : DWord → DWord → DWord) (s : State) : State :=
  landS d 1 (f (s.src a) (s.src b)) s

/-- land(s[X], 1, f(s[X], imm)) with the 14-bit immediate extended by R147 (R158). -/
def scalarImm (sgn : Bool) (d : BitVec 7) (i : BitVec 14) (f : DWord → DWord → DWord) (s : State) : State :=
  landS d 1 (f (s.me.sReg d.toNat) (if sgn then immS s.latch.limm 14 i.toNat else immU s.latch.limm 14 i.toNat)) s

/-- ADD (R156). -/
def execAdd (d a b : BitVec 7) (s : State) : Res :=
  issue (.add d a b) s (scalar2 d a b (fun x y => x + y))

/-- SUB (R156). -/
def execSub (d a b : BitVec 7) (s : State) : Res :=
  issue (.sub d a b) s (scalar2 d a b (fun x y => x - y))

/-- AND (R156). -/
def execAnd (d a b : BitVec 7) (s : State) : Res :=
  issue (.and d a b) s (scalar2 d a b (fun x y => x &&& y))

/-- OR (R156). -/
def execOr (d a b : BitVec 7) (s : State) : Res :=
  issue (.or d a b) s (scalar2 d a b (fun x y => x ||| y))

/-- XOR (R156). -/
def execXor (d a b : BitVec 7) (s : State) : Res :=
  issue (.xor d a b) s (scalar2 d a b (fun x y => x ^^^ y))

/-- ANDN (R156). -/
def execAndn (d a b : BitVec 7) (s : State) : Res :=
  issue (.andn d a b) s (scalar2 d a b (fun x y => x &&& ~~~ y))

/-- SHL (R156). -/
def execShl (d a b : BitVec 7) (s : State) : Res :=
  issue (.shl d a b) s (scalar2 d a b (fun x y => shlD x y))

/-- SHR (R156). -/
def execShr (d a b : BitVec 7) (s : State) : Res :=
  issue (.shr d a b) s (scalar2 d a b (fun x y => shrD x y))

/-- SAR (R156). -/
def execSar (d a b : BitVec 7) (s : State) : Res :=
  issue (.sar d a b) s (scalar2 d a b (fun x y => sarD x y))

/-- MUL (R156). -/
def execMul (d a b : BitVec 7) (s : State) : Res :=
  issue (.mul d a b) s (scalar2 d a b (fun x y => x * y))

/-- MULH (R156). -/
def execMulh (d a b : BitVec 7) (s : State) : Res :=
  issue (.mulh d a b) s (scalar2 d a b (fun x y => mulHS x y))

/-- MULHU (R156). -/
def execMulhu (d a b : BitVec 7) (s : State) : Res :=
  issue (.mulhu d a b) s (scalar2 d a b (fun x y => mulHU x y))

/-- MIN (R156). -/
def execMin (d a b : BitVec 7) (s : State) : Res :=
  issue (.min d a b) s (scalar2 d a b (fun x y => minS x y))

/-- MAX (R156). -/
def execMax (d a b : BitVec 7) (s : State) : Res :=
  issue (.max d a b) s (scalar2 d a b (fun x y => maxS x y))

/-- MINU (R156). -/
def execMinu (d a b : BitVec 7) (s : State) : Res :=
  issue (.minu d a b) s (scalar2 d a b (fun x y => minU x y))

/-- MAXU (R156). -/
def execMaxu (d a b : BitVec 7) (s : State) : Res :=
  issue (.maxu d a b) s (scalar2 d a b (fun x y => maxU x y))

/-- SEQ (R156). -/
def execSeq (d a b : BitVec 7) (s : State) : Res :=
  issue (.seq d a b) s (scalar2 d a b (fun x y => oneIf (x == y)))

/-- SNE (R156). -/
def execSne (d a b : BitVec 7) (s : State) : Res :=
  issue (.sne d a b) s (scalar2 d a b (fun x y => oneIf (x != y)))

/-- SLT (R156). -/
def execSlt (d a b : BitVec 7) (s : State) : Res :=
  issue (.slt d a b) s (scalar2 d a b (fun x y => oneIf (x.slt y)))

/-- SLTU (R156). -/
def execSltu (d a b : BitVec 7) (s : State) : Res :=
  issue (.sltu d a b) s (scalar2 d a b (fun x y => oneIf (x.ult y)))

/-- DIV (R156). -/
def execDiv (d a b : BitVec 7) (s : State) : Res :=
  issue (.div d a b) s (scalar2 d a b (fun x y => divS x y))

/-- DIVU (R156). -/
def execDivu (d a b : BitVec 7) (s : State) : Res :=
  issue (.divu d a b) s (scalar2 d a b (fun x y => divU x y))

/-- REM (R156). -/
def execRem (d a b : BitVec 7) (s : State) : Res :=
  issue (.rem d a b) s (scalar2 d a b (fun x y => remS x y))

/-- REMU (R156). -/
def execRemu (d a b : BitVec 7) (s : State) : Res :=
  issue (.remu d a b) s (scalar2 d a b (fun x y => remU x y))

/-- ADDI (R158). -/
def execAddi (d : BitVec 7) (i : BitVec 14) (s : State) : Res :=
  issue (.addi d i) s (scalarImm true d i (fun x y => x + y))

/-- ANDI (R158). -/
def execAndi (d : BitVec 7) (i : BitVec 14) (s : State) : Res :=
  issue (.andi d i) s (scalarImm false d i (fun x y => x &&& y))

/-- ORI (R158). -/
def execOri (d : BitVec 7) (i : BitVec 14) (s : State) : Res :=
  issue (.ori d i) s (scalarImm false d i (fun x y => x ||| y))

/-- XORI (R158). -/
def execXori (d : BitVec 7) (i : BitVec 14) (s : State) : Res :=
  issue (.xori d i) s (scalarImm false d i (fun x y => x ^^^ y))

/-- SHLI (R158). -/
def execShli (d : BitVec 7) (i : BitVec 14) (s : State) : Res :=
  issue (.shli d i) s (scalarImm false d i (fun x y => shlD x y))

/-- SHRI (R158). -/
def execShri (d : BitVec 7) (i : BitVec 14) (s : State) : Res :=
  issue (.shri d i) s (scalarImm false d i (fun x y => shrD x y))

/-- SARI (R158). -/
def execSari (d : BitVec 7) (i : BitVec 14) (s : State) : Res :=
  issue (.sari d i) s (scalarImm false d i (fun x y => sarD x y))

/-- MULI (R158). -/
def execMuli (d : BitVec 7) (i : BitVec 14) (s : State) : Res :=
  issue (.muli d i) s (scalarImm true d i (fun x y => x * y))

/-- MINI (R158). -/
def execMini (d : BitVec 7) (i : BitVec 14) (s : State) : Res :=
  issue (.mini d i) s (scalarImm true d i (fun x y => minS x y))

/-- MAXI (R158). -/
def execMaxi (d : BitVec 7) (i : BitVec 14) (s : State) : Res :=
  issue (.maxi d i) s (scalarImm true d i (fun x y => maxS x y))

/-- SLTI (R158). -/
def execSlti (d : BitVec 7) (i : BitVec 14) (s : State) : Res :=
  issue (.slti d i) s (scalarImm true d i (fun x y => oneIf (x.slt y)))

/-- SEQI (R158). -/
def execSeqi (d : BitVec 7) (i : BitVec 14) (s : State) : Res :=
  issue (.seqi d i) s (scalarImm true d i (fun x y => oneIf (x == y)))

/-- LI (R158). -/
def execLi (d : BitVec 7) (i : BitVec 14) (s : State) : Res :=
  issue (.li d i) s (scalarImm true d i (fun _ y => y))

end Sys2Proof.Machine
end

