-- ==== Sys2Proof/Machine/SeqMem.lean ====
section
/-!
DEFINITION. Sequencer data memory (R159, R160).
-/

namespace Sys2Proof.Machine

/-- The value a load reads at its issue step (R117, R160). -/
def smemRead (s : State) (a b : BitVec 7) (size : Nat) : Nat :=
  s.layer.dmemLe (dmemBase s.ctx + (smemAddr s a b).toNat) size

/-- A store lands at t+1, after any load of that step (R117). -/
def smemStore (x a b : BitVec 7) (size : Nat) (s : State) : State :=
  land (.dmem (dmemBase s.ctx + (smemAddr s a b).toNat) size) 1 (onesMask (8 * size))
    ((s.me.sReg x.toNat).setWidth 32768) s

/-- LDD (R160). -/
def execLdd (d a b : BitVec 7) (s : State) : Res :=
  issue (.ldd d a b) s (fun s => landS d 3 (BitVec.ofNat 64 (smemRead s a b 8)) s)

/-- LDW: the word is sign-extended (R160). -/
def execLdw (d a b : BitVec 7) (s : State) : Res :=
  issue (.ldw d a b) s (fun s => landS d 3 (sextNat 32 (smemRead s a b 4)) s)

/-- LDWU: the word is zero-extended (R160). -/
def execLdwu (d a b : BitVec 7) (s : State) : Res :=
  issue (.ldwu d a b) s (fun s => landS d 3 (BitVec.ofNat 64 (smemRead s a b 4)) s)

/-- STD (R160). -/
def execStd (d a b : BitVec 7) (s : State) : Res := issue (.std d a b) s (smemStore d a b 8)

/-- STW (R160). -/
def execStw (d a b : BitVec 7) (s : State) : Res := issue (.stw d a b) s (smemStore d a b 4)

end Sys2Proof.Machine
end

