-- ==== Sys2Proof/Machine/Dispatch.lean ====
section
/-!
DEFINITION. The meaning of every instruction and event: one arm per constructor.
-/

namespace Sys2Proof.Machine

def exec (i : Instr) (s : State) : Host.Outcome State Fault Refusal :=
  match i with
  | .nop => Sys2Proof.Machine.execNop s
  | .tlaunch g q => Sys2Proof.Machine.execTlaunch g q s
  | .texit a => Sys2Proof.Machine.execTexit a s
  | .yield => Sys2Proof.Machine.execYield s
  | .trap code => Sys2Proof.Machine.execTrap code s
  | .eret a => Sys2Proof.Machine.execEret a s
  | .eretKill a => Sys2Proof.Machine.execEretKill a s
  | .mfsr d r => Sys2Proof.Machine.execMfsr d r s
  | .mtsr a r => Sys2Proof.Machine.execMtsr a r s
  | .lsleepDoze n a => Sys2Proof.Machine.execLsleepDoze n a s
  | .lsleepOff n a => Sys2Proof.Machine.execLsleepOff n a s
  | .lwake n a => Sys2Proof.Machine.execLwake n a s
  | .lstld n g a b => Sys2Proof.Machine.execLstld n g a b s
  | .mpsld n g a b => Sys2Proof.Machine.execMpsld n g a b s
  | .bctl ginv gen gp gap is fw iw sway sealed => Sys2Proof.Machine.execBctl ginv gen gp gap is fw iw sway sealed s
  | .add d a b => Sys2Proof.Machine.execAdd d a b s
  | .sub d a b => Sys2Proof.Machine.execSub d a b s
  | .and d a b => Sys2Proof.Machine.execAnd d a b s
  | .or d a b => Sys2Proof.Machine.execOr d a b s
  | .xor d a b => Sys2Proof.Machine.execXor d a b s
  | .andn d a b => Sys2Proof.Machine.execAndn d a b s
  | .shl d a b => Sys2Proof.Machine.execShl d a b s
  | .shr d a b => Sys2Proof.Machine.execShr d a b s
  | .sar d a b => Sys2Proof.Machine.execSar d a b s
  | .mul d a b => Sys2Proof.Machine.execMul d a b s
  | .mulh d a b => Sys2Proof.Machine.execMulh d a b s
  | .mulhu d a b => Sys2Proof.Machine.execMulhu d a b s
  | .min d a b => Sys2Proof.Machine.execMin d a b s
  | .max d a b => Sys2Proof.Machine.execMax d a b s
  | .minu d a b => Sys2Proof.Machine.execMinu d a b s
  | .maxu d a b => Sys2Proof.Machine.execMaxu d a b s
  | .seq d a b => Sys2Proof.Machine.execSeq d a b s
  | .sne d a b => Sys2Proof.Machine.execSne d a b s
  | .slt d a b => Sys2Proof.Machine.execSlt d a b s
  | .sltu d a b => Sys2Proof.Machine.execSltu d a b s
  | .div d a b => Sys2Proof.Machine.execDiv d a b s
  | .divu d a b => Sys2Proof.Machine.execDivu d a b s
  | .rem d a b => Sys2Proof.Machine.execRem d a b s
  | .remu d a b => Sys2Proof.Machine.execRemu d a b s
  | .addi d imm => Sys2Proof.Machine.execAddi d imm s
  | .andi d imm => Sys2Proof.Machine.execAndi d imm s
  | .ori d imm => Sys2Proof.Machine.execOri d imm s
  | .xori d imm => Sys2Proof.Machine.execXori d imm s
  | .shli d imm => Sys2Proof.Machine.execShli d imm s
  | .shri d imm => Sys2Proof.Machine.execShri d imm s
  | .sari d imm => Sys2Proof.Machine.execSari d imm s
  | .muli d imm => Sys2Proof.Machine.execMuli d imm s
  | .mini d imm => Sys2Proof.Machine.execMini d imm s
  | .maxi d imm => Sys2Proof.Machine.execMaxi d imm s
  | .slti d imm => Sys2Proof.Machine.execSlti d imm s
  | .seqi d imm => Sys2Proof.Machine.execSeqi d imm s
  | .li d imm => Sys2Proof.Machine.execLi d imm s
  | .ldd d a b => Sys2Proof.Machine.execLdd d a b s
  | .ldw d a b => Sys2Proof.Machine.execLdw d a b s
  | .ldwu d a b => Sys2Proof.Machine.execLdwu d a b s
  | .std d a b => Sys2Proof.Machine.execStd d a b s
  | .stw d a b => Sys2Proof.Machine.execStw d a b s
  | .bprepRelative b imm => Sys2Proof.Machine.execBprepRelative b imm s
  | .bprepRegister b a => Sys2Proof.Machine.execBprepRegister b a s
  | .bcmp c k a b => Sys2Proof.Machine.execBcmp c k a b s
  | .bcmpi c k a imm => Sys2Proof.Machine.execBcmpi c k a imm s
  | .bxfer b alw neg k => Sys2Proof.Machine.execBxfer b alw neg k s
  | .call d b => Sys2Proof.Machine.execCall d b s
  | .ret a => Sys2Proof.Machine.execRet a s
  | .loopTable lv off => Sys2Proof.Machine.execLoopTable lv off s
  | .loopRegister lv sc off => Sys2Proof.Machine.execLoopRegister lv sc off s
  | .bpois b neg => Sys2Proof.Machine.execBpois b neg s
  | .vany k p => Sys2Proof.Machine.execVany k p s
  | .vall k p => Sys2Proof.Machine.execVall k p s
  | .vcount d p => Sys2Proof.Machine.execVcount d p s
  | .pvote k => Sys2Proof.Machine.execPvote k s
  | .pvoteClr k => Sys2Proof.Machine.execPvoteClr k s
  | .fladd scope g a b => Sys2Proof.Machine.execFladd scope g a b s
  | .flset scope g a b => Sys2Proof.Machine.execFlset scope g a b s
  | .flwait cond g a b => Sys2Proof.Machine.execFlwait cond g a b s
  | .cwait n thr => Sys2Proof.Machine.execCwait n thr s
  | .fence scope acq rel => Sys2Proof.Machine.execFence scope acq rel s
  | .epush e a => Sys2Proof.Machine.execEpush e a s
  | .epop d e => Sys2Proof.Machine.execEpop d e s
  | .send bulk gd gs a => Sys2Proof.Machine.execSend bulk gd gs a s
  | .realign n a => Sys2Proof.Machine.execRealign n a s
  | .cderive d g a => Sys2Proof.Machine.execCderive d g a s
  | .cnarrow d hi g m => Sys2Proof.Machine.execCnarrow d hi g m s
  | .cst v b o => Sys2Proof.Machine.execCst v b o s
  | .cld n d b o => Sys2Proof.Machine.execCld n d b o s
  | .ccheck g k o l => Sys2Proof.Machine.execCcheck g k o l s
  | .xadd d a b => Sys2Proof.Machine.execXadd d a b s
  | .xsub d a b => Sys2Proof.Machine.execXsub d a b s
  | .xmul d a b => Sys2Proof.Machine.execXmul d a b s
  | .xand d a b => Sys2Proof.Machine.execXand d a b s
  | .xior d a b => Sys2Proof.Machine.execXior d a b s
  | .xeor d a b => Sys2Proof.Machine.execXeor d a b s
  | .xshl d a b => Sys2Proof.Machine.execXshl d a b s
  | .xshr d a b => Sys2Proof.Machine.execXshr d a b s
  | .xsar d a b => Sys2Proof.Machine.execXsar d a b s
  | .xmin d a b => Sys2Proof.Machine.execXmin d a b s
  | .xmax d a b => Sys2Proof.Machine.execXmax d a b s
  | .xaddi d imm => Sys2Proof.Machine.execXaddi d imm s
  | .xli d imm => Sys2Proof.Machine.execXli d imm s
  | .vld d le em xa => Sys2Proof.Machine.execVld d le em xa s
  | .vldStraight d em xa => Sys2Proof.Machine.execVldStraight d em xa s
  | .vldDec d xa => Sys2Proof.Machine.execVldDec d xa s
  | .vst d le em xa => Sys2Proof.Machine.execVst d le em xa s
  | .vstStraight d em xa => Sys2Proof.Machine.execVstStraight d em xa s
  | .vstEnc d xa => Sys2Proof.Machine.execVstEnc d xa s
  | .vldx d xe em xa => Sys2Proof.Machine.execVldx d xe em xa s
  | .vstx d xe em xa => Sys2Proof.Machine.execVstx d xe em xa s
  | .bcopy rstr rle wstr wle xd xs => Sys2Proof.Machine.execBcopy rstr rle wstr wle xd xs s
  | .vperm d a le => Sys2Proof.Machine.execVperm d a le s
  | .llast le n => Sys2Proof.Machine.execLlast le n s
  | .esend dm a lg => Sys2Proof.Machine.execEsend dm a lg s
  | .erecv d dir lg => Sys2Proof.Machine.execErecv d dir lg s
  | .halo dm xa => Sys2Proof.Machine.execHalo dm xa s
  | .vadd d a b => Sys2Proof.Machine.execVadd d a b s
  | .vsub d a b => Sys2Proof.Machine.execVsub d a b s
  | .vadds d a b => Sys2Proof.Machine.execVadds d a b s
  | .vsubs d a b => Sys2Proof.Machine.execVsubs d a b s
  | .vmul d a b => Sys2Proof.Machine.execVmul d a b s
  | .vmulh d a b => Sys2Proof.Machine.execVmulh d a b s
  | .vmin d a b => Sys2Proof.Machine.execVmin d a b s
  | .vmax d a b => Sys2Proof.Machine.execVmax d a b s
  | .vand d a b => Sys2Proof.Machine.execVand d a b s
  | .vior d a b => Sys2Proof.Machine.execVior d a b s
  | .veor d a b => Sys2Proof.Machine.execVeor d a b s
  | .vshl d a b => Sys2Proof.Machine.execVshl d a b s
  | .vshr d a b => Sys2Proof.Machine.execVshr d a b s
  | .vabs d a => Sys2Proof.Machine.execVabs d a s
  | .vcmpeq d a b => Sys2Proof.Machine.execVcmpeq d a b s
  | .vcmplt d a b => Sys2Proof.Machine.execVcmplt d a b s
  | .vsel d p a => Sys2Proof.Machine.execVsel d p a s
  | .vrng d g c => Sys2Proof.Machine.execVrng d g c s
  | .vfadd d a b => Sys2Proof.Machine.execVfadd d a b s
  | .vfsub d a b => Sys2Proof.Machine.execVfsub d a b s
  | .vfmul d a b => Sys2Proof.Machine.execVfmul d a b s
  | .vfma d a b => Sys2Proof.Machine.execVfma d a b s
  | .vfnma d a b => Sys2Proof.Machine.execVfnma d a b s
  | .vfmin d a b => Sys2Proof.Machine.execVfmin d a b s
  | .vfmax d a b => Sys2Proof.Machine.execVfmax d a b s
  | .vfabs d a => Sys2Proof.Machine.execVfabs d a s
  | .vfneg d a => Sys2Proof.Machine.execVfneg d a s
  | .vfcmpeq d a b => Sys2Proof.Machine.execVfcmpeq d a b s
  | .vfcmplt d a b => Sys2Proof.Machine.execVfcmplt d a b s
  | .vfcmple d a b => Sys2Proof.Machine.execVfcmple d a b s
  | .vfrcp d a => Sys2Proof.Machine.execVfrcp d a s
  | .vfrsq d a => Sys2Proof.Machine.execVfrsq d a s
  | .vfexp2 d a => Sys2Proof.Machine.execVfexp2 d a s
  | .vflog2 d a => Sys2Proof.Machine.execVflog2 d a s
  | .vfsqrt d a => Sys2Proof.Machine.execVfsqrt d a s
  | .vcvt f d a rm c => Sys2Proof.Machine.execVcvt f d a rm c s
  | .vcvts f d a rm c => Sys2Proof.Machine.execVcvts f d a rm c s
  | .vquant d a rm n => Sys2Proof.Machine.execVquant d a rm n s
  | .vdeq d a rm n => Sys2Proof.Machine.execVdeq d a rm n s
  | .pand d a b => Sys2Proof.Machine.execPand d a b s
  | .pior d a b => Sys2Proof.Machine.execPior d a b s
  | .peor d a b => Sys2Proof.Machine.execPeor d a b s
  | .pandn d a b => Sys2Proof.Machine.execPandn d a b s
  | .pnot d a => Sys2Proof.Machine.execPnot d a s
  | .pall d => Sys2Proof.Machine.execPall d s
  | .pnone d => Sys2Proof.Machine.execPnone d s
  | .scan d a lr op ty => Sys2Proof.Machine.execScan d a lr op ty s
  | .segscan d a hp op ty => Sys2Proof.Machine.execSegscan d a hp op ty s
  | .reduce d a lr op ty => Sys2Proof.Machine.execReduce d a lr op ty s
  | .topk d a xk dir ty => Sys2Proof.Machine.execTopk d a xk dir ty s
  | .sort d a g dir ty => Sys2Proof.Machine.execSort d a g dir ty s
  | .compact d a xc => Sys2Proof.Machine.execCompact d a xc s
  | .hist d a acc => Sys2Proof.Machine.execHist d a acc s
  | .awlGather le a pen pp => Sys2Proof.Machine.execAwlGather le a pen pp s
  | .awlScatter le a pen pp => Sys2Proof.Machine.execAwlScatter le a pen pp s
  | .mpar m a => Sys2Proof.Machine.execMpar m a s
  | .mcall r bc => Sys2Proof.Machine.execMcall r bc s
  | .mldw pl fmt str le xa => Sys2Proof.Machine.execMldw pl fmt str le xa s
  | .mldwScl pl str le xa => Sys2Proof.Machine.execMldwScl pl str le xa s
  | .msel pl => Sys2Proof.Machine.execMsel pl s
  | .amov d t xen xt => Sys2Proof.Machine.execAmov d t xen xt s
  | .amovClr d t xen xt => Sys2Proof.Machine.execAmovClr d t xen xt s
  | .amovTo d t xen xt => Sys2Proof.Machine.execAmovTo d t xen xt s
  | .aclr t cnt => Sys2Proof.Machine.execAclr t cnt s
  | .atopk wstr le t xk xd => Sys2Proof.Machine.execAtopk wstr le t xk xd s
  | .tld g xa xm ln lat => Sys2Proof.Machine.execTld g xa xm ln lat s
  | .tst g xa xm ln => Sys2Proof.Machine.execTst g xa xm ln s
  | .ald g xa xm ln n => Sys2Proof.Machine.execAld g xa xm ln n s
  | .ast g xa xm ln n => Sys2Proof.Machine.execAst g xa xm ln n s
  | .ntst g xa xm ln => Sys2Proof.Machine.execNtst g xa xm ln s
  | .drain n => Sys2Proof.Machine.execDrain n s
  | .amo g xm d op ty n => Sys2Proof.Machine.execAmo g xm d op ty n s
  | .cas g xm d n => Sys2Proof.Machine.execCas g xm d n s
  | .red g xm d op ty => Sys2Proof.Machine.execRed g xm d op ty s
  | .sbst v lg cnt xo => Sys2Proof.Machine.execSbst v lg cnt xo s
  | .sbld v lg cnt xo => Sys2Proof.Machine.execSbld v lg cnt xo s
  | .limm imm => Sys2Proof.Machine.execLimm imm s
  | .endm => Sys2Proof.Machine.execEndm s
  | .rowin => Sys2Proof.Machine.execRowin s
  | .step => Sys2Proof.Machine.execStep s
  | .accum lag => Sys2Proof.Machine.execAccum lag s
  | .plane p => Sys2Proof.Machine.execPlane p s
  | .loopm len csrc n => Sys2Proof.Machine.execLoopm len csrc n s
  | .waitin n => Sys2Proof.Machine.execWaitin n s
  | .rstc => Sys2Proof.Machine.execRstc s
  | .abas d => Sys2Proof.Machine.execAbas d s
  | .tadd d => Sys2Proof.Machine.execTadd d s
  | .flrstWrite lay idx => Sys2Proof.Machine.execFlrstWrite lay idx s
  | .preqSave lay ctx gsel => Sys2Proof.Machine.execPreqSave lay ctx gsel s
  | .preqKill lay ctx => Sys2Proof.Machine.execPreqKill lay ctx s
  | .hostPreemptRecord lay ctx kill area => Sys2Proof.Machine.execHostPreemptRecord lay ctx kill area s
  | .tinvAll => Sys2Proof.Machine.execTinvAll s
  | .tinvObject obj => Sys2Proof.Machine.execTinvObject obj s
  | .tinvPage obj vpn => Sys2Proof.Machine.execTinvPage obj vpn s
  | .fservWrite lay fid => Sys2Proof.Machine.execFservWrite lay fid s
  | .plctlArm nent nbase logp => Sys2Proof.Machine.execPlctlArm nent nbase logp s
  | .lstatClear tower link asym => Sys2Proof.Machine.execLstatClear tower link asym s
  | .sotWrite tower n owners => Sys2Proof.Machine.execSotWrite tower n owners s
  | .regionCommit lay ctx => Sys2Proof.Machine.execRegionCommit lay ctx s
  | .freezeSwitch lay => Sys2Proof.Machine.execFreezeSwitch lay s
  | .waitSatisfied lay ctx => Sys2Proof.Machine.execWaitSatisfied lay ctx s
  | .resumeHoldEnd lay ctx => Sys2Proof.Machine.execResumeHoldEnd lay ctx s
  | .watchdog lay ctx => Sys2Proof.Machine.execWatchdog lay ctx s
  | .priorityAgeing lay ctx => Sys2Proof.Machine.execPriorityAgeing lay ctx s
  | .starvationSwitch lay ctx => Sys2Proof.Machine.execStarvationSwitch lay ctx s
  | .waitPass lay => Sys2Proof.Machine.execWaitPass lay s
  | .laggingHit lay => Sys2Proof.Machine.execLaggingHit lay s
  | .late lay row => Sys2Proof.Machine.execLate lay row s
  | .timedLanding lay cell row => Sys2Proof.Machine.execTimedLanding lay cell row s
  | .copyRowArrival req => Sys2Proof.Machine.execCopyRowArrival req s
  | .cldDataArrival req => Sys2Proof.Machine.execCldDataArrival req s
  | .atomicReply req => Sys2Proof.Machine.execAtomicReply req s
  | .loadPerform req => Sys2Proof.Machine.execLoadPerform req s
  | .storePerform req => Sys2Proof.Machine.execStorePerform req s
  | .atomicPerform req => Sys2Proof.Machine.execAtomicPerform req s
  | .releaseWaitEnd eff => Sys2Proof.Machine.execReleaseWaitEnd eff s
  | .flagUpdateApply lay arrives => Sys2Proof.Machine.execFlagUpdateApply lay arrives s
  | .stackBusSlot tower => Sys2Proof.Machine.execStackBusSlot tower s
  | .stackBeatApply tower badCols badFlags => Sys2Proof.Machine.execStackBeatApply tower badCols badFlags s
  | .epushDeferred lay ctx => Sys2Proof.Machine.execEpushDeferred lay ctx s
  | .eyeletWordSend lay e => Sys2Proof.Machine.execEyeletWordSend lay e s
  | .eyeletWordArrival lay e w => Sys2Proof.Machine.execEyeletWordArrival lay e w s
  | .eyeletCredit lay e => Sys2Proof.Machine.execEyeletCredit lay e s
  | .tlaunchDeferredAppend lay ctx => Sys2Proof.Machine.execTlaunchDeferredAppend lay ctx s
  | .sendReady eff => Sys2Proof.Machine.execSendReady eff s
  | .sendDepart eff => Sys2Proof.Machine.execSendDepart eff s
  | .flitArrival tower link arrives => Sys2Proof.Machine.execFlitArrival tower link arrives s
  | .shortNetworkSlot tower port => Sys2Proof.Machine.execShortNetworkSlot tower port s
  | .flitReplay tower link q => Sys2Proof.Machine.execFlitReplay tower link q s
  | .flitAck tower link q => Sys2Proof.Machine.execFlitAck tower link q s
  | .keyInstall tower link key => Sys2Proof.Machine.execKeyInstall tower link key s
  | .keyRolloverComplete tower link => Sys2Proof.Machine.execKeyRolloverComplete tower link s
  | .keyPhaseExhausted tower link => Sys2Proof.Machine.execKeyPhaseExhausted tower link s
  | .laneFailure tower link lane => Sys2Proof.Machine.execLaneFailure tower link lane s
  | .linkEnable tower link => Sys2Proof.Machine.execLinkEnable tower link s
  | .lanesLock tower link lanes => Sys2Proof.Machine.execLanesLock tower link lanes s
  | .trainTimeout tower link => Sys2Proof.Machine.execTrainTimeout tower link s
  | .identify tower link dom pkg count proof => Sys2Proof.Machine.execIdentify tower link dom pkg count proof s
  | .quarantineRelease tower link => Sys2Proof.Machine.execQuarantineRelease tower link s
  | .linkDisable tower link => Sys2Proof.Machine.execLinkDisable tower link s
  | .timestampExchangeDone tower link t1 t2 t3 t4 => Sys2Proof.Machine.execTimestampExchangeDone tower link t1 t2 t3 t4 s
  | .staleTimeout tower link => Sys2Proof.Machine.execStaleTimeout tower link s
  | .planSwitch => Sys2Proof.Machine.execPlanSwitch s
  | .slotTableLoad tower port slot owner => Sys2Proof.Machine.execSlotTableLoad tower port slot owner s
  | .launchFrame header record => Sys2Proof.Machine.execLaunchFrame header record s
  | .restoreFrame header record save => Sys2Proof.Machine.execRestoreFrame header record save s
  | .statusRingFree n => Sys2Proof.Machine.execStatusRingFree n s
  | .schedulerSelect tower => Sys2Proof.Machine.execSchedulerSelect tower s
  | .headAgeing tower queue => Sys2Proof.Machine.execHeadAgeing tower queue s
  | .placementComplete lay ctx => Sys2Proof.Machine.execPlacementComplete lay ctx s
  | .gangReady gid gmi gcnt from_ => Sys2Proof.Machine.execGangReady gid gmi gcnt from_ s
  | .gangStart tower gid tick => Sys2Proof.Machine.execGangStart tower gid tick s
  | .gangStartTick lay ctx => Sys2Proof.Machine.execGangStartTick lay ctx s
  | .gangTimeout gid => Sys2Proof.Machine.execGangTimeout gid s
  | .gangAbort tower gid => Sys2Proof.Machine.execGangAbort tower gid s
  | .gangFail gid => Sys2Proof.Machine.execGangFail gid s
  | .taskRetire lay ctx => Sys2Proof.Machine.execTaskRetire lay ctx s
  | .trapRecordWrite lay ctx => Sys2Proof.Machine.execTrapRecordWrite lay ctx s
  | .heldTrapEffect lay ctx => Sys2Proof.Machine.execHeldTrapEffect lay ctx s
  | .preemptEffect lay ctx => Sys2Proof.Machine.execPreemptEffect lay ctx s
  | .saveRecordWrite lay ctx => Sys2Proof.Machine.execSaveRecordWrite lay ctx s
  | .taggedItemComplete req => Sys2Proof.Machine.execTaggedItemComplete req s
  | .killRelease lay ctx => Sys2Proof.Machine.execKillRelease lay ctx s
  | .hostTrapResume lay ctx => Sys2Proof.Machine.execHostTrapResume lay ctx s
  | .hostTrapKill lay ctx => Sys2Proof.Machine.execHostTrapKill lay ctx s
  | .hostWalkReply req entry level => Sys2Proof.Machine.execHostWalkReply req entry level s
  | .hostFaultServiced lay fid => Sys2Proof.Machine.execHostFaultServiced lay fid s
  | .hostServoReply correction => Sys2Proof.Machine.execHostServoReply correction s
  | .hostPlaceReply tower assign => Sys2Proof.Machine.execHostPlaceReply tower assign s
  | .hostSpareReply tower logical => Sys2Proof.Machine.execHostSpareReply tower logical s
  | .translationWalk req => Sys2Proof.Machine.execTranslationWalk req s
  | .remoteRequest obj off asid ask tag => Sys2Proof.Machine.execRemoteRequest obj off asid ask tag s
  | .tinvComplete => Sys2Proof.Machine.execTinvComplete s
  | .lastStoreLoadComplete eff => Sys2Proof.Machine.execLastStoreLoadComplete eff s
  | .layerTransitionStart lay => Sys2Proof.Machine.execLayerTransitionStart lay s
  | .layerTransitionDone lay => Sys2Proof.Machine.execLayerTransitionDone lay s
  | .keeperCopyDone lay => Sys2Proof.Machine.execKeeperCopyDone lay s
  | .powerCheck watts => Sys2Proof.Machine.execPowerCheck watts s
  | .junctionHot tower tj => Sys2Proof.Machine.execJunctionHot tower tj s
  | .junctionCooled tower tj => Sys2Proof.Machine.execJunctionCooled tower tj s
  | .junctionCritical tower tj => Sys2Proof.Machine.execJunctionCritical tower tj s
  | .divChange tower => Sys2Proof.Machine.execDivChange tower s
  | .softError code tower phys cell ctx loc uncorrectable => Sys2Proof.Machine.execSoftError code tower phys cell ctx loc uncorrectable s
  | .networkRetry lay cell ctx again => Sys2Proof.Machine.execNetworkRetry lay cell ctx again s
  | .columnRetryExcess tower col => Sys2Proof.Machine.execColumnRetryExcess tower col s
  | .layerFailure tower phys => Sys2Proof.Machine.execLayerFailure tower phys s
  | .telemetryReadClear tower => Sys2Proof.Machine.execTelemetryReadClear tower s
  | .powerOnReset program trains => Sys2Proof.Machine.execPowerOnReset program trains s
  | .kcapInstall key => Sys2Proof.Machine.execKcapInstall key s
  | .supervisorInstall image => Sys2Proof.Machine.execSupervisorInstall image s
  | .attestationRequest nonce => Sys2Proof.Machine.execAttestationRequest nonce s
  | .stavouxLinkFailure => Sys2Proof.Machine.execStavouxLinkFailure s
  | .stavouxLinkRetrain => Sys2Proof.Machine.execStavouxLinkRetrain s
  | .stepAdvance lay => Sys2Proof.Machine.execStepAdvance lay s

end Sys2Proof.Machine
end

