-- ==== Sys2Proof/Machine/Step.lean ====
section
/-!
DEFINITION. One step of the machine, and a state whose next step runs one given word.
-/

namespace Sys2Proof.Machine

/-- One step: the next slot of the open bundle, the event that waits, or the package's own next phase. -/
def step (s : State) : Host.Outcome State Fault Refusal := nextStep exec s

/-- `s` with one slot word in the bundle latch, from which the next step takes its instruction. -/
def State.withFetchWord (s : State) (nbits w : Nat) : State := placeWord s (BitVec.ofNat 32 (w % 2 ^ nbits))

end Sys2Proof.Machine
end

