-- ==== Sys2Proof/Safety.lean ====
section
/-!
DEFINITION. What counts as a safe run: the invariant every state of it keeps, and the states it reaches.
-/

namespace Sys2Proof

open Sys2Proof.Machine

/-- Memory is in its canonical form: addresses strictly rising, no entry equal to what an unlisted address reads as. -/
def MemInv (s : State) : Prop := Memory.wf s.mem = true

/-- Some run of steps leads from `s` to `t`. -/
inductive Reaches (s : State) : State → Prop where
  | here : Reaches s s
  | step {t u : State} : Reaches s t → step t = Host.Outcome.next u → Reaches s u

/-- A safe run from `s`: no step of it stops, and memory stays canonical. -/
def SafeFrom (s : State) : Prop := ∀ t, Reaches s t → MemInv t ∧ ∃ u, step t = Host.Outcome.next u

end Sys2Proof
end

