-- ==== Sys2Proof/Certificates/Slice0/Obligations.lean ====
section
/-!
DEFINITION. The statements for the provers, and the words they are written in.

A slot "completes" where `Clear` holds: no check of R138 or R155 fails for it and no hold of R358 delays it. What a slot
does when a check fails or a hold applies is stated once, for every slot, in `FaultingSlotTrapsHeldSlotWaits`.
-/

namespace Sys2Proof.Claims

open Sys2Proof.Machine

/-! ### Words for slots -/

/-- No check of the slot fails (R138, R155) and no hold delays it (R358). -/
def Clear (i : Instr) (s : State) : Prop := slotFault i s = none ∧ slotHold i s = false

/-- Wherever it is clear, the slot completes with `f`. -/
def Issues (i : Instr) (f : State → State) : Prop := ∀ s, Clear i s → exec i s = .next (f s)

/-- The state after the sequencer's part of a cell slot: it has joined its bundle, and `pre` (given its number) has run. -/
def joined (i : Instr) (pre : Nat → State → State) (s : State) : State := pre s.nextId (joinBundle i s)

/-- The slot in execution at cell (0,0), whose skew is 0. -/
def originRun (i : Instr) (pre : Nat → State → State) (s : State) : Run :=
  { f := (joined i pre s).flightNow, cell := 0, slot := slotOf i s }

/-- A cell slot: in every cell, where `ok` holds, its effect is `f`; wherever it is clear the slot completes, with the
sequencer's part `pre` and, if cell (0,0) is enabled, with `f` there. -/
def CellDoes (i : Instr) (pre : Nat → State → State) (ok : Run → State → Prop) (f : Run → State → State) : Prop :=
  (∀ r t, ok r t → cellExec i r t = f r t) ∧
  ∀ s, Clear i s → (cellOn s.me.cmask 0 = true → ok (originRun i pre s) (joined i pre s)) →
    exec i s = .next (if cellOn s.me.cmask 0 = true then f (originRun i pre s) (joined i pre s) else joined i pre s)

/-- No sequencer part of its own. -/
def noPre : Nat → State → State := fun _ s => s

/-- A cell slot that no operand can stop. -/
def CellIssues (i : Instr) (f : Run → State → State) : Prop := CellDoes i noPre (fun _ _ => True) f

/-! ### Tables of the arithmetic slots: destination, sources, and the result the manual gives -/

/-- The scalar ALU (R156, R157, R83). -/
def scalarOf : Instr → Option (BitVec 7 × BitVec 7 × BitVec 7 × (DWord → DWord → DWord))
  | .add d a b => some (d, a, b, fun x y => x + y)
  | .sub d a b => some (d, a, b, fun x y => x - y)
  | .and d a b => some (d, a, b, fun x y => x &&& y)
  | .or d a b => some (d, a, b, fun x y => x ||| y)
  | .xor d a b => some (d, a, b, fun x y => x ^^^ y)
  | .andn d a b => some (d, a, b, fun x y => x &&& ~~~ y)
  | .shl d a b => some (d, a, b, fun x y => x <<< (y.toNat % 64))
  | .shr d a b => some (d, a, b, fun x y => x >>> (y.toNat % 64))
  | .sar d a b => some (d, a, b, fun x y => x.sshiftRight (y.toNat % 64))
  | .mul d a b => some (d, a, b, fun x y => x * y)
  | .mulh d a b => some (d, a, b, fun x y => BitVec.ofInt 64 (x.toInt * y.toInt / 2 ^ 64))
  | .mulhu d a b => some (d, a, b, fun x y => BitVec.ofNat 64 (x.toNat * y.toNat / 2 ^ 64))
  | .min d a b => some (d, a, b, fun x y => if y.toInt < x.toInt then y else x)
  | .max d a b => some (d, a, b, fun x y => if x.toInt < y.toInt then y else x)
  | .minu d a b => some (d, a, b, fun x y => if y.toNat < x.toNat then y else x)
  | .maxu d a b => some (d, a, b, fun x y => if x.toNat < y.toNat then y else x)
  | .seq d a b => some (d, a, b, fun x y => if x = y then 1 else 0)
  | .sne d a b => some (d, a, b, fun x y => if x = y then 0 else 1)
  | .slt d a b => some (d, a, b, fun x y => if x.toInt < y.toInt then 1 else 0)
  | .sltu d a b => some (d, a, b, fun x y => if x.toNat < y.toNat then 1 else 0)
  | .div d a b => some (d, a, b, fun x y => if y = 0 then BitVec.allOnes 64 else x.sdiv y)
  | .divu d a b => some (d, a, b, fun x y => if y = 0 then BitVec.allOnes 64 else x.udiv y)
  | .rem d a b => some (d, a, b, fun x y => if y = 0 then x else x - y * x.sdiv y)
  | .remu d a b => some (d, a, b, fun x y => if y = 0 then x else x - y * x.udiv y)
  | _ => none

/-- The scalar immediates (R158): signed immediate or not, and the result. -/
def immediateOf : Instr → Option (Bool × BitVec 7 × BitVec 14 × (DWord → DWord → DWord))
  | .addi d i => some (true, d, i, fun x y => x + y)
  | .andi d i => some (false, d, i, fun x y => x &&& y)
  | .ori d i => some (false, d, i, fun x y => x ||| y)
  | .xori d i => some (false, d, i, fun x y => x ^^^ y)
  | .shli d i => some (false, d, i, fun x y => x <<< (y.toNat % 64))
  | .shri d i => some (false, d, i, fun x y => x >>> (y.toNat % 64))
  | .sari d i => some (false, d, i, fun x y => x.sshiftRight (y.toNat % 64))
  | .muli d i => some (true, d, i, fun x y => x * y)
  | .mini d i => some (true, d, i, fun x y => if y.toInt < x.toInt then y else x)
  | .maxi d i => some (true, d, i, fun x y => if x.toInt < y.toInt then y else x)
  | .slti d i => some (true, d, i, fun x y => if x.toInt < y.toInt then 1 else 0)
  | .seqi d i => some (true, d, i, fun x y => if x = y then 1 else 0)
  | .li d i => some (true, d, i, fun _ y => y)
  | _ => none

/-- A 14-bit immediate, with 21 more high bits from a LIMM before it (R147, R148). -/
def imm14 (sgn : Bool) (limm : Option (BitVec 21)) (i : BitVec 14) : DWord :=
  match sgn, limm with
  | true, none => i.signExtend 64
  | true, some h => (h ++ i).signExtend 64
  | false, none => i.setWidth 64
  | false, some h => (h ++ i).setWidth 64

/-- Address arithmetic in the cells (R220). -/
def xaluOf : Instr → Option (BitVec 7 × BitVec 7 × BitVec 7 × (Word → Word → Word))
  | .xadd d a b => some (d, a, b, fun x y => x + y)
  | .xsub d a b => some (d, a, b, fun x y => x - y)
  | .xmul d a b => some (d, a, b, fun x y => x * y)
  | .xand d a b => some (d, a, b, fun x y => x &&& y)
  | .xior d a b => some (d, a, b, fun x y => x ||| y)
  | .xeor d a b => some (d, a, b, fun x y => x ^^^ y)
  | .xshl d a b => some (d, a, b, fun x y => x <<< (y.toNat % 32))
  | .xshr d a b => some (d, a, b, fun x y => x >>> (y.toNat % 32))
  | .xsar d a b => some (d, a, b, fun x y => x.sshiftRight (y.toNat % 32))
  | .xmin d a b => some (d, a, b, fun x y => if y.toInt < x.toInt then y else x)
  | .xmax d a b => some (d, a, b, fun x y => if x.toInt < y.toInt then y else x)
  | _ => none

/-- Integer lanes (R221): the new element from the elements of va and vb, of the bundle's width and signedness. -/
def vintOf : Instr → Option (BitVec 7 × BitVec 7 × BitVec 7 × (Bctl → Nat → Nat → Nat))
  | .vadd d a b => some (d, a, b, fun c x y => (x + y) % 2 ^ c.intWidth)
  | .vsub d a b => some (d, a, b, fun c x y => wrapInt c.intWidth ((x : Int) - y))
  | .vadds d a b => some (d, a, b, fun c x y => clampInt c (intVal c x + intVal c y))
  | .vsubs d a b => some (d, a, b, fun c x y => clampInt c (intVal c x - intVal c y))
  | .vmul d a b => some (d, a, b, fun c x y => x * y % 2 ^ c.intWidth)
  | .vmulh d a b => some (d, a, b, fun c x y => wrapInt c.intWidth (intVal c x * intVal c y / 2 ^ c.intWidth))
  | .vmin d a b => some (d, a, b, fun c x y => if intVal c y < intVal c x then y else x)
  | .vmax d a b => some (d, a, b, fun c x y => if intVal c x < intVal c y then y else x)
  | .vand d a b => some (d, a, b, fun _ x y => x &&& y)
  | .vior d a b => some (d, a, b, fun _ x y => x ||| y)
  | .veor d a b => some (d, a, b, fun _ x y => x ^^^ y)
  | .vshl d a b => some (d, a, b, fun c x y => x * 2 ^ (y % c.intWidth) % 2 ^ c.intWidth)
  | .vshr d a b => some (d, a, b, fun c x y => wrapInt c.intWidth (intVal c x / 2 ^ (y % c.intWidth)))
  | .vabs d a => some (d, a, a, fun c x _ => if c.is then x else wrapInt c.intWidth (intVal c x).natAbs)
  | _ => none

/-- Floating-point lanes (R228, R230): latency, registers, and the new element from rounding mode, draw and the elements
of vd, va and vb. -/
def vfltOf : Instr → Option (Nat × BitVec 7 × BitVec 7 × BitVec 7 × (FloatFmt → BitVec 3 → Nat → Nat → Nat → Nat → Nat))
  | .vfadd d a b => some (4, d, a, b, fun f m u _ x y => f.roundWide false m.toNat u (Fp.add m.toNat (f.fp x) (f.fp y)).val)
  | .vfsub d a b => some (4, d, a, b, fun f m u _ x y => f.roundWide false m.toNat u (Fp.sub m.toNat (f.fp x) (f.fp y)).val)
  | .vfmul d a b => some (4, d, a, b, fun f m u _ x y => f.roundWide false m.toNat u (Fp.mul (f.fp x) (f.fp y)).val)
  | .vfma d a b =>
    some (4, d, a, b, fun f m u c x y => f.roundWide false m.toNat u (Fp.fma m.toNat (f.fp x) (f.fp y) (f.fp c)).val)
  | .vfnma d a b =>
    some (4, d, a, b, fun f m u c x y => f.roundWide false m.toNat u (Fp.fnma m.toNat (f.fp x) (f.fp y) (f.fp c)).val)
  | .vfmin d a b => some (2, d, a, b, fun f _ _ _ x y => f.roundWide false 0 0 (Fp.least (f.fp x) (f.fp y)).val)
  | .vfmax d a b => some (2, d, a, b, fun f _ _ _ x y => f.roundWide false 0 0 (Fp.most (f.fp x) (f.fp y)).val)
  | .vfabs d a => some (2, d, a, a, fun f _ _ _ x _ => x % 2 ^ (f.width - 1))
  | .vfneg d a => some (2, d, a, a, fun f _ _ _ x _ => x ^^^ 2 ^ (f.width - 1))
  | .vfrcp d a => some (6, d, a, a, fun f m u _ x _ => f.roundWide false m.toNat u (f.fp x).rcp)
  | .vfrsq d a => some (6, d, a, a, fun f m u _ x _ => f.roundWide false m.toNat u (f.fp x).rsq)
  | .vfexp2 d a => some (6, d, a, a, fun f m u _ x _ => f.roundWide false m.toNat u (f.fp x).exp2)
  | .vflog2 d a => some (6, d, a, a, fun f m u _ x _ => f.roundWide false m.toNat u (f.fp x).log2)
  | .vfsqrt d a => some (6, d, a, a, fun f m u _ x _ => f.roundWide false m.toNat u (f.fp x).sqrt)
  | _ => none

/-- Integer compares (R222): the relation each element must satisfy. -/
def vcmpOf : Instr → Option (BitVec 7 × BitVec 7 × BitVec 7 × (Bctl → Nat → Nat → Bool))
  | .vcmpeq d a b => some (d, a, b, fun _ x y => x == y)
  | .vcmplt d a b => some (d, a, b, fun c x y => decide (intVal c x < intVal c y))
  | _ => none

/-- Floating-point compares (R229). -/
def vfcmpOf : Instr → Option (BitVec 7 × BitVec 7 × BitVec 7 × (Fp → Fp → Bool))
  | .vfcmpeq d a b => some (d, a, b, Fp.eq)
  | .vfcmplt d a b => some (d, a, b, Fp.lt)
  | .vfcmple d a b => some (d, a, b, Fp.le)
  | _ => none

/-- Predicate slots (R236): the new value of all 1024 bits. -/
def vpredOf : Instr → Option (BitVec 7 × (Run → State → Row))
  | .pand d a b => some (d, fun r t => r.pc t a &&& r.pc t b)
  | .pior d a b => some (d, fun r t => r.pc t a ||| r.pc t b)
  | .peor d a b => some (d, fun r t => r.pc t a ^^^ r.pc t b)
  | .pandn d a b => some (d, fun r t => r.pc t a &&& ~~~ r.pc t b)
  | .pnot d a => some (d, fun r t => ~~~ r.pc t a)
  | .pall d => some (d, fun _ _ => BitVec.allOnes 1024)
  | .pnone d => some (d, fun _ _ => 0)
  | _ => none

end Sys2Proof.Claims

open Sys2Proof Sys2Proof.Machine Sys2Proof.Claims

/-! ### Scalar slots -/

/-- Every scalar ALU slot completes, its result, as the table gives it, on its way to s[X] for step t+1 (R156, R157); and so
does every scalar immediate slot, with the immediate extended as R147 and R148 say (R158). -/
def Obligations.ScalarResults : Prop :=
  (∀ i d a b f, scalarOf i = some (d, a, b, f) → Issues i (fun s => landS d 1 (f (s.src a) (s.src b)) s)) ∧
  (∀ i g d n f, immediateOf i = some (g, d, n, f) →
    Issues i (fun s => landS d 1 (f (s.me.sReg d.toNat) (imm14 g s.latch.limm n)) s))

/-- Scalar division and operand codes (R157): a zero divisor gives all ones for the quotient and the dividend for the
remainder; −2^63 by −1 gives −2^63 and 0; every scalar operation whose codes are legal completes, with no trap and no hold,
and only lands its result; an X code of 64–127 or a Y or Z code of 82–127 raises ILLEGAL at decode. -/
def Obligations.DivisionAndOperandCodes : Prop :=
  ∀ i d a b f s, scalarOf i = some (d, a, b, f) → s.latch.limm = none →
    (d.toNat ≤ 63 → a.toNat ≤ 81 → b.toNat ≤ 81 →
      exec i s = .next (landS d 1 (f (s.src a) (s.src b)) s) ∧
      (s.src b = 0 → i = .div d a b ∨ i = .divu d a b → exec i s = .next (landS d 1 (BitVec.allOnes 64) s)) ∧
      (s.src b = 0 → i = .rem d a b ∨ i = .remu d a b → exec i s = .next (landS d 1 (s.src a) s)) ∧
      (s.src a = BitVec.intMin 64 → s.src b = -1 → i = .div d a b → exec i s = .next (landS d 1 (BitVec.intMin 64) s)) ∧
      (s.src a = BitVec.intMin 64 → s.src b = -1 → i = .rem d a b → exec i s = .next (landS d 1 0 s))) ∧
    (63 < d.toNat ∨ 81 < a.toNat ∨ 81 < b.toNat → exec i s = .next (trapHere (s.issueTrap .illegal 4) s))

/-- The words of a context's data memory (R117, R159, R160): LDD, LDW (sign-extended) and LDWU (zero-extended) read at t and
land at t+3; STD and STW complete with their bytes on their way for step t+1, and where such bytes land they change their own
bytes of that layer's data memory and no others, of any layer. -/
def Obligations.DataMemorySlots : Prop :=
  ((∀ d a b, Issues (.ldd d a b) (fun s =>
    landS d 3 (BitVec.ofNat 64 (s.layer.dmemLe (dmemBase s.ctx + (s.src a + s.src b).toNat) 8)) s)) ∧
  (∀ d a b, Issues (.ldw d a b) (fun s =>
    landS d 3 ((BitVec.ofNat 32 (s.layer.dmemLe (dmemBase s.ctx + (s.src a + s.src b).toNat) 4)).signExtend 64) s)) ∧
  (∀ d a b, Issues (.ldwu d a b) (fun s =>
    landS d 3 (BitVec.ofNat 64 (s.layer.dmemLe (dmemBase s.ctx + (s.src a + s.src b).toNat) 4)) s))) ∧
  ((∀ x a b, Issues (.std x a b) (fun s =>
    land (.dmem (dmemBase s.ctx + (s.src a + s.src b).toNat) 8) 1 (onesMask 64) ((s.me.sReg x.toNat).setWidth 32768) s)) ∧
  (∀ x a b, Issues (.stw x a b) (fun s =>
    land (.dmem (dmemBase s.ctx + (s.src a + s.src b).toNat) 4) 1 (onesMask 32) ((s.me.sReg x.toNat).setWidth 32768) s)) ∧
  ∀ lay p s a n, p.loc = .dmem a n → n ≤ 8 →
    (∀ l k, ¬ (l = lay ∧ a ≤ k ∧ k < a + n) →
      mapGet (0 : Byte) ((landThree lay p s).layerAt l).dmem k = mapGet 0 (s.layerAt l).dmem k) ∧
    (∀ j, j < n → mapGet (0 : Byte) ((landThree lay p s).layerAt lay).dmem (a + j) = p.val.extractLsb' (8 * j) 8))

/-! ### Flow -/

namespace Sys2Proof.Claims

/-- The conditions of BCMP and BCMPI (R163). -/
def compareHolds (c : BitVec 4) (x y : DWord) : Bool :=
  match c with
  | 0 => decide (x = y)
  | 1 => decide (x ≠ y)
  | 2 => decide (x.toInt < y.toInt)
  | 3 => decide (y.toInt ≤ x.toInt)
  | 4 => decide (x.toNat < y.toNat)
  | 5 => decide (y.toNat ≤ x.toNat)
  | 6 => decide (x &&& y ≠ 0)
  | _ => decide (x &&& y = 0)

/-- A signed 7-bit immediate, with 21 more high bits from a LIMM before it (R147, R148). -/
def imm7 (limm : Option (BitVec 21)) (i : BitVec 7) : DWord :=
  match limm with
  | none => i.signExtend 64
  | some h => (h ++ i).signExtend 64

/-- A taken transfer: this bundle and two delay bundles end before `target` issues, at `ready` or later; the delay bundles stand at
the depth of the shadow stack as it is now (R164, R167). -/
def taken (target : DWord) (ready : Nat) (s : State) : State :=
  s.updMe (fun c => { c with xfer := some (target, 3, ready), delay := 3, xferDepth := c.shadowView.length })

end Sys2Proof.Claims

/-- Branch preparation, compares and transfers (R162 to R166): a prepared target lands in b[j] at t+1; a compare's bit lands
in k[j] at t+1; a transfer whose condition holds is taken to b[j] as it stands at t, one whose condition fails changes
nothing. -/
def Obligations.BranchSlots : Prop :=
  (∀ b i, Issues (.bprepRelative b i) (fun s =>
    land (.b b.toNat) 1 (onesMask 64) ((s.latch.baddr + 4 * imm14 true s.latch.limm i).setWidth 32768) s)) ∧
  (∀ b a, Issues (.bprepRegister b a) (fun s => land (.b b.toNat) 1 (onesMask 64) ((s.src a).setWidth 32768) s)) ∧
  (∀ c k a b, Issues (.bcmp c k a b) (fun s => landK k.toNat 1 (compareHolds c (s.src a) (s.src b)) s)) ∧
  (∀ c k a i, Issues (.bcmpi c k a i) (fun s => landK k.toNat 1 (compareHolds c (s.src a) (imm7 s.latch.limm i)) s)) ∧
  (∀ b alw neg k, Issues (.bxfer b alw neg k) (fun s =>
    if alw = true ∨ s.me.k.getLsbD k.toNat ≠ neg then taken (s.me.bReg b.toNat) (s.me.bReadyAt b.toNat) s else s)) ∧
  (∀ b neg, Issues (.bpois b neg) (fun s =>
    if s.me.spois ≠ neg then taken (s.me.bReg b.toNat) (s.me.bReadyAt b.toNat) s else s))

/-- CALL and RET (R168 to R170): CALL lands the return address in s[X] and enters its push in the welt; RET enters a pop, and
its target issues no earlier than t+4. The committed shadow stack is not changed at issue. LOOP (R171, R172): with N
iterations the level starts at k = 0 behind the bundle; with N = 0 nothing starts and the context goes on at the end address.
The other levels stay as they are. -/
def Obligations.CallReturnAndLoopSlots : Prop :=
  ((∀ d b, Issues (.call d b) (fun s =>
    let u := landS d 1 (returnAddress s) s
    welt (.shadow (.push (returnAddress s))) (taken (u.me.bReg b.toNat) (u.me.bReadyAt b.toNat) u))) ∧
  (∀ a, Issues (.ret a) (fun s => taken (s.src a) (s.now + 4) (welt (.shadow .pop) s))) ∧
  (∀ d b s t, Clear (.call d b) s → exec (.call d b) s = .next t → t.me.shadow = s.me.shadow ∧
    t.me.shadowView = returnAddress s :: s.me.shadowView) ∧
  (∀ a s t, Clear (.ret a) s → exec (.ret a) s = .next t → t.me.shadow = s.me.shadow ∧
    t.me.shadowView = s.me.shadowView.tail)) ∧
  (∀ lv off s,
    let stop := s.latch.baddr + 4 * imm14 false s.latch.limm off
    let starts := fun (n : Nat) (t : State) =>
      if n = 0 then t = { s with latch := { s.latch with next := stop } }
      else t.latch = s.latch ∧ t.layers = s.layers ∧
        t.me.loopOf lv.toNat = { active := true, k := 0, n := n, start := s.latch.next, stop := stop,
                                 depth := s.me.shadowView.length } ∧
        ∀ j, j < 4 → j ≠ lv.toNat → t.me.loopOf j = s.me.loopOf j
    (Clear (.loopTable lv off) s → ∃ t, exec (.loopTable lv off) s = .next t ∧ starts (s.me.loopEntry lv.toNat).trip t) ∧
    ∀ sc, Clear (.loopRegister lv sc off) s →
      ∃ t, exec (.loopRegister lv sc off) s = .next t ∧ starts (s.me.sReg sc.toNat).toNat t)

/-! ### System slots, bundle control, special registers -/

/-- NOP, BCTL, LIMM, YIELD, DRAIN (R139, R148, R207, R209, R216, R289). NOP changes nothing at all. MFSR and MTSR complete
(R211): a read lands the register's value at t+1, RNGC's as it stands before the bundle's own draws (R225); a write sends the bits of the view's writable fields to the register for
t+1, and the region first remembers the value it had at its entry; a write to PREQ takes the save area's capability, read at t, with
it (R425). -/
def Obligations.ControlAndSpecialSlots : Prop :=
  (Issues .nop (fun s => s) ∧
  (∀ ginv gen gp gap is fw iw sway sl, Issues (.bctl ginv gen gp gap is fw iw sway sl) (fun s =>
    { s with latch := { s.latch with bctl := { ginv := ginv, gen := gen, gp := gp, gap := gap, is := is, fw := fw, iw := iw,
                                               sway := sway, sealed := sl } } })) ∧
  (∀ i, Issues (.limm i) (fun s => { s with latch := { s.latch with limm := some i } })) ∧
  Issues .yield (fun s => (s.updLayer s.lay (fun l => { l with switch := true })).updMe (fun c => { c with idle := 0 })) ∧
  (∀ n, Issues (.drain n) (fun s => welt (.drain n.toNat) (ctrAdd n.toNat s)))) ∧
  ((∀ d r, r ≠ 0x027 → Issues (.mfsr d r) (fun s => landS d 1 (readSpecial s r.toNat) s)) ∧
  (∀ d, Issues (.mfsr d 0x027) (fun s => landS d 1 (readSpecial s 0x027 -
    (if s.selCtx = s.ctx then BitVec.ofNat 64 (s.latch.flight.filter (fun x => draws s.me.rm x.instr)).length else 0)) s)) ∧
  (∀ a r, r ≠ 0x032 → Issues (.mtsr a r) (fun s =>
    land (.special (r.toNat + 4096 * s.selCtx)) 1 ((writeMask s s.sup r.toNat (s.src a)).setWidth 32768)
      ((writeValue s.sup r.toNat (s.src a)).setWidth 32768) (rememberSpecial r.toNat s))) ∧
  ∀ a, Issues (.mtsr a 0x032) (fun s =>
    land (.special (0x032 + 4096 * s.selCtx)) 1 ((writeMask s s.sup 0x032 (s.src a)).setWidth 32768)
      ((writeValue s.sup 0x032 (s.src a)).setWidth 32768 ||| ((s.me.gReg (fld (s.src a) 3 4)).setWidth 32768 <<< 64))
      (rememberSpecial 0x032 s)))

/-! ### Capabilities, flags, links -/

/-- CDERIVE, CNARROW, CCHECK (R182): base and limit narrowed by s[Y] and s[Y+1], rights ANDed with M, each with a new check;
CCHECK's bit says whether offset and length lie within the object. CST and CLD (R183, R184): a capability store waits in the
welt and at its port for the commit; a capability load adds 1 to its counter and sends its request at once. The address is the
base plus the offset. -/
def Obligations.CapabilitySlots : Prop :=
  ((∀ d g a, Issues (.cderive d g a) (fun s =>
    let c := s.me.gReg g.toNat
    let lo := capBase c + (s.me.sReg a.toNat).toNat
    landG d.toNat 1 (s.sealCap (mkCap (capObj c) (capRights c) lo (lo + (s.me.sReg (a.toNat + 1)).toNat))) s)) ∧
  (∀ d hi g m, Issues (.cnarrow d hi g m) (fun s =>
    let c := s.me.gReg g.toNat
    landG d.toNat 1 (s.sealCap (mkCap (capObj c) (capRights c &&& (BitVec.ofBool hi ++ m)) (capBase c) (capLimit c))) s)) ∧
  (∀ g k o l, Issues (.ccheck g k o l) (fun s =>
    let c := s.me.gReg g.toNat
    landK k.toNat 1 (decide (c ≠ 0 ∧ (s.src o).toNat + (s.src l).toNat ≤ capLimit c - capBase c)) s))) ∧
  ((∀ v b o, Issues (.cst v b o) (fun s =>
    let w := welt .cst s
    pushReq { newReq w w.ctx 64 w.me.regionId s.nextId (.cst (s.me.gReg v.toNat)) .held (w.me.gReg b.toNat)
      (capBase (w.me.gReg b.toNat) + (w.src o).toNat) none ((s.me.gReg v.toNat).setWidth 1024) with
        baddr := s.latch.baddr, slot := s.latch.slot } w)) ∧
  (∀ n d b o, Issues (.cld n d b o) (fun s =>
    let w := ctrAdd n.toNat s
    pushReq { newReq w w.ctx 64 w.me.regionId w.nextId (.cld d.toNat) .port (w.me.gReg b.toNat)
      (capBase (w.me.gReg b.toNat) + (w.src o).toNat) (some n.toNat) 0 with baddr := s.latch.baddr, slot := s.latch.slot } w)))

/-- The slots whose effect waits for the commit of their region (R187, R188, R194, R197, R208 to R210, R213, R215): the effect,
with the operands as they stand at t, enters the welt, and one with a counter adds 1 to it at t. The flag an FLADD names is at
base + offset, and FLSET has a home in each layer its mask names. -/
def Obligations.CommitTimeSlots : Prop :=
  ((∀ g q, Issues (.tlaunch g q) (fun s => welt (.tlaunch q.toNat (s.me.gReg g.toNat)) s)) ∧
  (∀ a, Issues (.texit a) (fun s => welt (.texit (s.src a)) s)) ∧
  (∀ c, Issues (.trap c) (fun s => welt (.userTrap c s.latch.baddr s.latch.slot) s)) ∧
  (∀ a, Issues (.eret a) (fun s => welt (.eret (fld (s.src a) 0 2) false) s)) ∧
  (∀ a, Issues (.eretKill a) (fun s => welt (.eret (fld (s.src a) 0 2) true) s)) ∧
  (∀ n a, Issues (.lsleepDoze n a) (fun s => welt (.lsleep (s.src a).toNat false n.toNat) (ctrAdd n.toNat s))) ∧
  (∀ n a, Issues (.lsleepOff n a) (fun s => welt (.lsleep (s.src a).toNat true n.toNat) (ctrAdd n.toNat s))) ∧
  (∀ n a, Issues (.lwake n a) (fun s => welt (.lwake (s.src a).toNat n.toNat) (ctrAdd n.toNat s))) ∧
  (∀ n g a b, Issues (.lstld n g a b) (fun s =>
    welt (.lstld (s.me.gReg g.toNat) (s.src a) (fld (s.src b) 0 11) (fld (s.src b) 12 12) n.toNat) (ctrAdd n.toNat s))) ∧
  (∀ n g a b, Issues (.mpsld n g a b) (fun s =>
    if (s.src b).getLsbD 31 then welt (.mpsld (s.me.gReg g.toNat) (s.src a) true 0 32 n.toNat) (ctrAdd n.toNat s)
    else welt (.mpsld (s.me.gReg g.toNat) (s.src a) false (fld (s.src b) 0 9) (fld (s.src b) 10 10) n.toNat)
      (ctrAdd n.toNat s)))) ∧
  ((∀ sc g a b, Issues (.fladd sc g a b) (fun s =>
    welt (.flag false [BitVec.ofNat 21 (capBase (s.me.gReg g.toNat) + fld (s.src a) 0 32)] (s.src b) sc.toNat) s)) ∧
  (∀ sc g a b, Issues (.flset sc g a b) (fun s =>
    welt (.flag true (flagHomes (BitVec.ofNat 21 (capBase (s.me.gReg g.toNat) + fld (s.src a) 0 32)) (fld (s.src a) 32 8))
      (s.src b) sc.toNat) s)) ∧
  (∀ sc acq rel, Issues (.fence sc acq rel) (fun s => welt (.fence sc.toNat acq rel) s)))

/-- FLWAIT and CWAIT (R35, R195, R196): a condition that holds lets the bundle go on and changes nothing; one that does not
freezes the domain on that condition; a poisoned flag raises FLAGPOISON with the flag's address. EPUSH, SEND and REALIGN
enter the welt; EPOP lands the word it takes at t+1, from the pop log when the region runs again and from the eyelet
otherwise, and freezes the domain when there is none (R48, R198 to R206). -/
def Obligations.WaitAndLinkSlots : Prop :=
  ((∀ c g a b s, Clear (.flwait c g a b) s →
    let adr := BitVec.ofNat 21 (capBase (s.me.gReg g.toNat) + fld (s.src a) 0 32)
    let f := s.layer.flag (flagIdx adr)
    let y := (s.src b).extractLsb' 0 63
    let holds := match c with
      | 0 => y.toNat ≤ (flagV f).toNat
      | 1 => flagV f = y
      | 2 => flagV f &&& y ≠ 0
      | _ => flagV f &&& y = y
    (f.getLsbD 63 = true → exec (.flwait c g a b) s = .next (trapHere (s.issueTrap .flagPoison 0 adr.toNat) s)) ∧
    (f.getLsbD 63 = false → holds → exec (.flwait c g a b) s = .next s) ∧
    (f.getLsbD 63 = false → ¬ holds → exec (.flwait c g a b) s = .next (freezeHere (.flag (flagIdx adr) c y) s))) ∧
  ∀ n thr s, Clear (.cwait n thr) s →
    let m := (imm14 false s.latch.limm thr).toNat
    ((s.me.nReg n.toNat).toNat < m → exec (.cwait n thr) s = .next s) ∧
    (m ≤ (s.me.nReg n.toNat).toNat → exec (.cwait n thr) s = .next (freezeHere (.counter n m) s))) ∧
  ((∀ e a, Issues (.epush e a) (fun s => welt (.epush e (s.src a)) s)) ∧
  (∀ d e s, Clear (.epop d e) s →
    (∀ lg v, popSource s e = some (lg, v) →
      exec (.epop d e) s = .next (takePop e (welt .popRecord (landS d 1 v s)))) ∧
    (popSource s e = none → exec (.epop d e) s = .next (freezeHere (.eyelet e) s))) ∧
  (∀ bulk gd gs a, Issues (.send bulk gd gs a) (fun s =>
    let d := readDesc s (s.src a).toNat
    welt (.send bulk (s.me.gReg gd.toNat) (s.me.gReg gs.toNat) d.soff d.doff d.len d.slack
      (d.ctr (capPkg (s.me.gReg gd.toNat))) d.depart) s)) ∧
  (∀ n a, Issues (.realign n a) (fun s => welt (.realign n.toNat ((s.src a).extractLsb' 0 24)) (ctrAdd n.toNat s))))

/-! ### Votes -/

namespace Sys2Proof.Claims

/-- A vote joins the tree at t: its result is due at t+40 (R177). -/
def votePre (kind : Nat) (loc : Loc) (_ : Nat) (s : State) : State :=
  s.updLayer s.lay (fun l => { l with
    votes := l.votes ++ [{ ctx := s.ctx, region := s.me.regionId, due := s.now + 40, seq := s.latch.seq, loc := loc,
                           kind := kind, acc := if kind = 1 then 1 else 0 }] })

end Sys2Proof.Claims

/-- Votes (R31, R32, R176 to R178): the vote starts at t, and each enabled cell contributes whether any, whether all, or how
many of its active lanes' bits of p are 1, or the context's poison summary bit; PVOTE.CLR also marks the bit. -/
def Obligations.VoteSlots : Prop :=
  (∀ k p, CellDoes (.vany k p) (votePre 0 (.k k.toNat)) (fun _ _ => True)
    (fun r t => contribute r (if r.pc t p &&& r.guard t ≠ 0 then 1 else 0) t)) ∧
  (∀ k p, CellDoes (.vall k p) (votePre 1 (.k k.toNat)) (fun _ _ => True)
    (fun r t => contribute r (if r.pc t p ||| ~~~ r.guard t = BitVec.allOnes 1024 then 1 else 0) t)) ∧
  (∀ d p, CellDoes (.vcount d p) (votePre 2 (.s d.toNat)) (fun _ _ => True)
    (fun r t => contribute r (popcount (r.pc t p &&& r.guard t)) t)) ∧
  (∀ k, CellDoes (.pvote k) (votePre 3 (.k k.toNat)) (fun _ _ => True)
    (fun r t => contribute r (if poisNow r t then 1 else 0) t)) ∧
  ∀ k, CellDoes (.pvoteClr k) (votePre 3 (.k k.toNat)) (fun _ _ => True) (fun r t =>
    let u := contribute r (if poisNow r t then 1 else 0) t
    u.updCtx (ctxKey u.lay r.f.ctx) (fun c => { c with
      regions := c.regions.map (fun g => if g.id = r.f.region then { g with marks := g.marks ++ [(r.cell, u.now)] } else g) }))

/-! ### Cell arithmetic -/

/-- Floating-point lanes (R228 to R230): element by element in the bundle's format, rounded by FPCTL.RM, a stochastic
rounding's draw from the lane's word of the generator. -/
def Obligations.FloatLanes : Prop :=
  (∀ i n d a b g, vfltOf i = some (n, d, a, b, g) → CellIssues i (fun r t =>
    let f := r.f.bctl.floatFmt
    r.landV d.toNat n (r.guard t) (lanesOf (fun l => elemsOf f.width (fun j =>
      g f r.f.rm (if r.f.rm = 4 then philoxWord (r.philox t 0 l) j else 0) (elemAt f.width (lane (r.v t d.toNat) l) j)
        (elemAt f.width (lane (r.v t a.toNat) l) j) (elemAt f.width (lane (r.v t b.toNat) l) j)))) t)) ∧
  (∀ i d a b h, vfcmpOf i = some (d, a, b, h) → CellIssues i (fun r t =>
    let f := r.f.bctl.floatFmt
    r.landP (d.toNat - 96) 2 (r.guard t) (bitsOf (fun l => (upto (32 / f.width)).all (fun j =>
      h (f.fp (elemAt f.width (lane (r.v t a.toNat) l) j)) (f.fp (elemAt f.width (lane (r.v t b.toNat) l) j))))) t))

/-- Integer lanes (R221, R223 to R227): in each enabled cell the active lanes of vd take the elements' results at e+2; VSEL takes
va where pc is 1; VRNG's words land at e+6. Address arithmetic (R220): the result lands in x[X] at e+1. Predicate slots (R236):
all 1024 bits of pd land at e+1, the guard ignored. -/
def Obligations.IntegerAddressAndPredicateSlots : Prop :=
  ((∀ i d a b f, vintOf i = some (d, a, b, f) → CellIssues i (fun r t =>
    r.landV d.toNat 2 (r.guard t) (lanesOf (fun l => elemsOf r.f.bctl.intWidth (fun j =>
      f r.f.bctl (elemAt r.f.bctl.intWidth (lane (r.v t a.toNat) l) j)
        (elemAt r.f.bctl.intWidth (lane (r.v t b.toNat) l) j)))) t)) ∧
  (∀ d p a, CellIssues (.vsel d p a) (fun r t => r.landV d.toNat 2 (r.guard t &&& r.pc t p) (r.v t a.toNat) t)) ∧
  (∀ d g c, CellIssues (.vrng d g c) (fun r t => (upto (g.toNat + 1)).foldl (fun u j =>
    r.landV (d.toNat + j) 6 (r.guard t) (lanesOf (fun l =>
      BitVec.ofNat 32 (philoxWord (r.philox t (r.src t c).toNat l) j))) u) t))) ∧
  (((∀ i d a b f, xaluOf i = some (d, a, b, f) → CellIssues i (fun r t => r.landX d.toNat 1 (f (r.src t a) (r.src t b)) t)) ∧
  (∀ d i, CellIssues (.xaddi d i) (fun r t =>
    r.landX d.toNat 1 (r.x t d.toNat + (imm14 true r.slot.limm i).setWidth 32) t)) ∧
  (∀ d i, CellIssues (.xli d i) (fun r t => r.landX d.toNat 1 ((imm14 true r.slot.limm i).setWidth 32) t))) ∧
  (∀ i d v, vpredOf i = some (d, v) →
    CellIssues i (fun r t => r.landP (d.toNat - 96) 1 (BitVec.allOnes 1024) (v r t) t)))

/-- VCMPEQ and VCMPLT (R222): pd has a code 96–111, any other raises ILLEGAL at decode (R144); for each active lane the bit
lands at e+2, 1 when the relation holds for every element of the lane and 0 otherwise; a lane that is not active keeps its
bit where the result lands. -/
def Obligations.IntegerCompares : Prop :=
  (∀ i d a b h, vcmpOf i = some (d, a, b, h) → CellIssues i (fun r t =>
    r.landP (d.toNat - 96) 2 (r.guard t) (bitsOf (fun l => (upto (32 / r.f.bctl.intWidth)).all (fun j =>
      h r.f.bctl (elemAt r.f.bctl.intWidth (lane (r.v t a.toNat) l) j)
        (elemAt r.f.bctl.intWidth (lane (r.v t b.toNat) l) j)))) t)) ∧
  (∀ i d a b h s, vcmpOf i = some (d, a, b, h) → placementFault i s = none → ¬ (96 ≤ d.toNat ∧ d.toNat ≤ 111) →
    exec i s = .next (trapHere (s.issueTrap .illegal 4) s)) ∧
  ∀ lay p s k n l, p.loc = .p k n → l < 1024 →
    (mapGet (0 : Row) ((landReg lay p s).cellAt (cellKey lay k)).p n).getLsbD l =
      if p.mask.getLsbD l = true then p.val.getLsbD l else (mapGet (0 : Row) (s.cellAt (cellKey lay k)).p n).getLsbD l

namespace Sys2Proof.Claims

/-- A conversion's element q of lane l (R231, R232): its code and whether it saturated. -/
def converted (sat : Bool) (f c : BitVec 4) (a : BitVec 7) (rm : BitVec 3) (r : Run) (t : State) (q l : Nat) : Nat × Bool :=
  convert sat c.toNat f.toNat rm.toNat
    (if rm = 4 then philoxWord (r.philox t 0 l) (q % (32 / fmtWidth f.toNat)) else 0) (r.group t a.toNat (fmtWidth c.toNat) q l)

/-- The registers of a conversion land at e+3, and a narrow result that saturated in an active lane sets the cell's poison
summary bit then (R78, R231, R232). -/
def convertCell (sat : Bool) (f : BitVec 4) (d a : BitVec 7) (rm : BitVec 3) (c : BitVec 4) (r : Run) (t : State) : State :=
  let nd := 32 / fmtWidth f.toNat
  let u := (upto (cvtDstRegs f.toNat c.toNat)).foldl (fun u k => r.landV (d.toNat + k) 3 (r.guard t)
    (lanesOf (fun l => elemsOf (fmtWidth f.toNat) (fun j => (converted sat f c a rm r t (nd * k + j) l).1))) u) t
  if isNarrow f.toNat && (upto 1024).any (fun l => (r.guard t).getLsbD l &&
      (upto (32 / min (fmtWidth c.toNat) (fmtWidth f.toNat))).any (fun q => (converted sat f c a rm r t q l).2))
  then r.land (.pois r.cell) 3 (onesMask 1) 1 u else u

end Sys2Proof.Claims

/-- Conversions (R231 to R235): VCVT and VCVTS as `convertCell` says; VQUANT's codes and scale bytes land at e+5 in two
registers, its scale chosen for the active lanes of each 32-element block; VDEQ's four registers land at e+3. -/
def Obligations.ConversionSlots : Prop :=
  (∀ f d a rm c, CellIssues (.vcvt f d a rm c) (convertCell false f d a rm c)) ∧
  (∀ f d a rm c, CellIssues (.vcvts f d a rm c) (convertCell true f d a rm c)) ∧
  (∀ d a rm n, CellIssues (.vquant d a rm n) (fun r t =>
    let l6 := decide (n = 6)
    let x := fun (l j : Nat) => fp32.fp (lane ((((upto 4).map (fun i => r.v t (a.toNat + i)))[j]?).getD 0) l).toNat
    let on := fun (b : Nat) => (upto 8).filter (fun i => (r.guard t).getLsbD (8 * b + i))
    let scales := (upto 128).map (fun b => scaleCode l6 (largestLog ((on b).flatMap (fun i =>
      (upto 4).map (fun j => (x (8 * b + i) j).val)))))
    let scale := fun (b : Nat) => (scales[b]?).getD 127
    let code := fun (l j : Nat) => encodeBlock l6 (scale (l / 8)) rm.toNat
      (if rm = 4 then philoxWord (r.philox t 0 l) j else 0) true (x l j)
    let any := fun (b : Nat) => (upto 8).any (fun i => (r.guard t).getLsbD (8 * b + i))
    let u := r.landV d.toNat 5 (r.guard t) (lanesOf (fun l => elemsOf 8 (fun j => (code l j).1))) t
    let u := r.land (.v r.cell (((r.share t).physV (d.toNat + 1)).getD 0)) 5
      (lanesOf (fun l => if l < 32 then elemsOf 8 (fun j => if any (4 * l + j) then 255 else 0) else 0))
      (lanesOf (fun l => if l < 32 then elemsOf 8 (fun j => scale (4 * l + j)) else 0)) u
    if (upto 1024).any (fun l => (r.guard t).getLsbD l && (upto 4).any (fun j => (code l j).2))
    then r.land (.pois r.cell) 5 (onesMask 1) 1 u else u)) ∧
  (∀ d a rm n, CellIssues (.vdeq d a rm n) (fun r t => (upto 4).foldl (fun u j =>
    r.landV (d.toNat + j) 3 (r.guard t) (lanesOf (fun l =>
      let e := elemAt 8 (lane (r.v t (a.toNat + 1)) (l / 32)) (l / 8 % 4)
      let c := elemAt 8 (lane (r.v t a.toNat) l) j
      BitVec.ofNat 32 (fp32.roundWide false rm.toNat (if rm = 4 then philoxWord (r.philox t 0 l) 0 else 0)
        (if n = 6 then decodeL6 e (c % 64) else decodeMx e c)))) u) t))

/-! ### Networks, edges, lasts -/

namespace Sys2Proof.Claims

/-- A load's port word reaches vd at e + VLD's latency, through last `l` if there is one, with its poison (R241, R243). -/
def loaded (d : BitVec 7) (em : BitVec 4) (xa : BitVec 3) (l : Option Last) (r : Run) (t : State) : State :=
  let port := r.readLine t (r.addr t xa) (r.addr t xa).base em
  match l with
  | none => r.landLoadPois r.vldLat.1 (r.guard t) (r.readPois t em) (r.landLoad d.toNat (r.guard t) port t)
  | some l =>
    r.landLoadPois r.vldLat.1 (r.guard t) (readnetPois l (r.readPois t em)) (r.landLoad d.toNat (r.guard t) (readnet l port) t)

/-- A store's words leave at e and land at e+3, through last `l` if there is one (R241). -/
def stored (v : BitVec 7) (em : BitVec 4) (xa : BitVec 3) (l : Option Last) (r : Run) (t : State) : State :=
  match l with
  | none => r.storeLine 3 (r.addr t xa) em (r.v t v.toNat) (r.guard t) t
  | some l =>
    r.storeLine 3 (r.addr t xa) em (writenet l (r.guard t) (r.v t v.toNat)).1 (writenet l (r.guard t) (r.v t v.toNat)).2 t

end Sys2Proof.Claims

/-- Loads through the networks (R240, R241, R243): with a base line in the banks, and a read last where one is named, vld,
vld.straight and VLDX complete with the line at vd. -/
def Obligations.NetworkLoads : Prop :=
  (∀ d em xa, CellDoes (.vldStraight d em xa) noPre (fun r t => (r.addr t xa).bad = false) (loaded d em xa none)) ∧
  (∀ d le em xa, CellDoes (.vld d le em xa) noPre
    (fun r t => (r.addr t xa).bad = false ∧ (r.lastAt t le.toNat .read).isSome)
    (fun r t => loaded d em xa (r.lastAt t le.toNat .read) r t)) ∧
  (∀ d xe em xa, CellDoes (.vldx d xe em xa) noPre
    (fun r t => (r.addr t xa).bad = false ∧ ((r.share t).physLast (r.xEntry t xe)).isSome ∧
      (r.lastAt t (r.xEntry t xe) .read).isSome)
    (fun r t => loaded d em xa (r.lastAt t (r.xEntry t xe) .read) r t)) ∧
  (∀ d xa, CellDoes (.vldDec d xa) noPre
    (fun r t => (r.addr t xa).bad = false ∧ r.convBad t (r.addr t xa) r.convBank = false)
    (fun r t =>
      let port := r.readLine t (r.addr t xa) (r.addr t xa).base 0
      let six := fun (l : Nat) => decide (l < 32 * (r.share t).nb) && r.convBank (l / 32) &&
        bfFmt (mapGet 0 r.f.bfmt (l / 32)) == 6
      let conv := fun (k : Nat) => decide (k < (r.share t).nb) && r.convBank k && anyActive (r.guard t) (32 * k) 32
      r.landLag r.vldLat.2 (.v r.cell (((r.share t).physV (d.toNat + 1)).getD 0)) r.vldLat.1 (laneMask conv)
        (lanesOf (fun k => if conv k then
          elemsOf 8 (fun j => ((r.scaleByte t k ((r.addr t xa).row (r.addr t xa).base k) j).getD 0).toNat) else 0))
        (r.landLoad d.toNat (r.guard t)
          (lanesOf (fun l => if six l then l6Word (lanesRow port (l / 32)) (l % 32) else lane port l)) t)))

/-- Stores through the networks (R240 to R242): with a base line in the banks, no send still under way, and a write last
where one is named, vst, vst.straight and VSTX complete; vst.enc writes the codes and then the scale bytes. -/
def Obligations.NetworkStores : Prop :=
  (∀ v em xa, CellDoes (.vstStraight v em xa) noPre (fun r t => (r.addr t xa).bad = false ∧ r.busy t em = false)
    (stored v em xa none)) ∧
  (∀ v le em xa, CellDoes (.vst v le em xa) noPre
    (fun r t => (r.addr t xa).bad = false ∧ r.busy t em = false ∧ (r.lastAt t le.toNat .write).isSome)
    (fun r t => stored v em xa (r.lastAt t le.toNat .write) r t)) ∧
  (∀ v xe em xa, CellDoes (.vstx v xe em xa) noPre
    (fun r t => (r.addr t xa).bad = false ∧ r.busy t em = false ∧ ((r.share t).physLast (r.xEntry t xe)).isSome ∧
      (r.lastAt t (r.xEntry t xe) .write).isSome)
    (fun r t => stored v em xa (r.lastAt t (r.xEntry t xe) .write) r t)) ∧
  (∀ v xa, CellDoes (.vstEnc v xa) noPre
    (fun r t => (r.addr t xa).bad = false ∧
      r.convBad t (r.addr t xa) (fun k => r.convBank k && !bfSparse (mapGet 0 r.f.bfmt k)) = false)
    (fun r t =>
      let raw := fun (k : Nat) => !r.convBank k || bfSparse (mapGet 0 r.f.bfmt k)
      let row := fun (k : Nat) => (r.addr t xa).row (r.addr t xa).base k
      let u := (upto (r.share t).nb).foldl (fun u k =>
        if bfFmt (mapGet 0 r.f.bfmt k) == 6 && !raw k then
          r.landBytes 3 k (row k) (fun i => i < 96 && (r.guard t).getLsbD (32 * k + i / 3))
            (rowOfBytes (fun i => if i < 96 then
              BitVec.ofNat 8 (l6Pack (lane (r.v t v.toNat) (32 * k + i / 3)) / 256 ^ (i % 3)) else 0)) u
        else r.landRow 3 k (row k) ((r.guard t).extractLsb' (32 * k) 32) (lanesRow (r.v t v.toNat) k) u) t
      (upto (r.share t).nb).foldl (fun u k =>
        if raw k then u
        else (upto 4).foldl (fun u j =>
          if anyActive (r.guard t) (32 * k + 8 * j) 8 then
            r.landScale 3 k (row k) j (elemAt 8 (lane (r.v t (v.toNat + 1)) k) j) u
          else u) u) u))

/-- BCOPY (R244, R245): with both lines and every scale byte it uses inside the banks, and its lasts of the right kinds, the
copied words land at e+9, then the fresh scales of whole destination blocks; a conversion that saturated sets the poison
summary bit. -/
def Obligations.BankCopy : Prop :=
  ∀ rs rl ws wl xd xs,
    let le := fun (r : Run) (t : State) => if rs then some Last.none else r.lastAt t rl.toNat .read
    let we := fun (r : Run) (t : State) => if ws then some Last.none else r.lastAt t wl.toNat .write
    let lanes := fun (r : Run) (t : State) =>
      r.copyLanes t (r.addr t xs) (if rs then none else le r t) (if ws then none else we r t)
    CellDoes (.bcopy rs rl ws wl xd xs) noPre
      (fun r t => (r.addr t xs).bad = false ∧ (r.addr t xd).bad = false ∧ (le r t).isSome ∧ (we r t).isSome ∧
        r.copyBad t (r.addr t xd) ((lanes r t).filterMap id) = false)
      (fun r t =>
        let b := r.addr t xd
        let ls := (lanes r t).filterMap id
        let blocks := ((ls.filter (fun c => c.converts && c.fd == some 5)).map (fun c => r.blockOf c.port)).eraseDups
        let scales := blocks.map (fun k => (k, r.blockScale t b ls k))
        let scaleAt := fun (c : CopyLane) => match scales.find? (fun e => e.1 == r.blockOf c.port) with
          | some e => e.2.1
          | none => 127
        let stage := fun (j : Nat) (x : Word) => if ws then x else match we r t with | some w => byteStage w j x | none => x
        let outs := (lanes r t).zipIdx.filterMap (fun e => match e.1 with
          | some c => some (c.port, stage e.2 (c.out (scaleAt c)).1, (c.out (scaleAt c)).2)
          | none => none)
        let u := r.storeLine 9 b 0 (BitVec.ofNat 32768 (outs.foldl (fun n o => n + o.2.1.toNat * 2 ^ (32 * o.1)) 0))
          (BitVec.ofNat 1024 (outs.foldl (fun n o => n + 2 ^ o.1) 0)) t
        let u := scales.foldl (fun u e =>
          if e.2.2 then r.landScale 9 e.1.1 (b.row b.base e.1.1) e.1.2 e.2.1 u else u) u
        if outs.any (fun o => o.2.2) then r.land (.pois r.cell) 9 (onesMask 1) 1 u else u)

/-! ### Scans and the awl -/

namespace Sys2Proof.Claims

/-- The lanes a scan form takes: the guarded ones below the count that LR names, identities elsewhere (R252, R253). -/
def scanned (a : BitVec 7) (lr : BitVec 3) (op ty : BitVec 2) (r : Run) (t : State) : List Word :=
  maskedLanes (r.v t a.toNat) (r.scanActive t lr) (scanIdent op.toNat ty.toNat)

/-- The active lanes of group q of size n, with their keys, best first (R254). -/
def groupRank (better : Int → Int → Bool) (a : BitVec 7) (ty : BitVec 2) (n : Nat) (r : Run) (t : State) (q : Nat) :
    List (Int × Nat) :=
  rank better (((upto n).filter (fun i => (r.guard t).getLsbD (q * n + i))).map (fun i =>
    (rankKey ty.toNat (lane (r.v t a.toNat) (q * n + i)), i)))

/-- The active lanes in ascending order (R255). -/
def activeLanes (r : Run) (t : State) : List Nat := (upto 1024).filter (fun l => (r.guard t).getLsbD l)

end Sys2Proof.Claims

/-- SCAN, SEGSCAN, REDUCE, TOPK, SORT, COMPACT and HIST (R251 to R256) complete, every result landing at e+8. -/
def Obligations.ScanSlots : Prop :=
  (∀ d a lr op ty, CellIssues (.scan d a lr op ty) (fun r t =>
    r.landV d.toNat 8 (r.scanActive t lr) (lanesOf (fun l => (((upto 10).foldl (scanLevel (scanOp op.toNat ty.toNat))
      (scanned a lr op ty r t))[l]?).getD 0)) t)) ∧
  (∀ d a hp op ty, CellIssues (.segscan d a hp op ty) (fun r t =>
    let f := (upto 1024).map (fun l => l == 0 || (r.p t hp.toNat).getLsbD l)
    let o := (upto 10).foldl (segLevel (scanOp op.toNat ty.toNat))
      (List.zip (maskedLanes (r.v t a.toNat) (r.guard t) (scanIdent op.toNat ty.toNat)) f)
    r.landV d.toNat 8 (r.guard t) (lanesOf (fun l => ((o[l]?).getD (0, false)).1)) t)) ∧
  (∀ d a lr op ty, CellIssues (.reduce d a lr op ty) (fun r t =>
    r.landV d.toNat 8 (BitVec.allOnes 1024) (lanesOf (fun _ =>
      ((reduceTree (scanOp op.toNat ty.toNat) 10 (scanned a lr op ty r t))[0]?).getD 0)) t)) ∧
  (∀ d a xk dir ty, CellIssues (.topk d a xk dir ty) (fun r t =>
    let w := (r.x t xk.toNat).toNat
    let g := min (w / 4096 % 8) 5
    let n := 1024 / 2 ^ g
    let k := min (w % 2048) n
    let best := fun (l : Nat) =>
      ((((upto (2 ^ g)).map (groupRank (if dir then smallerFirst else largerFirst) a ty n r t))[l / n]?).getD [])[l % n]?
    let u := r.landV d.toNat 8 (bitsOf (fun l => decide (l % n < k) && (best l).isSome))
      (lanesOf (fun l => match best l with | some e => lane (r.v t a.toNat) (l / n * n + e.2) | none => 0)) t
    r.landV (d.toNat + 1) 8 (bitsOf (fun l => decide (l % n < k)))
      (lanesOf (fun l => match best l with | some e => BitVec.ofNat 32 e.2 | none => 0xFFFFFFFF)) u)) ∧
  (∀ d a g dir ty, CellIssues (.sort d a g dir ty) (fun r t =>
    let n := 1024 / 2 ^ g.toNat
    let order := (upto (2 ^ g.toNat)).map (fun q =>
      (groupRank (if dir then largerFirst else smallerFirst) a ty n r t q).map (fun e => e.2) ++
        (upto n).filter (fun i => !(r.guard t).getLsbD (q * n + i)))
    let src := fun (l : Nat) => ((((order[l / n]?).getD [])[l % n]?)).getD 0
    r.landV (d.toNat + 1) 8 (BitVec.allOnes 1024) (lanesOf (fun l => BitVec.ofNat 32 (src l)))
      (r.landV d.toNat 8 (BitVec.allOnes 1024) (lanesOf (fun l => lane (r.v t a.toNat) (l / n * n + src l))) t))) ∧
  (∀ d a xc, CellIssues (.compact d a xc) (fun r t =>
    r.landX xc.toNat 8 (BitVec.ofNat 32 (activeLanes r t).length)
      (r.landV d.toNat 8 (bitsOf (fun l => decide (l < (activeLanes r t).length)))
        (lanesOf (fun l => lane (r.v t a.toNat) (((activeLanes r t)[l]?).getD 0))) t))) ∧
  (∀ d a acc, CellIssues (.hist d a acc) (fun r t =>
    let u := r.landV d.toNat 8 (BitVec.allOnes 1024) (lanesOf (fun b => (if acc then lane (r.v t d.toNat) b else 0) +
      BitVec.ofNat 32 ((activeLanes r t).filter (fun l => (lane (r.v t a.toNat) l).toNat == b)).length)) t
    if (activeLanes r t).any (fun l => 1024 ≤ (lane (r.v t a.toNat) l).toNat)
    then r.land (.pois r.cell) 8 (onesMask 1) 1 u else u))

/-- VPERM, LLAST, ESEND, ERECV, HALO (R100, R246 to R250): a permuted register lands at e+4; a last-cache entry is in force
from e+32; neighbour words leave at e toward each direction of the mask; a received group lands at e+2; a face exchange
begins with its first row at e. AWL, both forms (R102, R103, R257): a last built from the indices in va is in force from e+48;
a lane that is invalid, or that a scatter drops, sets the poison summary bit then. -/
def Obligations.PermuteEdgeAndLastSlots : Prop :=
  ((∀ d a le, CellDoes (.vperm d a le) noPre (fun r t => (r.lastAt t le.toNat .read).isSome) (fun r t =>
    match r.lastAt t le.toNat .read with
    | some l => r.landV d.toNat 4 (r.guard t) (readnet l (r.v t a.toNat)) t
    | none => t)) ∧
  (∀ le n, CellIssues (.llast le n) (fun r t =>
    r.landLast le.toNat 32 (imm14 false r.slot.limm n).toNat (mapGet Last.none t.layer.store
      (((t.ctxAt (ctxKey t.lay r.f.ctx)).lastIndex (imm14 false r.slot.limm n).toNat).getD 0)) t)) ∧
  (∀ dm a lg, CellDoes (.esend dm a lg) noPre (fun r t => r.busy t dm = false) (fun r t => (upto 4).foldl (fun u d =>
    if dm.getLsbD d then r.sendWords d (BitVec.allOnes 32) (lanesRow (r.v t a.toNat) lg.toNat) u else u) t)) ∧
  (∀ d dir lg, CellIssues (.erecv d dir lg) (fun r t =>
    r.land (.v r.cell (((r.share t).physV d.toNat).getD 0)) 2
      (rowLanes (rowOf (fun i => if ((r.guard t).extractLsb' (32 * lg.toNat) 32).getLsbD i then 0xFFFFFFFF else 0)) lg.toNat)
      (rowLanes (mapGet 0 (t.ccAt (r.key t)).edge dir.toNat) lg.toNat) t)) ∧
  (∀ dm xa, CellDoes (.halo dm xa) noPre
    (fun r t => (r.x t xa.toNat).toNat % 256 + (r.x t xa.toNat).toNat / 65536 % 64 ≤ 255 ∧
      (r.x t xa.toNat).toNat / 256 % 256 + (r.x t xa.toNat).toNat / 65536 % 64 ≤ 255 ∧ r.busy t dm = false)
    (fun r t =>
      let w := (r.x t xa.toNat).toNat
      let y : Halo := { ctx := r.f.ctx, region := r.f.region, seq := r.f.seq, e := t.now, dm := dm, srow := w % 256,
                        drow := w / 256 % 256, cnt := w / 65536 % 64,
                        banks := (upto 4).map (fun d => ((r.share t).physBank ((r.share t).nb - 4 + d)).getD 0) }
      t.updCell (cellKey t.lay r.cell) (fun c => { c with halos := c.halos ++ [y] })))) ∧
  (∀ (scatter : Bool) le a pen pp, CellIssues (if scatter then .awlScatter le a pen pp else .awlGather le a pen pp) (fun r t =>
    let p := if pen then r.p t pp.toNat else BitVec.allOnes 1024
    let valid := fun (j : Nat) => p.getLsbD j && decide ((lane (r.v t a.toNat) j).toNat < 1024)
    let idx := fun (j : Nat) => (lane (r.v t a.toNat) j).toNat % 1024
    let u := t.pushPend t.lay { ctx := r.f.ctx, region := r.f.region, due := t.now + 48, lag := 0, seq := r.f.seq,
                                loc := .last r.cell (((r.share t).physLast le.toNat).getD 0), mask := 0, val := 0,
                                last := some (if scatter then scatterLast valid idx else gatherLast valid idx),
                                lm := r.f.lm, baddr := r.f.baddr, slot := r.slot.idx }
    if (upto 1024).any (fun j => p.getLsbD j && !valid j) = true ∨
        (scatter = true ∧ (keptLanes valid idx).length ≠ ((upto 1024).filter valid).length)
    then r.land (.pois r.cell) 48 (onesMask 1) 1 u else u))

/-! ### The matrix unit -/

/-- MPAR, MSEL, MLDW, MCALL (R261 to R267): a shadow parameter and the active plane land at e+1; a plane's macro or scale half
lands at e+6; a call makes the shadow set the active one and starts its routine at word 0, and no other call of the context
may issue for BC steps. -/
def Obligations.MatrixSlots : Prop :=
  (∀ m a, CellIssues (.mpar m a) (fun r t =>
    r.land (.mShadow r.cell m.toNat) 1 (onesMask 32) ((r.src t a).setWidth 32768) t)) ∧
  (∀ pl, CellIssues (.msel pl) (fun r t => r.land (.ap r.cell) 1 (onesMask 2) (pl.setWidth 32768) t)) ∧
  (∀ pl fmt str le xa, CellDoes (.mldw pl fmt str le xa) noPre
    (fun r t => ((r.x t xa.toNat).extractLsb' 26 6).toNat < 48 ∧ (r.addr t xa).bad = false ∧
      (str = false → (r.lastAt t le.toNat .read).isSome))
    (fun r t =>
      let p := ((r.share t).physPlane pl.toNat).getD 0
      let port := r.readLine t (r.addr t xa) (r.addr t xa).base 0
      let x := if str then port else match r.lastAt t le.toNat .read with | some l => readnet l port | none => port
      r.land (.pfmt r.cell p) 6 (onesMask 3) (fmt.setWidth 32768)
        (r.land (.plane r.cell p ((r.x t xa.toNat).extractLsb' 26 6).toNat) 6 (BitVec.allOnes 32768) x t))) ∧
  (∀ pl str le xa, CellDoes (.mldwScl pl str le xa) noPre
    (fun r t => ((r.x t xa.toNat).extractLsb' 26 6).toNat < 2 ∧ (r.addr t xa).bad = false ∧
      (str = false → (r.lastAt t le.toNat .read).isSome))
    (fun r t =>
      let p := ((r.share t).physPlane pl.toNat).getD 0
      let port := r.readLine t (r.addr t xa) (r.addr t xa).base 0
      let x := if str then port else match r.lastAt t le.toNat .read with | some l => readnet l port | none => port
      r.land (.scale r.cell p ((r.x t xa.toNat).extractLsb' 26 6).toNat) 6 (BitVec.allOnes 32768) x t)) ∧
  (∀ n bc, CellDoes (.mcall n bc)
    (fun _ s => s.updMe (fun c => { c with mcallUntil := s.now + (imm14 false s.latch.limm bc).toNat,
                                             mcallRegion := c.regionId }))
    (fun _ _ => True)
    (fun r t =>
      let d := mapGet 0 t.layer.mdir n.toNat
      let q : Routine :=
        { ctx := r.f.ctx, region := r.f.region, baddr := r.f.baddr, e := t.now, bc := (imm14 false r.slot.limm bc).toNat,
          start := fld d 0 9, len := fld d 9 9, seq := r.f.seq, pc := 0, at_ := t.now, fi := 0, sc := 0, ai := 0, rb := 0,
          toff := 0, cp := (t.ccAt (r.key t)).ap, loops := [], rows := [], arrayFree := 0, passes := [], bfmt := r.f.bfmt,
          ended := false, lm := r.f.lm, slot := r.slot.idx }
      (t.updCc (r.key t) (fun c => { c with m := c.mShadow })).updCell (cellKey t.lay r.cell)
        (fun e => { e with routine := some q })))

/-- ACLR (R278): +0.0 is on its way to every word of the tiles from the first to first + cnt − 1, whatever the guard, and where
it lands, for step e+2, each of the words is 0; a range that ends outside the share raises BOUNDS at decode. -/
def Obligations.AccumulatorClear : Prop :=
  (∀ t0 cnt, CellIssues (.aclr t0 cnt) (fun r t => (upto (cnt.toNat + 1)).foldl (fun u i =>
    match (r.share t).physTile (t0.toNat + i) with
    | some p => r.land (.acc r.cell p) 2 (BitVec.allOnes 32768) 0 u
    | none => u) t)) ∧
  (∀ lay p s k n, p.loc = .acc k n → p.mask = BitVec.allOnes 32768 → p.val = 0 →
    mapGet (0 : Lanes) ((landThree lay p s).cellAt (cellKey lay k)).acc n = 0) ∧
  ∀ t0 cnt s, placementFault (.aclr t0 cnt) s = none → s.me.share.physTile (t0.toNat + cnt.toNat) = none →
    exec (.aclr t0 cnt) s = .next (trapHere (s.issueTrap .bounds 1) s)

/-- AMOV, AMOV.CLR, AMOV.TO, ATOPK (R277, R279): a tile reaches vd at e+5, and its read words are cleared in the same step
under CLR; vd reaches a tile at e+3; the ranked rows reach the banks at e+9. -/
def Obligations.AccumulatorSlots : Prop :=
  (∀ d t0 xen xt, CellDoes (.amov d t0 xen xt) noPre (fun r t => ((r.share t).physTile (r.tile t t0 xen xt)).isSome)
    (fun r t => r.landV d.toNat 5 (r.guard t)
      (mapGet 0 (r.cellOf t).acc (((r.share t).physTile (r.tile t t0 xen xt)).getD 0)) t)) ∧
  (∀ d t0 xen xt, CellDoes (.amovClr d t0 xen xt) noPre (fun r t => ((r.share t).physTile (r.tile t t0 xen xt)).isSome)
    (fun r t =>
      let p := ((r.share t).physTile (r.tile t t0 xen xt)).getD 0
      r.land (.acc r.cell p) 0 (laneMask (fun l => (r.guard t).getLsbD l)) 0
        (r.landV d.toNat 5 (r.guard t) (mapGet 0 (r.cellOf t).acc p) t))) ∧
  (∀ d t0 xen xt, CellDoes (.amovTo d t0 xen xt) noPre (fun r t => ((r.share t).physTile (r.tile t t0 xen xt)).isSome)
    (fun r t => r.land (.acc r.cell (((r.share t).physTile (r.tile t t0 xen xt)).getD 0)) 3
      (laneMask (fun l => (r.guard t).getLsbD l)) (r.v t d.toNat) t)) ∧
  (∀ wstr le t0 xk xd, CellDoes (.atopk wstr le t0 xk xd) noPre
    (fun r t => ((r.share t).physTile (t0.toNat + ((r.x t xk.toNat).toNat / 32 % 32 + 1) - 1)).isSome ∧
      (r.addr t xd).bad = false ∧ (wstr = false → (r.lastAt t le.toNat .write).isSome))
    (fun r t =>
      let w := (r.x t xk.toNat).toNat
      let tn := w / 32 % 32 + 1
      let at_ := fun (row c : Nat) =>
        lane (mapGet 0 (r.cellOf t).acc (((r.share t).physTile (t0.toNat + c / 32)).getD 0)) (32 * row + c % 32)
      let ranks := (upto 32).map (fun row =>
        rank largerFirst ((upto (32 * tn)).map (fun c => (totalKey (at_ row c), c))))
      let perm := lanesOf (fun n => match ((ranks[n % 32]?).getD [])[n / 64]? with
        | some x => if n / 32 % 2 = 0 then at_ (n % 32) x.2 else BitVec.ofNat 32 x.2
        | none => 0)
      let en : Row := BitVec.ofNat 1024 (2 ^ (64 * min (w % 32) 16) - 1)
      let o := if wstr then (perm, en) else match r.lastAt t le.toNat .write with
        | some l => writenet l en perm
        | none => (perm, en)
      r.storeLine 9 (r.addr t xd) 0 o.1 o.2 t))

/-! ### Copies, atomics, the stack -/

namespace Sys2Proof.Claims

/-- The object offset a copy's lines start at, and whether rows, alignment and object admit it (R282). -/
def copyStart (xm : BitVec 5) (r : Run) (t : State) : Nat := capBase r.slot.cap + (r.x t xm.toNat).toNat
def copyFits (xa : BitVec 3) (xm : BitVec 5) (ln : BitVec 2) (r : Run) (t : State) : Prop :=
  copyStart xm r t % 128 = 0 ∧
  copyStart xm r t + 128 * (r.share t).nb * 2 ^ ln.toNat ≤ capLimit r.slot.cap ∧
  (r.addr t xa).base + 2 ^ ln.toNat - 1 + 31 ≤ 255

/-- `f` for each row of a copy, line by line and bank by bank: bank, bank row, object offset (R282). -/
def eachRow (xa : BitVec 3) (xm : BitVec 5) (ln : BitVec 2) (f : Nat → Nat → Nat → State → State) (r : Run) (t : State) :
    State :=
  ((upto (2 ^ ln.toNat)).flatMap (fun i => (upto (r.share t).nb).map (fun k =>
    (k, (r.addr t xa).row ((r.addr t xa).base + i) k, copyStart xm r t + 128 * (r.share t).nb * i + 128 * k)))).foldl
      (fun u w => f w.1 w.2.1 w.2.2 u) t

/-- The active lanes of an atomic: lane, address, operand, second operand (R294). -/
def atomicLanes (cas : Bool) (xm : BitVec 3) (d : BitVec 7) (r : Run) (t : State) : List (Nat × Nat × Word × Word) :=
  ((upto 1024).filter (fun l => (r.guard t).getLsbD l)).map (fun l =>
    (l, capBase r.slot.cap + (r.x t xm.toNat).toNat + 4 * (lane (r.v t d.toNat) l).toNat,
      lane (r.v t (d.toNat + 1)) l, lane (if cas then r.v t (d.toNat + 2) else 0) l))

/-- The base is a word's, and every active lane's word lies in the object (R294). -/
def atomicFits (cas : Bool) (xm : BitVec 3) (d : BitVec 7) (r : Run) (t : State) : Prop :=
  (capBase r.slot.cap + (r.x t xm.toNat).toNat) % 4 = 0 ∧
    ∀ e ∈ atomicLanes cas xm d r t, e.2.1 + 4 ≤ capLimit r.slot.cap

/-- The request of a cell's atomic, which waits at its port for the commit; a cell with no active lane sends none. -/
def atomicRequest (op ty : Nat) (cas returns : Bool) (ctr : Option Nat) (xm : BitVec 3) (d : BitVec 7) (r : Run) (t : State) :
    State :=
  if atomicLanes cas xm d r t = [] then t
  else pushReq { newReq t r.f.ctx r.cell r.f.region r.slot.eff
    (.atomic op ty cas returns (((r.share t).physV d.toNat).getD 0) (atomicLanes cas xm d r t) []) .held r.slot.cap
    (capBase r.slot.cap + (r.x t xm.toNat).toNat) ctr 0 with baddr := r.f.baddr, slot := r.slot.idx } t

end Sys2Proof.Claims

/-- TLD, TST, ALD, AST and NTST (R281 to R287): a load sends one request a row at e, a TLD's with its landing step e + LAT; a
store reads its rows at e and holds them at the port until its effect, which entered the welt at t, is released; the forms
with a counter add 1 to it at t. -/
def Obligations.CopySlots : Prop :=
  (∀ g xa xm ln lat, CellDoes (.tld g xa xm ln lat) noPre (copyFits xa xm ln) (fun r t =>
    eachRow xa xm ln (sendLoad (some (t.now + immNat r.slot.limm 7 lat.toNat)) none r) r t)) ∧
  (∀ g xa xm ln, CellDoes (.tst g xa xm ln) (fun eff => weltAt eff (.copyStore false none)) (copyFits xa xm ln)
    (fun r t => eachRow xa xm ln (holdStore false none r) r t)) ∧
  (∀ g xa xm ln n, CellDoes (.ald g xa xm ln n) (fun eff s => addOut eff n.toNat (ctrAdd n.toNat s)) (copyFits xa xm ln)
    (fun r t => eachRow xa xm ln (sendLoad none (some n.toNat) r) r t)) ∧
  (∀ g xa xm ln n, CellDoes (.ast g xa xm ln n)
    (fun eff s => weltAt eff (.copyStore false (some n.toNat)) (ctrAdd n.toNat s)) (copyFits xa xm ln)
    (fun r t => eachRow xa xm ln (holdStore false (some n.toNat) r) r t)) ∧
  (∀ g xa xm ln, CellDoes (.ntst g xa xm ln) (fun eff => weltAt eff (.copyStore true none)) (copyFits xa xm ln)
    (fun r t => eachRow xa xm ln (holdStore true none r) r t))

/-- AMO, CAS and RED (R293, R294): the effect enters the welt at t, and each enabled cell captures its active lanes' addresses
and operands at e; AMO and CAS add 1 to a counter at t and return the old values. SBST and SBLD (R297 to R300): inside the
stack window, a store's beats of 32 bytes wait for the commit, with the active lanes' bytes enabled; a load's words come from
the cell's mirror at e and land at e+4. -/
def Obligations.AtomicAndStackSlots : Prop :=
  ((∀ g xm d op ty n, CellDoes (.amo g xm d op ty n)
    (fun eff s => addOut eff n.toNat (weltAt eff (.atomic (some n.toNat)) (ctrAdd n.toNat s))) (atomicFits false xm d)
    (atomicRequest op.toNat ty.toNat false true (some n.toNat) xm d)) ∧
  (∀ g xm d n, CellDoes (.cas g xm d n)
    (fun eff s => addOut eff n.toNat (weltAt eff (.atomic (some n.toNat)) (ctrAdd n.toNat s))) (atomicFits true xm d)
    (atomicRequest 0 0 true true (some n.toNat) xm d)) ∧
  (∀ g xm d op ty, CellDoes (.red g xm d op ty) (fun eff => weltAt eff (.atomic none)) (atomicFits false xm d)
    (atomicRequest op.toNat ty.toNat false false none xm d))) ∧
  ((∀ v lg cnt xo, CellDoes (.sbst v lg cnt xo) (fun eff => weltAt eff .stackStore)
    (fun r t => (r.x t xo.toNat).toNat % 32 = 0 ∧ 32 * r.f.swlo.toNat ≤ (r.x t xo.toNat).toNat ∧
      (r.x t xo.toNat).toNat + 128 * (cnt.toNat + 1) ≤ 32 * r.f.swhi.toNat)
    (fun r t => t.updLayer t.lay (fun l => { l with beats := l.beats ++ (upto (4 * (cnt.toNat + 1))).map (fun j =>
      ({ ctx := r.f.ctx, region := r.f.region, eff := r.slot.eff, cell := r.cell, off := (r.x t xo.toNat).toNat + 32 * j,
         be := BitVec.ofNat 32 ((upto 8).foldl (fun a i =>
           if (r.guard t).getLsbD (32 * lg.toNat + 8 * j + i) then a + 15 * 2 ^ (4 * i) else a) 0),
         data := (r.v t v.toNat).extractLsb' (32 * (32 * lg.toNat + 8 * j)) 256, ready := none,
         seq := r.slot.eff } : Beat)) }))) ∧
  (∀ v lg cnt xo, CellDoes (.sbld v lg cnt xo) noPre
    (fun r t => (r.x t xo.toNat).toNat % 32 = 0 ∧ 32 * r.f.swlo.toNat ≤ (r.x t xo.toNat).toNat ∧
      (r.x t xo.toNat).toNat + 128 * (cnt.toNat + 1) ≤ 32 * r.f.swhi.toNat)
    (fun r t =>
      let here := fun (l : Nat) => decide (32 * lg.toNat ≤ l ∧ l < 32 * lg.toNat + 32 * (cnt.toNat + 1))
      r.landV v.toNat 4 (bitsOf (fun l => (r.guard t).getLsbD l && here l))
        (lanesOf (fun l => if here l then
          (r.cellOf t).mirrorWord ((r.x t xo.toNat).toNat + 4 * (l - 32 * lg.toNat)) else 0)) t)))

/-! ### Micro-operations -/

namespace Sys2Proof.Claims

/-- The focused cell runs routine `q`, whose next word is due at this step, which is the last of its window or not. -/
def WordDue (q : Routine) (last : Bool) (s : State) : Prop :=
  s.routine = some q ∧ q.ended = false ∧ q.at_ = s.now ∧ (last = true ↔ s.now + 1 = q.e + q.bc)

end Sys2Proof.Claims

/-- ROWIN, STEP and ACCUM where nothing stops them (R269 to R274): ROWIN puts its row in the row buffer for step + 6, and past
the last row only counts; STEP, where no weight row that it reads has wrong parity, starts a pass over its row, whose group values are ready after the pass's length; ACCUM sends
pass ai's group values to the tiles for step + 3, K-blocks ascending. -/
def Obligations.MicroData : Prop :=
  ∀ s q, WordDue q false s →
    (q.rowsM s ≤ q.fi → exec .rowin s = .next (s.setRoutine ({ q with fi := q.fi + 1 }.goto s.now (q.pc + 1) 1))) ∧
    (∀ x, q.fi < q.rowsM s → q.fi < q.sc + 2 → q.afmt s ≠ 0 → q.afmt s ≤ 6 → (q.had s = 0 ∨ q.afmt s < 5) →
      0 ≤ ((netAddr (q.m s 0)).base : Int) + q.rb + q.fi → ((netAddr (q.m s 0)).base : Int) + q.rb + q.fi + 31 ≤ 255 →
      (q.field s 1 6 1 = 0 → (((q.run s.cell .rowin).share s).physLast (q.field s 1 0 6)).isSome) →
      q.line s (((netAddr (q.m s 0)).base : Int) + q.rb + q.fi).toNat = some x →
      exec .rowin s = .next (rowinConflicts ((s.updCell s.focus (fun c =>
        { c with rowBuf := mapSet 0 c.rowBuf (q.fi % 2) x })).setRoutine
          ({ q with rows := mapInsert q.rows (q.fi % 2) (q.fi, s.now + 6, false), fi := q.fi + 1,
                    rowin := some s.now }.goto s.now (q.pc + 1) 1)))) ∧
    (∀ ready used, stepIllegal q s = false → mapFind q.rows (q.sc % 2) = some (q.sc, ready, used) → ready ≤ s.now →
      q.arrayFree ≤ s.now → mapFind q.passes (q.sc % 2) = none → badWeight q s = none →
      ∃ t, exec .step s = .next t ∧ t.layers = s.layers ∧ t.ctxs = s.ctxs ∧
        t.routine = some ({ q with rows := mapInsert q.rows (q.sc % 2) (q.sc, ready, true),
                                   passes := mapInsert q.passes (q.sc % 2) (q.sc, s.now + passLength (q.afmt s)),
                                   arrayFree := s.now + passLength (q.afmt s), sc := q.sc + 1 }.goto s.now (q.pc + 1) 1)) ∧
    (∀ lag ready, q.ai + 1 + (if lag then 1 else 0) ≤ q.sc → mapFind q.passes (q.ai % 2) = some (q.ai, ready) →
      ready ≤ s.now →
      let base := (q.field s 3 0 6 : Int) + q.toff + 2 * q.nm s * (q.ai / 32 : Nat)
      let tile := fun (j : Nat) => (s.ctxAt (ctxKey s.lay q.ctx)).share.physTile (base.toNat + j)
      0 ≤ base → (∀ j, j < 2 * q.nm s → (tile j).isSome) →
      exec (.accum lag) s = .next ((s.updLayer s.lay (fun l => { l with pend := l.pend ++ (upto (2 * q.nm s)).flatMap (fun j =>
        (upto (q.km s)).map (fun kb =>
          ({ ctx := q.ctx, region := q.region, due := s.now + 3, lag := 0, seq := q.seq,
             loc := .accum s.cell ((tile j).getD 0) (q.ai % 32), mask := onesMask 1024,
             val := (partialRow (s.cellAt s.focus) (q.ai % 2) (q.nm s) kb j).setWidth 32768, last := none, lm := q.lm,
             baddr := q.baddr, slot := q.slot } : Pend))) })).setRoutine
          ({ q with passes := mapErase q.passes (q.ai % 2), ai := q.ai + 1 }.goto s.now (q.pc + 1) 1)))

namespace Sys2Proof.Claims

/-- The micro-operations other than ENDM (R269). -/
def notEndm : Instr → Bool
  | .rowin | .step | .accum _ | .plane _ | .loopm _ _ _ | .waitin _ | .rstc | .abas _ | .tadd _ => true
  | _ => false

end Sys2Proof.Claims

/-- The micro-operations that only move a routine's own registers (R267, R269, R275): ENDM ends it at the last step of its
window; PLANE, ABAS, TADD, WAITIN, LOOPM and RSTC change what they name and go on to the next word. A word that is not ENDM
at the last step of its window, or an ENDM anywhere else, does not perform: the routine stops and the MCALL's context takes
SCHED, sub-cause 2. -/
def Obligations.MicroControl : Prop :=
  (∀ s q,
    (WordDue q true s → exec .endm s = .next (s.setRoutine { q with ended := true })) ∧
    (WordDue q false s →
      (∀ p, exec (.plane p) s = .next (s.setRoutine ({ q with cp := p }.goto s.now (q.pc + 1) 1))) ∧
      (∀ d, exec (.abas d) s = .next (s.setRoutine ({ q with rb := q.rb + d.toInt }.goto s.now (q.pc + 1) 1))) ∧
      (∀ d, exec (.tadd d) s = .next (s.setRoutine ({ q with toff := q.toff + d.toInt }.goto s.now (q.pc + 1) 1))) ∧
      (∀ n, n ≠ 0 → exec (.waitin n) s = .next (s.setRoutine (q.goto s.now (q.pc + 1) n.toNat))) ∧
      (s.now ≥ q.arrayFree → q.passes = [] → (∀ e ∈ q.rows, e.2.2.2 = true) →
        exec .rstc s = .next (s.setRoutine ({ q with fi := 0, sc := 0, ai := 0, rows := [] }.goto s.now (q.pc + 1) 1))) ∧
      (∀ len src n, len ≠ 0 → q.loops.length < 2 → q.pc + len.toNat ≤ q.len →
        (∀ f l k rest, q.loops = (f, l, k) :: rest → q.pc + 1 + len.toNat ≤ f + l) →
        let count := if src = 0 then n.toNat else if src = 1 then q.rowsM s
          else if src = 2 then q.field s 5 0 24 else q.field s 6 0 24
        exec (.loopm len src n) s = .next (s.setRoutine (
          if count = 0 then q.goto s.now (q.pc + 1 + len.toNat) 1
          else { q with loops := (q.pc + 1, len.toNat, count) :: q.loops }.goto s.now (q.pc + 1) 1))))) ∧
  (∀ s q, s.routine = some q → q.ended = false → q.at_ = s.now →
    (s.now + 1 ≠ q.e + q.bc → exec .endm s = .next (routineFault q .sched 2 s)) ∧
    (s.now + 1 = q.e + q.bc → ∀ i, notEndm i = true → exec i s = .next (routineFault q .sched 2 s)))

/-! ### Waits, freezes, the watchdog -/

/-- Waits (R35, R52, R54 to R58, R191, R286, R501): a task whose condition holds is Ready again, and so is one whose hold ends once
what it holds for is in; a condition that holds no longer freezes its owner, and the freeze ends with the last one, going on
from its first cycle while another stands; one that outlasts FZT makes the task wait and the domain switch, a freeze on a
committed region's row becoming a resume hold, whose count begins there, with its rows untimed; a wait that outlasts WDOG raises
WATCHDOG with the sub-cause of what is waited for; a Ready task gains one level of priority for every 65,536 cycles, once, and one
that starves at level 3 makes the next seal a switch; a held trap takes effect at the next issue. -/
def Obligations.WaitEvents : Prop :=
  ∀ s lay c,
    let key := ctxKey lay c
    let x := s.ctxAt key
    let clear := fun (s : State) => s.updCtx key (fun x => { x with task := .ready, wait := .none, waited := 0, idle := 0 })
    (x.task = .waiting → x.wait ≠ .resumeHold → x.regions = [] → waitHolds lay c s = true →
      exec (.waitSatisfied lay c) s = .next (clear s)) ∧
    (x.task = .waiting → x.wait = .resumeHold → x.regions = [] → holding lay c s = false →
      exec (.resumeHoldEnd lay c) s = .next (clear s)) ∧
    (x.task = .ready → x.wait = .resumeHold → x.regions = [] → holding lay c s = false →
      exec (.resumeHoldEnd lay c) s = .next (s.updCtx key (fun x => { x with wait := .none, waited := 0 }))) ∧
    (∀ k, let w := (s.layerAt lay).frozenBy
      (s.layerAt lay).frozen = some (k, c) → waitCond lay c w s = true →
      ((s.layerAt lay).alsoFrozen = [] → ∃ t, exec (.waitPass lay) s = .next t ∧ (t.layerAt lay).frozen = none ∧
        (x.task = .frozen → t.ctxAt key = { x with
          task := if (s.layerAt lay).cur = some c then .issuing else .ready
          wait := if x.wait = w then .none else x.wait
          waited := if x.wait = w then 0 else x.waited }) ∧
        (x.task ≠ .frozen → t.ctxAt key = x)) ∧
      (∀ d v, (s.layerAt lay).alsoFrozen = [(d, v)] → waitCond lay d v s = false →
        ∃ t, exec (.waitPass lay) s = .next t ∧ (t.layerAt lay).frozen = some (k, d) ∧ (t.layerAt lay).frozenBy = v ∧
          (t.layerAt lay).alsoFrozen = [] ∧ t.ctxAt (ctxKey lay d) = s.ctxAt (ctxKey lay d) ∧
          (d ≠ c → x.task = .frozen → (t.ctxAt key).task ≠ .frozen))) ∧
    (∀ k, (s.layerAt lay).frozen = some (k, c) → (s.layerAt lay).alsoFrozen = [] → x.task = .frozen → x.fzt ≠ 0 →
      k + 2 ^ (x.fzt.toNat + 5) ≤ s.cycleOf lay →
      ∃ t, exec (.freezeSwitch lay) s = .next t ∧ (t.ctxAt key).task = .waiting ∧ (t.layerAt lay).frozen = none ∧
        (t.layerAt lay).switch = true ∧
        ((s.layerAt lay).frozenBy ≠ .landing → (t.ctxAt key).wait = x.wait ∧ (t.ctxAt key).untimed = x.untimed) ∧
        ((s.layerAt lay).frozenBy = .landing →
          (∃ q ∈ lateRows lay s, q.ctxKey = key ∧ ∀ g ∈ x.regions, g.id ≠ q.region) →
          (t.ctxAt key).wait = .resumeHold ∧ (t.ctxAt key).untimed = true ∧
          (x.wait ≠ .resumeHold → (t.ctxAt key).waited = 0))) ∧
    (x.wdog ≠ 0 → x.wait ≠ .none → 2 ^ (x.wdog.toNat + 10) < x.waited →
      ∃ tr, tr.cause = .watchdog ∧ tr.region = x.regionId ∧
        (∀ i cond b, x.wait = .flag i cond b → tr.sub = 1) ∧ (∀ n m, x.wait = .counter n m → tr.sub = 2) ∧
        (∀ e, x.wait = .eyelet e → tr.sub = 3) ∧ (x.wait = .landing → tr.sub = 4) ∧ (x.wait = .resumeHold → tr.sub = 5) ∧
        exec (.watchdog lay c) s = .next (takeTrap lay c tr s)) ∧
    (x.task = .ready → x.aged < x.idle / 65536 → x.eprio.toNat < 3 →
      exec (.priorityAgeing lay c) s =
        .next (s.updCtx key (fun x => { x with eprio := x.eprio + 1, aged := x.idle / 65536 }))) ∧
    (x.aged = x.idle / 65536 → exec (.priorityAgeing lay c) s = .next s) ∧
    (x.task = .ready → x.eprio = 3 → 262144 ≤ x.idle →
      exec (.starvationSwitch lay c) s = .next (s.updLayer lay (fun l => { l with swaySeal := true }))) ∧
    (∀ tr, x.held = [tr] → x.state = .resident → x.task = .issuing ∨ x.task = .ready → x.wait ≠ .resumeHold →
      exec (.heldTrapEffect lay c) s = .next ((takeTrap lay c tr (s.updCtx key (fun x =>
        { x with held := [], quieted := false }))).updCtx key (fun x => { x with fromHeld := true })))

/-- A row that is not there at its landing step (R286), a hit on a result that lags (R351, R352), the landing of a row
(R105, R106), and what comes back from memory (R106, R108, R184, R295). -/
def Obligations.ArrivalEvents : Prop :=
  ∀ s lay,
    (∀ q b w d, s.reqs.find? (fun p => p.id == q.id && isLate s lay p) = some q → q.kind = .load b w (some d) true →
      ∃ tr, tr.cause = .late ∧ tr.cell = some q.cell ∧ tr.aux0 = BitVec.ofNat 64 (d % 2 ^ 48) ∧
        exec (.late lay q.id) s = .next (takeTrap lay (q.ctxKey % 8) tr
          { s with reqs := s.reqs.map (fun p => if p.id = q.id then p.untime else p) })) ∧
    (∀ q b w d, s.reqs.find? (fun p => p.id == q.id && isLate s lay p) = some q → q.kind = .load b w (some d) false →
      (s.layerAt lay).frozen = none →
      ∃ t, exec (.late lay q.id) s = .next t ∧
        (t.layerAt lay).frozen = some ((s.layerAt lay).thaw.getD (s.cycleOf lay), q.ctxKey % 8) ∧
        ((s.ctxAt q.ctxKey).task = .issuing → (t.ctxAt q.ctxKey).task = .frozen) ∧ t.reqs = s.reqs) ∧
    (∀ c m tr rest, s.latch = .empty → laggingHits lay none s = (c, m, tr) :: rest → (∀ h ∈ rest, h.2.1 ≠ 1) →
      (m = 1 → exec (.laggingHit lay) s = .next (takeTrap lay c tr s)) ∧
      (m ≠ 1 → (s.layerAt lay).frozen = none →
        ∃ t, exec (.laggingHit lay) s = .next t ∧
        (t.layerAt lay).frozen = some ((s.layerAt lay).thaw.getD (s.cycleOf lay), c) ∧
        (t.layerAt lay).step = (s.layerAt lay).step ∧
        ∀ e ∈ (t.layerAt lay).pend, ∃ e0 ∈ (s.layerAt lay).pend,
          e = if isLagging (s.layerAt lay).step e0 then { e0 with lag := e0.lag - 1 } else e0)) ∧
    (∀ k d, (s.cellAt (cellKey lay k)).landing = [d] → d.due = some (s.layerAt lay).step → d.pois = false →
      ∃ t, exec (.timedLanding lay k (256 * d.bank + d.row)) s = .next t ∧ (t.cellAt (cellKey lay k)).landing = [] ∧
        (∀ j, j ≠ 256 * d.bank + d.row →
          mapGet (0 : Row) (t.cellAt (cellKey lay k)).banks j = mapGet 0 (s.cellAt (cellKey lay k)).banks j) ∧
        (d.be = BitVec.allOnes 128 → mapGet 0 (t.cellAt (cellKey lay k)).banks (256 * d.bank + d.row) = d.data)) ∧
    (∀ q b w due strict n, s.findReq q.id = some q → q.kind = .load b w due strict → q.state = .arrived n →
      n ≤ s.cycleOf q.lay → q.dropped = false → (s.cellAt (cellKey q.lay q.cell)).landing.length < 1024 →
      exec (.copyRowArrival q.id) s = .next (dropReq q.id (s.updCell (cellKey q.lay q.cell) (fun e =>
        { e with landing := e.landing ++ [{ ctx := q.ctxKey % 8, region := q.region, req := q.id, bank := b, row := w,
                                            be := BitVec.allOnes 128, pois := q.pois, due := due,
                                            from_ := if due.isSome then 0 else q.notBefore (s.layerAt q.lay), seq := q.eff, data := q.data,
                                            arrived := s.cycleOf q.lay }] })))) ∧
    (∀ q g, s.findReq q.id = some q → q.kind = .cld g → q.state = .performed →
      exec (.cldDataArrival q.id) s = .next (setReq { q with state := .arrived (s.cycleOf q.lay) } s)) ∧
    (∀ q op ty cas v done, s.findReq q.id = some q → q.kind = .atomic op ty cas true v [] done → q.state = .performed →
      q.srid = none → exec (.atomicReply q.id) s = .next (setReq { q with state := .arrived (s.cycleOf q.lay) } s))

namespace Sys2Proof.Claims

/-- The request's object is one of this package, and its table entry admits the access (R434, R436, R437). -/
def admitted (s : State) (q : Req) : Prop :=
  isReserved q.obj = false ∧ objRemote s q.obj = false ∧ objEntry s q.obj + 15 < 2 ^ 39 ∧ objOk s q.obj q.addr q.len q.asid = true

/-- A request at its port finds leaf `l`: in the first cache that has one, or, where no cache has one and the towers walk, by a
walk (R439, R442). -/
def finds (s : State) (q : Req) (l : Leaf) : Prop :=
  admitted s q ∧
    (q.homes.findSome? (fun h => tlbFind s h q.obj q.addr) = some l ∨
      (q.homes.findSome? (fun h => tlbFind s h q.obj q.addr) = none ∧ (s.towerAt q.tower).dsplit.getLsbD 0 = false ∧
        walk s q.obj q.addr q.asid = .leaf l))

/-- The same, with a fault of the policy. -/
def faults (s : State) (q : Req) (pol : Nat) (np : Bool) (base size : Nat) : Prop :=
  admitted s q ∧ q.homes.findSome? (fun h => tlbFind s h q.obj q.addr) = none ∧
    (s.towerAt q.tower).dsplit.getLsbD 0 = false ∧ walk s q.obj q.addr q.asid = .fault pol np base size

/-- The kinds of request that carry a task's data. -/
def carriesData (q : Req) : Bool :=
  match q.kind with
  | .load .. | .store _ | .cld _ | .cst _ | .atomic .. => true
  | _ => false

/-- A request killed at its port (R131, R290, R296, R446): PGKILL in its task's name, releases behind a store of it poisoned; an
atomic's other lanes stand, any other request is gone, one of a saved task for its record. -/
def killedAt (q : Req) (s : State) : State :=
  let t := pgKill q.ctxKey q.addr q.obj (some (q.baddr, q.slot)) (if q.writes then poisonBehind q s else s)
  match q.kind with
  | .atomic .. => (match t.findReq q.id with | some r => laneDone r (t.cycleOf q.lay) 0 true t | none => t)
  | _ => if q.srid.isSome then setReq { q with state := .performed } t else dropReq q.id t

/-- A request that carries data, after a fault of policy `pol` (R131, R290, R444, R446). -/
def faulted (q : Req) (pol : Nat) (np : Bool) (base size : Nat) (s : State) : State :=
  match pol with
  | 0 => let r := openFault q.lay q.home (keyCtx q.ctxKey) q.obj q.addr q.writes np base size q.asid s
         setReq { q with state := .parked r.1 } r.2
  | 3 => killedAt q s
  | p => setReq { q with state := .answer p } s

/-- What another package answers: 1 zeros, 2 poison, 3 a kill, else as asked (R447). -/
def answeredAway (q : Req) (s : State) : Nat → State
  | 1 => setReq { q with state := .answer 1 } s
  | 2 => setReq { q with state := .answer 2 } s
  | 3 => killedAt q s
  | _ => setReq { q with state := .ready .remote } s

end Sys2Proof.Claims

/-- Translation at a port (R127, R128, R290, R439, R440, R442, R444, R446 to R448, R450): a request that its port holds back stands;
any other is ready under the leaf it finds, counted and answered with poison where the leaf's target is retired. A fault of
policy 0 parks it on a record of its port, 1 answers zeros, 2 poison, and 3 drops it and raises PGKILL in its task; a write
under a leaf with W = 0 or COW = 1 faults with the leaf's policy, page and size, as one that is present. A request for another
package, or a window, is answered there: what that answer is, the model leaves free (log 5); one that the window table refuses is
killed (R448). A remote package's request joins the requests at
its port. -/
def Obligations.TranslationAtThePort : Prop :=
  (∀ s q, s.findReq q.id = some q → q.state = .port → portHolds s q = true → exec (.translationWalk q.id) s = .next s) ∧
  (∀ s q, s.findReq q.id = some q → q.state = .port → portHolds s q = false → carriesData q = true →
    (∀ l, finds s q l → leafFault l q.writes = false → isRetired s (l.pa q.addr) = false →
      exec (.translationWalk q.id) s = .next (setReq { q with state := .ready l } (fillCaches q l s))) ∧
    (∀ l, finds s q l → leafFault l q.writes = false → isRetired s (l.pa q.addr) = true →
      exec (.translationWalk q.id) s =
        .next (noteRetired (l.pa q.addr) (setReq { q with state := .answer 2 } (fillCaches q l s)))) ∧
    (∀ l, finds s q l → leafFault l q.writes = true →
      exec (.translationWalk q.id) s =
        .next (faulted q l.pol false (q.addr / l.size * l.size) l.size (fillCaches q l s))) ∧
    (∀ pol np b z, faults s q pol np b z → exec (.translationWalk q.id) s = .next (faulted q pol np b z s)) ∧
    (objRemote s q.obj = true → isReserved q.obj = false →
      isWindow q.obj = false ∨ windowOk s q.obj q.addr q.len q.asid q.writes = true →
      exec (.translationWalk q.id) s = .next (answeredAway q { s with choice := s.choice + 1 } (remoteAnswer s q.obj))) ∧
    (isWindow q.obj = true → windowOk s q.obj q.addr q.len q.asid q.writes = false →
      exec (.translationWalk q.id) s = .next (killedAt q s))) ∧
  (∀ s (q : Req), q.ctxKey < 128 → (s.ctxAt q.ctxKey).task ≠ .free → (s.ctxAt q.ctxKey).task ≠ .placed →
    ∃ tr, pgKill q.ctxKey q.addr q.obj (some (q.baddr, q.slot)) s = takeTrap (q.ctxKey / 8) (q.ctxKey % 8) tr s ∧
      tr.cause = .pgKill ∧ tr.baddr = q.baddr ∧ tr.slot = q.slot ∧ tr.aux0 = BitVec.ofNat 64 q.addr ∧
      tr.aux1 = q.obj.setWidth 64) ∧
  ∀ o off asid ask tag s, ∃ t, exec (.remoteRequest o off asid ask tag) s = .next t ∧
    ∃ q, t.reqs = s.reqs ++ [q] ∧ q.state = .port ∧ q.obj = o ∧ q.off = off.toNat ∧ q.asid = asid ∧ q.kind = askKind ask ∧
      q.data = askData ask

/-- Accesses performing at a target of this package (R125, R130, R183, R184, R290, R294, R435): a load takes the 128 bytes of
its line; a store writes exactly its own; a capability store also sets its granule's tag where the page has tags; a lane of
an atomic writes its new word and keeps the old, and a CAS whose comparison fails writes nothing. -/
def Obligations.AccessesPerform : Prop :=
  (∀ s q b w due strict l, s.findReq q.id = some q → q.kind = .load b w due strict → mayPerform s q = true →
    q.dropped = false → q.state = .ready l → l.size ≠ 0 →
    exec (.loadPerform q.id) s = .next (setReq { q with data := rowOfList (s.memBytes (l.pa q.off) 128), state := .performed,
                                                        ready := s.cycleOf q.lay } s)) ∧
  (∀ s q b w due strict p, s.findReq q.id = some q → q.kind = .load b w due strict → mayPerform s q = true →
    q.dropped = false → q.state = .answer p →
    exec (.loadPerform q.id) s = .next (setReq { q with data := 0, pois := p == 2, state := .performed,
                                                        ready := s.cycleOf q.lay } s)) ∧
  (∀ s q nt l, s.findReq q.id = some q → q.kind = .store nt → mayPerform s q = true → q.state = .ready l → l.size ≠ 0 →
    exec (.storePerform q.id) s = .next (settleReleased (storeOver q (writeMem (l.pa q.off) (leBytes 128 q.data.toNat) s)))) ∧
  (∀ s q c l, s.findReq q.id = some q → q.kind = .cst c → mayPerform s q = true → q.state = .ready l → l.size ≠ 0 →
    exec (.storePerform q.id) s = .next (settleReleased (storeOver q
      (let t := writeMem (l.pa q.off) (leBytes 16 c.toNat) s
       if l.tag = true then setTag (l.pa q.off / 16) (decide (c ≠ 0)) t else t)))) ∧
  (∀ s q op ty cas returns v n a x y rest done l, s.findReq q.id = some q →
    q.kind = .atomic op ty cas returns v ((n, a, x, y) :: rest) done → mayPerform s q = true → q.state = .ready l → l.size ≠ 0 →
    let old : Word := BitVec.ofNat 32 (s.memLe (l.pa a) 4)
    exec (.atomicPerform q.id) s = .next (settleReleased (laneDone q (s.cycleOf q.lay) old false
      (if cas = true ∧ old ≠ x then s else writeMem (l.pa a) (leBytes 4 (atomicWord op ty cas old x y).toNat) s)))) ∧
  (∀ old x y, atomicWord 0 0 true old x y = (if old = x then y else old) ∧ atomicWord 0 0 false old x y = old + x ∧
    atomicWord 3 0 false old x y = old &&& x ∧ atomicWord 4 0 false old x y = old ||| x ∧
    atomicWord 5 0 false old x y = old ^^^ x ∧ atomicWord 6 0 false old x y = x) ∧
  ∀ b pa s,
    (∀ a, ¬ (pa ≤ a ∧ a < pa + b.length) → (writeMem pa b s).memByte a = s.memByte a) ∧
    (∀ j x, b[j]? = some x → (writeMem pa b s).memByte (pa + j) = x) ∧
    ∀ g, g ∈ (writeMem pa b s).tags ↔ g ∈ s.tags ∧ ∀ j, j < b.length → (pa + j) / 16 ≠ g

/-! ### Commit, release, flags, eyelets, the stack bus -/

/-- The oldest region of a context commits from its sealing step + 28 on, once, unless a trap is attributed to it or to an
older one, the traps that a landing of this step raises included (R45): it leaves the context with its pop log, its requests
are committed, those held at their ports from this cycle on, and its welt is released in program order, a TEXIT's completion
last (R46, R209). Nothing commits earlier, and nothing where no region is open. -/
def Obligations.RegionCommits : Prop :=
  ∀ s lay c,
    let key := ctxKey lay c
    let x := s.ctxAt key
    (∀ r rest n, x.regions = r :: rest → r.sealedAt = some n → n + 28 ≤ (s.layerAt lay).step →
      (∀ tr, x.trap = some tr → r.id < tr.region) → clashDue lay c r.id s = false →
      exec (.regionCommit lay c) s = .next (pump (nameForms r (r.releases.foldl (fun t e => release lay c r.id e t) (clearMarks lay c r.marks
        { s.updCtx key (fun x => { x with regions := rest, popLog := dropPops x.popLog }) with
          reqs := s.reqs.map (fun q => if q.ctxKey = key ∧ q.region = r.id then
            { q with committed := true, ready := if q.state = .held then s.cycleOf lay else q.ready } else q) }))))) ∧
    (∀ r rest, x.regions = r :: rest → (∀ n, r.sealedAt = some n → (s.layerAt lay).step < n + 28) →
      exec (.regionCommit lay c) s = .next s) ∧
    (∀ r rest tr, x.regions = r :: rest → x.trap = some tr → tr.region ≤ r.id → exec (.regionCommit lay c) s = .next s) ∧
    (∀ r rest, x.regions = r :: rest → clashDue lay c r.id s = true → exec (.regionCommit lay c) s = .next s) ∧
    (x.regions = [] → exec (.regionCommit lay c) s = .next s)

/-- A released effect that nothing before it holds at its port acts (R46, R126, R127, R201, R287, R402): a store's rows and an
atomic's lanes go to memory, a flag update goes to its homes and a fence ends when their waits have ended, a pushed word
enters its eyelet while it has room and otherwise stays at the head until one entry is free, and so does a launch record that
found its queue full. -/
def Obligations.ReleasedEffectsAct : Prop :=
  ∀ s e, s.released.find? (fun r => r.id == e.id) = some e →
    (e.phase = 0 → blocked s e = false →
      (∀ nt ctr, e.effect = .copyStore nt ctr → exec (.releaseWaitEnd e.id) s = .next (setReleased { e with phase := 2 }
        { s with reqs := s.reqs.map (fun q => if q.eff = e.id ∧ q.state = .held then
            { q with state := .queued } else q) })) ∧
      (∀ ctr, e.effect = .atomic ctr → exec (.releaseWaitEnd e.id) s = .next (setReleased { e with phase := 2 }
        { s with reqs := s.reqs.map (fun q => if q.eff = e.id ∧ q.state = .held then
            { q with state := .port } else q) })) ∧
      (∀ set homes v sc, e.effect = .flag set homes v sc → waitEnded s e sc = true →
        exec (.releaseWaitEnd e.id) s = .next (sendFlag e.lay set homes v (dropReleased e.id s))) ∧
      (∀ sc acq rel, e.effect = .fence sc acq rel → (rel = true → waitEnded s e sc = true) →
        (acq = true → 2 ≤ sc → acquireEnded s e.ctxKey e.id = true) →
        exec (.releaseWaitEnd e.id) s = .next (dropReleased e.id s)) ∧
      (∀ y w, e.effect = .epush y w →
        let q := mapGet .reset (s.layerAt e.lay).eyelets y.toNat
        (q.words.length < 16 → exec (.releaseWaitEnd e.id) s = .next (dropReleased e.id (s.updLayer e.lay (fun l =>
          { l with eyelets := mapSet .reset l.eyelets y.toNat { q with words := q.words ++ [w] } })))) ∧
        (16 ≤ q.words.length → exec (.releaseWaitEnd e.id) s = .next (setReleased { e with phase := 1 } s)))) ∧
    (∀ lay c, s.released.find? (fun r => r.ctxKey == ctxKey lay c && r.phase == 1) = some e →
      (∀ y w, e.effect = .epush y w →
        let q := mapGet .reset (s.layerAt e.lay).eyelets y.toNat
        q.words.length < 16 → exec (.epushDeferred lay c) s = .next (pump (dropReleased e.id (s.updLayer e.lay (fun l =>
          { l with eyelets := mapSet .reset l.eyelets y.toNat { q with words := q.words ++ [w] } }))))) ∧
      (∀ q rec, e.effect = .tlaunch q rec → ((s.towerAt (e.lay / 8)).queue q).length < 256 →
        exec (.tlaunchDeferredAppend lay c) s =
          .next (pump (appendRec (e.lay / 8) q (e.lay % 8) (launchOf e.data false 0 0) none (dropReleased e.id s)))))

/-- Flags (R187, R191, R194, R212): an update adds modulo 2^63 or ORs, poison is only ever added, and FLRST alone clears it;
the other flags keep their values. A slot table's owners wait for the next frame (R471). -/
def Obligations.FlagUpdates : Prop :=
  (∀ s lay u, (s.layerAt lay).updates = [u] → u.at_ ≤ s.cycleOf lay → (s.layerAt lay).power ≠ .off →
    ∃ t, exec (.flagUpdateApply lay none) s = .next t ∧ (t.layerAt lay).updates = [] ∧
      flagV ((t.layerAt lay).flag u.idx) =
        (if u.set = true then flagV ((s.layerAt lay).flag u.idx) ||| u.v.extractLsb' 0 63
         else flagV ((s.layerAt lay).flag u.idx) + u.v.extractLsb' 0 63) ∧
      flagP ((t.layerAt lay).flag u.idx) = (flagP ((s.layerAt lay).flag u.idx) || u.v.getLsbD 63) ∧
      ∀ j, j ≠ u.idx → (t.layerAt lay).flag j = (s.layerAt lay).flag j) ∧
  (∀ s lay set i v, exec (.flagUpdateApply lay (some (set, i, v))) s =
    exec (.flagUpdateApply lay none) (arriveFlag lay 3 (s.cycleOf lay) set i v s)) ∧
  (∀ s lay i, ∃ t, exec (.flrstWrite lay i) s = .next t ∧ (t.layerAt lay).flag i = 0 ∧
    ∀ j, j ≠ i → (t.layerAt lay).flag j = (s.layerAt lay).flag j) ∧
  ∀ s tw n owners, ∃ t, exec (.sotWrite tw n owners) s = .next t ∧ (t.towerAt tw).sot = (s.towerAt tw).sot ∧
    (t.towerAt tw).sotNext = some (sotPut (((s.towerAt tw).sotNext).getD (s.towerAt tw).sot) n owners)

/-- Eyelets and the stack bus (R112, R118, R119, R198, R285, R460, R471, R482): a word leaves with a credit, in a short-network slot that
its package owns and that has carried nothing yet, and arrives where there is room, and a credit comes back; the owner of a slot
transmits, a row the base die sends arrives six cycles later, and a slot's beats apply six cycles after it. A retry asserted
three cycles after a slot's transmission keeps what its bad columns carried from applying, and its sender has that to send
again, ahead of everything else: a layer its beats and rows, with a bad flag field its updates, the base die its rows and its
copy slot. Where an own layer no longer sends, that is dropped (R485; logs 31, 32). -/
def Obligations.EyeletsAndTheStackBus : Prop :=
  (∀ s lay e w rest, let y := mapGet .reset (s.layerAt lay).eyelets e
    y.words = w :: rest → y.en = true → y.dir = true → y.credit ≠ 0 → (s.layerAt lay).power ≠ .off →
    let u := s.updLayer lay (fun l =>
      { l with eyelets := mapSet .reset l.eyelets e { y with words := rest, credit := y.credit - 1 } })
    (∀ p, (upto 8).find? (fun p => freeSlot s (lay / 8) p (sourceOf s (lay / 8))) = some p →
      exec (.eyeletWordSend lay e) s = .next (
        if y.peer.extractLsb' 8 8 = s.pkg then (useSlot (lay / 8) p u).updTower (if y.peer.getLsbD 7 then 1 else 0)
          (fun t => { t with shortQ := t.shortQ ++ [(s.pkg, .word y.peer (eyeletName s lay e) w)] })
        else useSlot (lay / 8) p u)) ∧
    ((∀ p, p < 8 → freeSlot s (lay / 8) p (sourceOf s (lay / 8)) = false) → exec (.eyeletWordSend lay e) s = .next s)) ∧
  (∀ s tw p src, freeSlot s tw p src = true →
    mapGet 0 (s.towerAt tw).shortTab (256 * p + s.tick.toNat / 8 % 256) = src + 1 ∧
    ∀ src', freeSlot (useSlot tw p s) tw p src' = false) ∧
  (∀ s lay e w src, let y := s.eyeletAt lay e
    y.en = true → y.dir = false → y.words.length < 16 →
    exec (.eyeletWordArrival lay e { word := w, src := src }) s =
      .next (s.setEyelet lay e { y with words := y.words ++ [w], senders := y.senders ++ [src] })) ∧
  (∀ s lay e, let y := s.eyeletAt lay e
    y.dir = true → y.credit < 16 →
    exec (.eyeletCredit lay e) s = .next (s.setEyelet lay e { y with credit := y.credit + 1 })) ∧
  (∀ s tw b, let c := (s.towerAt tw).cycle
    let lay := 8 * tw + slotOwner (s.towerAt tw) (c % 256)
    slotOwner (s.towerAt tw) (c % 256) < 8 → (s.layerAt lay).power = .run → (s.layerAt lay).failing = none →
    (s.layerAt lay).beats = [b] →
    (s.layerAt lay).outUpd = [] → s.reqs = [] → b.cell < 64 → (∃ n, b.ready = some n ∧ n < c) →
    ∃ t, exec (.stackBusSlot tw) s = .next t ∧ (t.layerAt lay).beats = [] ∧
      (t.towerAt tw).busSlots = (s.towerAt tw).busSlots ++ [{ cycle := c, layer := lay, beats := [b], updates := [] }]) ∧
  (∀ s tw q, let c := (s.towerAt tw).cycle
    slotOwner (s.towerAt tw) (c % 256) = 8 → (∀ l, l < 8 → (s.layerAt (8 * tw + l)).copyLeft = 0) →
    (s.towerAt tw).deliver = [q.id] → s.reqs = [q] → q.cell < 64 →
    ∃ t, exec (.stackBusSlot tw) s = .next t ∧ t.reqs = [{ q with state := .arrived (c + 6) }] ∧ (t.towerAt tw).deliver = [] ∧
      (t.towerAt tw).busSlots = (s.towerAt tw).busSlots ++ [{ cycle := c, layer := 8 * tw, base := true, rows := [q.id] }]) ∧
  (∀ s tw b x, (s.towerAt tw).busSlots = [b] → b.cycle + 6 = (s.towerAt tw).cycle → b.beats = [x] → b.updates = [] →
    (∀ q ∈ s.reqs, q.state ≠ .sent b.cycle) →
    (b.badCols.getLsbD x.cell = false → exec (.stackBeatApply tw 0 false) s =
      .next (settleReleased (applyBeat tw x (s.updTower tw (fun t => { t with busSlots := [] }))))) ∧
    (b.badCols.getLsbD x.cell = true → exec (.stackBeatApply tw 0 false) s =
      .next (settleReleased (s.updTower tw (fun t => { t with busSlots := [] }))))) ∧
  (∀ s tw b (bad : BitVec 64) flags, (s.towerAt tw).busSlots = [b] → b.cycle + 3 = (s.towerAt tw).cycle →
    b.badCols = 0 → b.badFlags = false → bad ≠ 0 ∨ flags = true →
    ∃ t u, exec (.stackBeatApply tw bad flags) s = .next (settleReleased t) ∧
      (t.towerAt tw).busSlots = [{ b with badCols := bad, badFlags := flags }] ∧
      u = sendAgain tw b bad flags s ∧ t.layers = u.layers ∧ t.reqs = u.reqs ∧ (t.towerAt tw).deliver = (u.towerAt tw).deliver ∧
      ∀ k, k < 64 → mapGet 0 (t.towerAt tw).retries k =
        mapGet 0 (s.towerAt tw).retries k + if bad.getLsbD k = true then 1 else 0) ∧
  (∀ s tw b (bad : BitVec 64) flags,
    let again := fun (q : Req) => b.rows.contains q.id && bad.getLsbD q.cell
    let u := sendAgain tw b bad flags s
    (b.base = false → (s.layerAt b.layer).power = .run → (s.layerAt b.layer).failing = none →
      u.reqs = s.reqs.map (fun q => if again q then { q with state := .queued } else q) ∧
      u.layerAt b.layer = { s.layerAt b.layer with
        beats := b.beats.filter (fun x => bad.getLsbD x.cell) ++ (s.layerAt b.layer).beats
        outUpd := (if flags then b.updates.map (fun x => (0, x.1, x.2)) else []) ++ (s.layerAt b.layer).outUpd }) ∧
    (b.base = false → (s.layerAt b.layer).power ≠ .run ∨ (s.layerAt b.layer).failing.isSome →
      u = { s with reqs := s.reqs.filter (fun q => !again q) }) ∧
    (b.base = true →
      u.reqs = s.reqs.map (fun q => if again q then { q with state := .performed } else q) ∧
      (u.towerAt tw).deliver = (s.reqs.filter again).map (fun q => q.id) ++ (s.towerAt tw).deliver ∧
      ∀ l, b.copy = some l → bad ≠ 0 → (u.layerAt (8 * tw + l)).copyLeft = (s.layerAt (8 * tw + l)).copyLeft + 1)) ∧
  ∀ s tw x i, ((applyBeat tw x s).towerAt tw).keeper = beatBytes x (s.towerAt tw).keeper (65536 * x.cell) ∧
    (i < 32 → ∀ m base, mapGet (0 : Byte) (beatBytes x m base) (base + x.off + i) =
      if x.be.getLsbD i = true then x.data.extractLsb' (8 * i) 8 else mapGet 0 m (base + x.off + i))

/-! ### Fabric -/

/-- Plans, sends, ingress and short slots (R203, R204, R453 to R462): arming takes the candidate's size, base and period where no
plan is armed and they are in range; an armed candidate is in force from PLANTICK on, or the first tick after its read, and the
plan before it stays for ticks before that; a source that is read is ready at that tick; a transfer that is ready by its
departure tick departs at it, and one ready later within its slack at the tick it is ready, for this package into the ingress
and for another by its plan; one ready later still misses: MISS is set, MCOUNT counts it, and the counter flag's update carries
the poison. A flit is 288 bytes; one out of turn is refused; one that fails its check, or whose phase has no key, asks for a
replay from it, and after eight such checks in a row its lane has failed; one in turn that checks is decrypted, and the first of
a new phase ends the old key; one for another node goes on by its next hop; one for this package enters the buffer, or, where the
buffer holds 1,792 flits, is dropped with the poisoned update. One that waits is written to its bytes and to no others. A port
sends one packet in a slot, a credit first, and only where the packet's source owns the slot; a message in the tower's queue for
this package takes effect. The header's field sizes and the 1,792 flits, 448 KiB of payload, are the model's choice (log 26). -/
def Obligations.FabricEvents : Prop :=
  (∀ s n b lg, s.plArm = false → n ≠ 0 → 14 ≤ lg.toNat → lg.toNat ≤ 24 →
    exec (.plctlArm n b lg) s = .next { s with plNent := n, plNbase := b, plLogp := lg, plArm := true, planNext := none }) ∧
  (∀ s p lg, s.planNext = some (p, lg) → s.plArm = true → switchTick s ≤ s.tick.toNat →
    exec .planSwitch s = .next { s with plan := p, planLogp := lg, planNext := none,
                                        planPast := (s.planSince, s.plan, s.planLogp) :: s.planPast,
                                        planSince := switchTick s, plCur := !s.plCur, plArm := false }) ∧
  (∀ s tick, (s.planSince ≤ tick → planAt s tick = (s.plan, s.planLogp)) ∧
    ∀ n p lg rest, s.planPast = (n, p, lg) :: rest → tick < s.planSince → n ≤ tick → planAt s tick = (p, lg)) ∧
  (∀ s e x b p, findReleased s e.id = some e → e.transfer = some x → e.phase = 2 →
    (∀ q ∈ s.reqs, q.eff = e.id → q.kind ≠ .recordRead) → objRemote s (capObj x.gs) = false →
    readObj s (e.lay / 8) (capObj x.gs) (capBase x.gs + x.soff) x.len (asidOf s e.ctxKey) = .bytes b p →
    exec (.sendReady e.id) s = .next (setReleased { e with phase := 3, data := b, pois := p, tick := s.tick.toNat }
      (countRetired (e.lay / 8) (capObj x.gs) (capBase x.gs + x.soff) x.len (asidOf s e.ctxKey) false s))) ∧
  (∀ s e x, findReleased s e.id = some e → e.transfer = some x → e.phase = 3 →
    (x.depart + x.slack < e.tick → exec (.sendDepart e.id) s = .next (missSend e x s)) ∧
    ∀ d, (e.tick ≤ x.depart ∧ d = x.depart) ∨ (x.depart < e.tick ∧ e.tick ≤ x.depart + x.slack ∧ d = e.tick) → d ≤ s.tick.toNat →
      (capPkg x.gd = s.pkg →
        exec (.sendDepart e.id) s = .next (sendLocal e x (setReleased { e with phase := 4, data := [] } s))) ∧
      (capPkg x.gd ≠ s.pkg → exec (.sendDepart e.id) s = .next (sendRemote e x d s))) ∧
  (∀ s e x, e.ctxKey < 128 →
    ((missSend e x s).ctxAt e.ctxKey).miss = true ∧
    ((s.ctxAt e.ctxKey).mcount ≠ BitVec.allOnes 16 →
      ((missSend e x s).ctxAt e.ctxKey).mcount = (s.ctxAt e.ctxKey).mcount + 1) ∧
    (flagPkg x.ctr = s.pkg → flagLayer x.ctr / 8 = e.lay / 8 →
      ∃ u ∈ ((missSend e x s).layerAt (flagLayer x.ctr)).updates,
        u.set = false ∧ u.idx = flagIdx x.ctr ∧ u.v = BitVec.ofNat 64 (2 ^ 63))) ∧
  (∀ tw f keys (x : Flit), x.data.length ≤ 256 → (flitWire tw f keys x).length = 288) ∧
  (∀ s tw f x, f < 24 →
    let l := s.linkAt tw f
    let g := openFlit tw f l.rxKeys x
    (l.refuses x = true → exec (.flitArrival tw f (some x)) s = .next s) ∧
    (l.refuses x = false → checksOut tw f l.rxKeys x = false →
      (l.fails < 7 → exec (.flitArrival tw f (some x)) s =
        .next (s.setLink tw f { l with fails := l.fails + 1, replayAsk := some x.q })) ∧
      (∀ k, l.fails = 7 → l.laneOf x.q = some k → ∃ u, exec (.flitArrival tw f (some x)) s = .next (loseLane tw f k u) ∧
        u.linkAt tw f = { l with fails := 0, replayAsk := some x.q })) ∧
    (∀ hop rest, l.refuses x = false → checksOut tw f l.rxKeys x = true → x.route = hop :: rest →
      (s.linkAt hop.1 hop.2).carries = true → exec (.flitArrival tw f (some x)) s =
        .next (joinLink hop.1 hop.2 [{ g with route := rest, tag := 0 }] (s.setLink tw f (l.took x)))) ∧
    (l.refuses x = false → checksOut tw f l.rxKeys x = true → x.route = [] → x.xfer ∉ l.dropped →
      ∃ t, exec (.flitArrival tw f (some x)) s = .next t ∧
      (t.linkAt tw f).expectQ = (x.q + 1) % 2 ^ 48 ∧ (t.linkAt tw f).fails = 0 ∧ (t.linkAt tw f).replayAsk = none ∧
      (t.linkAt tw f).rxKeys = (if x.phase = l.rxPhase then l.rxKeys else mapSet 0 l.rxKeys (bnat l.rxPhase) 0) ∧
      (l.inbound.length < 1792 → (t.linkAt tw f).inbound = l.inbound ++ [g] ∧ (t.linkAt tw f).ovf = l.ovf) ∧
      (1792 ≤ l.inbound.length → (t.linkAt tw f).inbound = l.inbound ∧
        (l.ovf ≠ BitVec.allOnes 8 → (t.linkAt tw f).ovf = l.ovf + 1) ∧
        ∃ u ∈ (t.layerAt (flagLayer x.ctr)).updates, u.set = false ∧ u.idx = flagIdx x.ctr ∧ u.v = BitVec.ofNat 64 (2 ^ 63)))) ∧
  (∀ s tw f x rest pa l, (s.linkAt tw f).inbound = x :: rest → flitRuns s x = [(x.off, x.data)] →
    locate s tw x.obj x.off x.asid true = .at_ pa l →
    ∃ t, exec (.flitArrival tw f none) s = .next t ∧ (t.linkAt tw f).inbound = rest ∧
      (∀ j b, x.data[j]? = some b → t.memByte (pa + j) = b) ∧
      ∀ a, ¬ (pa ≤ a ∧ a < pa + x.data.length) → t.memByte a = s.memByte a) ∧
  (∀ s tw f x rest o1 d1 o2 d2 pa l pb m, (s.linkAt tw f).inbound = x :: rest → flitRuns s x = [(o1, d1), (o2, d2)] →
    locate s tw x.obj o1 x.asid true = .at_ pa l → locate s tw x.obj o2 x.asid true = .at_ pb m →
    ∃ t, exec (.flitArrival tw f none) s = .next t ∧ (t.linkAt tw f).inbound = rest ∧
      (∀ j b, d2[j]? = some b → t.memByte (pb + j) = b) ∧
      (∀ j b, d1[j]? = some b → ¬ (pb ≤ pa + j ∧ pa + j < pb + d2.length) → t.memByte (pa + j) = b) ∧
      ∀ a, ¬ (pa ≤ a ∧ a < pa + d1.length) → ¬ (pb ≤ a ∧ a < pb + d2.length) → t.memByte a = s.memByte a) ∧
  (∀ s tw port, port < 8 →
    let y := s.towerAt tw
    let own := freeSlot s tw port (sourceOf s tw)
    ((∀ src, freeSlot s tw port src = false) → exec (.shortNetworkSlot tw port) s = .next s) ∧
    (∀ peer rest, y.credits = peer :: rest → own = true →
      let u := useSlot tw port (s.updTower tw (fun t => { t with credits := rest }))
      exec (.shortNetworkSlot tw port) s = .next (
        if peer.extractLsb' 8 8 = s.pkg then u.updTower (peer.toNat / 2 ^ 7 % 2) (fun t => { t with
          shortQ := t.shortQ ++ [(s.pkg, .credit (8 * (peer.toNat / 2 ^ 7 % 2) + peer.toNat / 2 ^ 4 % 8) (peer.toNat % 16))] })
        else u)) ∧
    (∀ m, y.credits = [] ∨ own = false → shortNext s tw port = some m →
      exec (.shortNetworkSlot tw port) s =
        .next (useSlot tw port (s.updTower tw (fun t => { t with shortQ := t.shortQ.erase m }))) ∧
      m.1 ≠ s.pkg ∧ m ∈ y.shortQ ∧ freeSlot s tw port (m.2.source s tw) = true)) ∧
  (∀ s tw m, (s.towerAt tw).shortQ.find? (fun e => e.1 == s.pkg) = some m →
    ∃ t, exec (.shortNetworkSlot tw 8) s = .next t ∧
      deliverMsg tw m.2 (s.updTower tw (fun t => { t with shortQ := t.shortQ.erase m })) = .next t) ∧
  ∀ s tw port k o, k < 256 → ∃ t, exec (.slotTableLoad tw port k o) s = .next t ∧
    mapGet 0 (t.towerAt tw).shortTab (256 * port + k) = (match o with | some o => o + 1 | none => 0) ∧
    ∀ j, j ≠ 256 * port + k → mapGet 0 (t.towerAt tw).shortTab j = mapGet 0 (s.towerAt tw).shortTab j

namespace Sys2Proof.Claims

/-- The event changes this link alone, to `l`. -/
def LinkGoes (i : Instr) (tw f : Nat) (s : State) (l : Link) : Prop := exec i s = .next (s.setLink tw f l)

end Sys2Proof.Claims

/-- Links (R454, R462 to R465, R470): enabling starts a link's training; four or more locked lanes end it, and this end presents its
identity record, fewer do not; an identity that no other port has makes the link Active, or Narrowed below 16 lanes; where two
ports have one the lower substitution count is quarantined, and at equal counts both are, with an alarm; a record that does not
verify leaves the link as it is, with an alarm; a training that runs out and a disable take the link Down, its flits not
acknowledged gone; a release trains it again; a lane that fails narrows an Active or Narrowed link, with a replay, or takes any
link but a training one Down when fewer than four are left; a replay begins at a flit not acknowledged; an acknowledgement frees
the flits up to it; a new key is in force from the first new flit of a later tick, and the old one ends when the flits under it
are acknowledged; a phase that has run out of numbers holds the link in Rekey; the status clears. The numbering of the flits
from 0 again at each training, and the tick in which a rollover begins, are the model's choice (log 26). Time (R206, R465, R467
to R469): an exchange that a REALIGN started on a link in use measures it, frees the REALIGNs that wait for it and, on the
upstream link, corrects the counter by the servo; a host that has the duty gets every exchange's record, and its reply corrects
the counter for the upstream link's; the servo steps the counter once before the lock, locks within 16 ticks, slews it then by
no more than one tick in 4,096, and loses the lock beyond 256; a link without an exchange becomes stale, and HOLD reads 1 while
the upstream link of a locked counter is. The side of ASYM, the rounding down, and the slew's rate are the model's choice
(log 27). -/
def Obligations.LinksAndTime : Prop :=
  (∀ s tw f, let l := s.linkAt tw f
    (l.state = .down → LinkGoes (.linkEnable tw f) tw f s { l with state := .train, lanes := 0, trainLeft := trainTicks }) ∧
    (∀ m, l.state = .train → 4 ≤ laneCount m → LinkGoes (.lanesLock tw f m) tw f s { l with
      state := .identify, lanes := m, width := BitVec.ofNat 3 (min (laneCount m / 4) 4), trainLeft := 0, expectQ := 0, nextQ := 0,
      unacked := [], pending := [], replay := none, resend := none, fails := 0, replayAsk := none, opened := [],
      shown := ownIdentity s }) ∧
    (∀ m, l.state = .train → laneCount m < 4 → LinkGoes (.lanesLock tw f m) tw f s { l with lanes := m }) ∧
    (∀ r, l.state = .identify → identityOk s r = false →
      exec (.identify tw f r.dom r.pkg r.count r.toIdentityProof) s = .next { s with mail := s.mail ++ [.alarm 463] }) ∧
    (∀ r, l.state = .identify → identityOk s r = true →
      (portsWith s tw f r.dom r.pkg = [] → LinkGoes (.identify tw f r.dom r.pkg r.count r.toIdentityProof) tw f s { l with
        ident := some (r.dom, r.pkg, r.count), state := if l.width = 4 then .active else .narrowed }) ∧
      ∀ u g m, portsWith s tw f r.dom r.pkg = [(u, g, m)] → ∃ t, exec (.identify tw f r.dom r.pkg r.count r.toIdentityProof) s = .next t ∧
        (r.count.toNat < m.toNat → (t.linkAt tw f).state = .quarantined ∧ (t.linkAt u g).state = (s.linkAt u g).state) ∧
        (m.toNat < r.count.toNat → (t.linkAt u g).state = .quarantined ∧ (t.linkAt tw f).state ≠ .quarantined) ∧
        (m = r.count → (t.linkAt tw f).state = .quarantined ∧ (t.linkAt u g).state = .quarantined ∧ .alarm 464 ∈ t.mail)) ∧
    (l.state = .train → exec (.trainTimeout tw f) s = .next (linkDown tw f s)) ∧
    (l.state ≠ .down → exec (.linkDisable tw f) s = .next (linkDown tw f s)) ∧
    ((linkDown tw f s).linkAt tw f).state = .down ∧ ((linkDown tw f s).linkAt tw f).unacked = [] ∧
    (l.state = .quarantined → LinkGoes (.quarantineRelease tw f) tw f s
      { l with state := .train, ident := none, trainLeft := trainTicks }) ∧
    (∀ k, l.state = .active ∨ l.state = .narrowed → 4 ≤ laneCount (setBitTo l.lanes k false) →
      ∃ t, exec (.laneFailure tw f k) s = .next t ∧ (t.linkAt tw f).state = .narrowed ∧
        (t.linkAt tw f).width = BitVec.ofNat 3 (min (laneCount (setBitTo l.lanes k false) / 4) 4) ∧
        (∀ x rest, l.unacked = x :: rest →
          (t.linkAt tw f).replay = some (x.q, l.nextQ) ∧ (t.linkAt tw f).resend = some x.q)) ∧
    (∀ k, l.state ≠ .down → l.state ≠ .train → laneCount (setBitTo l.lanes k false) < 4 →
      exec (.laneFailure tw f k) s = .next (linkDown tw f (s.setLink tw f { l with lanes := setBitTo l.lanes k false }))) ∧
    (∀ q : BitVec 48, (∃ x ∈ l.unacked, x.q = q.toNat) →
      LinkGoes (.flitReplay tw f q) tw f s { l with replay := some (q.toNat, l.nextQ), resend := some q.toNat }) ∧
    (∀ q : BitVec 48, l.replay = none ∨ (∀ a b, l.replay = some (a, b) → ∀ x ∈ l.unacked, q.toNat < x.q → b ≤ x.q) →
      LinkGoes (.flitAck tw f q) tw f s
        { l with unacked := l.unacked.filter (fun x => q.toNat < x.q), replay := none, resend := none }) ∧
    (∀ key, l.rollover = none → l.rolloverAsked = none → LinkGoes (.keyInstall tw f key) tw f s { l with
      txKeys := mapSet 0 l.txKeys (bnat !l.phase) key, rxKeys := mapSet 0 l.rxKeys (bnat !l.rxPhase) key,
      rolloverAsked := some s.tick.toNat }) ∧
    (∀ n now, l.rolloverAsked = some n →
      (n < now → l.replay = none → beginRollover now l =
        { l with rolloverAsked := none, rollover := some l.nextQ, phase := !l.phase, phaseCount := 0 }) ∧
      (now ≤ n ∨ l.replay.isSome → beginRollover now l = l)) ∧
    (∀ q, l.rollover = some q → (∀ x ∈ l.unacked, q ≤ x.q) → LinkGoes (.keyRolloverComplete tw f) tw f s { l with
      rollover := none, txKeys := mapSet 0 l.txKeys (bnat !l.phase) 0,
      state := if l.state = .rekey then l.before else l.state }) ∧
    (l.state = .active ∨ l.state = .narrowed → 2 ^ 36 ≤ l.phaseCount →
      LinkGoes (.keyPhaseExhausted tw f) tw f s { l with state := .rekey, before := l.state }) ∧
    (∀ a, LinkGoes (.lstatClear tw f a) tw f s { l with asym := a, latec := 0, ovf := 0 })) ∧
  (∀ s k, s.seed = some k → ∃ r, ownIdentity s = some r ∧ r.dom = s.dom ∧ r.pkg = s.pkg ∧ r.count = s.count ∧
    r.edKey = Config.ed25519Public k ∧ r.mlKey = Config.mldsa65Public k) ∧
  ((∀ s tw f t1 t2 t3 t4,
    let l := s.linkAt tw f
    let x := exchange l.asym t1 t2 t3 t4
    let u := s.setLink tw f { l with delay := BitVec.ofInt 16 (x.2 / 16), stale := false, staleLeft := staleTicks }
    (exchanging s tw f = false ∨ l.carries = false → exec (.timestampExchangeDone tw f t1 t2 t3 t4) s = .next s) ∧
    (exchanging s tw f = true → l.carries = true →
      ((s.towerAt tw).dsplit.getLsbD 3 = false → isUpstream s tw f = false →
        exec (.timestampExchangeDone tw f t1 t2 t3 t4) s = .next (exchangeOver tw f u)) ∧
      ((s.towerAt tw).dsplit.getLsbD 3 = false → isUpstream s tw f = true →
        exec (.timestampExchangeDone tw f t1 t2 t3 t4) s = .next (exchangeOver tw f (servo x.1 u))) ∧
      ((s.towerAt tw).dsplit.getLsbD 3 = true →
        exec (.timestampExchangeDone tw f t1 t2 t3 t4) s = .next (exchangeOver tw f (u.updTower tw (fun t : Tower =>
          { t with host := t.host ++ [HostReq.servo f t1 t2 t3 t4] }))))) ∧
    x = ((16 * (t2 - t1).toInt - (16 * (t4 - t3).toInt + l.asym.toInt)) / 2,
         (16 * (t2 - t1).toInt + (16 * (t4 - t3).toInt + l.asym.toInt)) / 2)) ∧
  (∀ s off,
    (s.ftLock = false → s.ftStepped = false → servo off s = { s with
      ftLoff := sat16 off, tick := s.tick - BitVec.ofInt 64 (off / 16), ftStepped := true }) ∧
    (s.ftLock = false → s.ftStepped = true → off.natAbs ≤ 256 → servo off s = { s with ftLoff := sat16 off, ftLock := true }) ∧
    (s.ftLock = false → s.ftStepped = true → 256 < off.natAbs → servo off s = { s with ftLoff := sat16 off }) ∧
    (s.ftLock = true → off.natAbs ≤ 4096 → ∃ n, 4096 ≤ n ∧ servo off s =
      { s with ftLoff := sat16 off, ftRate := -off.sign, ftEvery := n, ftCount := 0 }) ∧
    (s.ftLock = true → 4096 < off.natAbs → servo off s = { s with
      ftLoff := sat16 off, ftLock := false, ftStepped := false, ftRate := 0 })) ∧
  (∀ d s, d ≠ 0 → s.ftRate ≠ 0 →
    (s.ftEvery ≤ s.ftCount + d → slewed d s = (((d : Int) + s.ftRate).toNat, { s with ftCount := 0 })) ∧
    (s.ftCount + d < s.ftEvery → slewed d s = (d, { s with ftCount := s.ftCount + d }))) ∧
  (∀ s tw off, (servoRequest s tw = none → exec (.hostServoReply { tower := tw, offset := off }) s = .next s) ∧
    ∀ f, servoRequest s tw = some f → exec (.hostServoReply { tower := tw, offset := off }) s = .next
      (let u := s.updTower tw (fun t => { t with host := dropServo t.host })
       if isUpstream s tw f = true then servo off u else u)) ∧
  ∀ s tw f, LinkGoes (.staleTimeout tw f) tw f s { s.linkAt tw f with stale := true, staleLeft := 0 } ∧
    (isUpstream s tw f = true → s.ftLock = true →
      (readSpecial s 0x0BB).getLsbD 8 = (s.linkAt tw f).stale))

/-! ### Launch, scheduling, gangs -/

namespace Sys2Proof.Claims

/-- A frame's header (R399): its type, tower, queue and sequence number. -/
def frameType (h : BitVec 128) : Nat := (h.extractLsb' 0 8).toNat
def frameTower (h : BitVec 128) : Nat := (h.extractLsb' 8 1).toNat
def frameQueue (h : BitVec 128) : Nat := (h.extractLsb' 9 4).toNat
def frameSeq (h : BitVec 128) : Nat := (h.extractLsb' 16 16).toNat

/-- A frame is appended: the ring expects the next number, and the queue holds one record more, last, with the record's image,
argument and share, the save area it names and nothing started (R399, R400, R403). -/
def frameAppended (h : BitVec 128) (rec : BitVec 512) (save : Option Cap) (s t : State) : Prop :=
  (∃ r, (t.towerAt (frameTower h)).queue (frameQueue h) = (s.towerAt (frameTower h)).queue (frameQueue h) ++ [r] ∧
    r.state = .queued ∧ r.save = save ∧ r.queue = frameQueue h ∧ r.launch.img = rec.extractLsb' 0 128 ∧
    r.launch.arg = rec.extractLsb' 128 128 ∧ r.launch.share = rec.extractLsb' 256 64 ∧ r.launch.host = true) ∧
  mapGet 0 (t.towerAt (frameTower h)).rings (frameQueue h) = (frameSeq h + 1) % 65536

/-- The package takes frames on the ring, where no TLAUNCH waits for a free entry, and this one is next. -/
def frameDue (h : BitVec 128) (s : State) : Prop :=
  5 ≤ s.boot ∧ s.linkUp = true ∧ ((s.towerAt (frameTower h)).queue (frameQueue h)).length < 256 ∧
  launchWaits s (frameTower h) (frameQueue h) = false ∧
  frameSeq h = mapGet 0 (s.towerAt (frameTower h)).rings (frameQueue h)

/-- Queue by queue, enabled or not, the heads of a tower are evaluated (R404, R407), and a page that a head's image or save record
waits for is asked for. -/
def headsEvaluated (tw : Nat) (s : State) : State :=
  askPages tw ((upto 16).foldl (fun s q => evalHead tw q 257 s) s)

/-- Tower `tw` asks its host to place record `id`, and no other. -/
def placeAsked (tw id : Nat) (s : State) : Prop :=
  (∃ f, HostReq.place id f ∈ (s.towerAt tw).host) ∧ ∀ j f, HostReq.place j f ∈ (s.towerAt tw).host → j = id

/-- That request is answered. -/
def placeAnswered (tw id : Nat) (s : State) : State :=
  s.updTower tw (fun t => { t with host := t.host.filter (fun h => match h with | .place j _ => j != id | _ => true) })

end Sys2Proof.Claims

/-- Frames, the status ring and the scheduler (R399 to R402, R404, R405, R408 to R412, R414, R416): a frame in turn is appended,
last in its queue; the entries the host frees leave the status ring; the best choice of a tower is placed, or, where the host
has the duty, given to it with the free granules of the layers; without a choice nothing is placed; an eligible head that
fits ages, and any other head's age is 0; a placement that ends makes the record Placed and, at the next event, its task
Ready, or holds a gang's member and tells the coordinator READY; the host's answer places the head where the grant is good,
is turned back where it is not, and leaves the head in its queue where it is none. Three points are the model's choice, notes/assumptions/28.md
(DEDUCED), and no rule's: that an assignment which does not fit is reported in the tower's host requests (PLACEBAD; R416 says
`reported as cause 16`), that a choice which fails its checks is taken to its rejection without asking the host (`choiceSound`),
and that the pages asked for a record are forgotten once it is taken (`doneAsking`). -/
def Obligations.LaunchAndScheduling : Prop :=
  (∀ h rec s, frameDue h s → frameType h = 1 → ∃ t, exec (.launchFrame h rec) s = .next t ∧ frameAppended h rec none s t) ∧
  (∀ h rec save s, frameDue h s → frameType h = 2 →
    ∃ t, exec (.restoreFrame h rec save) s = .next t ∧ frameAppended h rec (some save) s t) ∧
  (∀ n s, ∃ t, exec (.statusRingFree n) s = .next t ∧ s.status.drop n <+: t.status ∧
    ((s.linkUp = false ∨ ((s.towerAt 0).statusQ = [] ∧ (s.towerAt 1).statusQ = [])) → t.status = s.status.drop n)) ∧
  (∀ tw s, let u := headsEvaluated tw s
    statusFull u tw = false →
    (chooseBest (u.towerAt tw).lastQueue (choices u tw) = none → exec (.schedulerSelect tw) s = .next u) ∧
    ∀ c p, chooseBest (u.towerAt tw).lastQueue (choices u tw) = some c → c.place = some p →
      ((u.towerAt tw).dsplit.getLsbD 4 = false ∨ choiceSound u tw c = false →
        exec (.schedulerSelect tw) s = .next (doneAsking (takeChoice tw c p u) c.rec_)) ∧
      ((u.towerAt tw).dsplit.getLsbD 4 = true → choiceSound u tw c = true →
        exec (.schedulerSelect tw) s = .next (u.updTower tw (fun t =>
          { t with lastQueue := some c.q, host := t.host ++ [.place c.rec_.id (freeLayers u tw)] })))) ∧
  (∀ tw q r s, (∃ c ∈ choices s tw, c.q = q) → (s.towerAt tw).queueHead q = some r →
    exec (.headAgeing tw q) s = .next (setHead tw q { r with age := r.age + 1 } s)) ∧
  (∀ tw q r s, (∀ c ∈ choices s tw, c.q ≠ q) → (s.towerAt tw).queueHead q = some r →
    exec (.headAgeing tw q) s = .next (setHead tw q { r with age := 0 } s)) ∧
  (∀ lay c r s, recOf s lay c = some r → (s.ctxAt (ctxKey lay c)).task = .placed →
    ((s.ctxAt (ctxKey lay c)).state = .placing → r.ended.gcnt = 0 →
      ∃ t, exec (.placementComplete lay c) s = .next t ∧ recOf t lay c = some { r with state := .placed } ∧
        t.ctxAt (ctxKey lay c) = { s.ctxAt (ctxKey lay c) with state := .resident }) ∧
    ((s.ctxAt (ctxKey lay c)).state = .resident → r.state = .placed →
      ∃ t, exec (.placementComplete lay c) s = .next t ∧ recOf t lay c = some { r with state := .started } ∧
        (t.ctxAt (ctxKey lay c)).task = .ready ∧ (t.ctxAt (ctxKey lay c)).state = .resident) ∧
    ((s.ctxAt (ctxKey lay c)).state = .placing → r.ended.gcnt ≠ 0 →
      ∃ u, exec (.placementComplete lay c) s = .next (gangMsg 0 (lay / 8) r.launch u) ∧
        (u.ctxAt (ctxKey lay c)).state = .held ∧ recOf u lay c = some { r with state := .gangHeld })) ∧
  (∀ tw id s, placeAsked tw id s → exec (.hostPlaceReply tw none) s = .next (placeAnswered tw id s)) ∧
  ∀ tw id l gs c s, placeAsked tw id s →
    let u := placeAnswered tw id s
    (choices u tw).find? (fun x => x.rec_.id == id) = some c → imageCheck u c.rec_.launch c.image = none →
    let fit := fitsIn (granted u (8 * tw + l) c.rec_.launch.share gs) u tw l c.rec_.launch c.image
    (∀ p, fit = some p → exec (.hostPlaceReply tw (some (l, gs))) s = .next (doneAsking (takeChoice tw c p u) c.rec_)) ∧
    (fit = none → exec (.hostPlaceReply tw (some (l, gs))) s =
      .next (u.updTower tw (fun t => { t with host := t.host ++ [.placeBad id] })))

namespace Sys2Proof.Claims

/-- One of a gang's messages to each tower of the list, from the coordinator (R412, R462). -/
def tellTowers (m : Nat → ShortMsg) (fs : List Nat) (s : State) : State :=
  fs.foldl (fun s f => sendMsg 0 (BitVec.ofNat 8 (f / 2)) (f % 2) (m f) s) s

/-- The towers that reported a member of the gang, each once. -/
def reporters (g : Gang) : List Nat := (g.ready.map (fun r => r.2)).eraseDups

end Sys2Proof.Claims

/-- Gangs (R412, R413): at the coordinator the first READY opens the gang's entry, a later one joins it, and the one that
completes it (for a gang of one, the first) sends START for the tick 50,000 ticks on to every tower that reported and ends the entry; one of a failed gang is
answered FAIL; a member that has its tick starts at it; a gang that is not complete in time is aborted at every tower that
reported; a member that fails marks the gang failed, and every tower that reported is told; START gives each member held its
tick; a tower that is not locked takes part in no start (R469); an abort frees the contexts of the members held, and puts a
record back at the head of its queue, not to be selected before that time has passed. Three points are the model's choice,
notes/assumptions/28.md, and no rule's: the start tick is exactly 50,000 ticks on, where R412 says `at least`; the time of an
abort is that of the aborting tower's own GTO, where R413 says `the same time`; and a member held whose tower has lost its lock
does not start (DEDUCED from R469). -/
def Obligations.Gangs : Prop :=
  (∀ gid gmi n f s, coordinator gid = s.pkg → (∀ g ∈ s.gangs, g.gid ≠ gid) → 1 < n →
      exec (.gangReady gid gmi n f) s = .next { s with gangs := s.gangs ++
        [{ gid := gid, count := n, ready := [(gmi, f)], first := s.tick.toNat, start := none, failed := false }] }) ∧
  (∀ gid gmi n f s, coordinator gid = s.pkg → (∀ g ∈ s.gangs, g.gid ≠ gid) → n ≤ 1 →
      exec (.gangReady gid gmi n f) s = .next (tellTowers (fun f => .gang 1 gid 0 n f (s.tick + 50000)) [f] s)) ∧
  (∀ gid gmi n f g s, coordinator gid = s.pkg → s.gangs.find? (fun x => x.gid == gid) = some g → (gmi, f) ∉ g.ready →
    let g' : Gang := { g with count := n, ready := g.ready ++ [(gmi, f)] }
    let rest := s.gangs.filter (fun x => x.gid != gid)
    (g.failed = false → g.ready.length + 1 < n → exec (.gangReady gid gmi n f) s = .next { s with gangs := rest ++ [g'] }) ∧
    (g.failed = false → n ≤ g.ready.length + 1 → exec (.gangReady gid gmi n f) s =
      .next (tellTowers (fun f => .gang 1 gid 0 n f (s.tick + 50000)) (reporters g') { s with gangs := rest })) ∧
    (g.failed = true → ∃ t, exec (.gangReady gid gmi n f) s = .next t ∧
      t.towers = (sendMsg 0 (BitVec.ofNat 8 (f / 2)) (f % 2) (.gang 4 gid gmi n f 0) s).towers ∧
      t.gangs = if n ≤ g.ready.length + 1 then rest else rest ++ [g'])) ∧
  (∀ tw gid tick s, ∃ t, exec (.gangStart tw gid tick) s = .next t ∧
    (∀ m ∈ heldMembers s tw gid, (t.ctxAt (ctxKey m.2.1 m.2.2)).startTick = some tick) ∧
    ∀ k, (∀ m ∈ heldMembers s tw gid, k ≠ ctxKey m.2.1 m.2.2) → t.ctxAt k = s.ctxAt k) ∧
  (∀ lay c r n s, (s.ctxAt (ctxKey lay c)).startTick = some n → (s.ctxAt (ctxKey lay c)).state = .held →
    n.toNat ≤ s.tick.toNat → recOf s lay c = some r →
      ((s.ftLock || s.ftGm) = true → ∃ t, exec (.gangStartTick lay c) s = .next t ∧
        (t.ctxAt (ctxKey lay c)).task = .ready ∧ (t.ctxAt (ctxKey lay c)).state = .resident) ∧
      ((s.ftLock || s.ftGm) = false → exec (.gangStartTick lay c) s = .next s)) ∧
  (∀ gid g s, s.gangs.find? (fun x => x.gid == gid) = some g → g.failed = false →
    g.first + 2 ^ ((s.towerAt 0).gto.toNat + 16) ≤ s.tick.toNat →
    exec (.gangTimeout gid) s = .next (tellTowers (fun f => .gang 2 gid 0 g.count f 0) (reporters g)
      { s with gangs := s.gangs.filter (fun x => x.gid != gid) })) ∧
  (∀ tw gid s, ∃ t, exec (.gangAbort tw gid) s = .next t ∧
    ∀ m ∈ heldMembers s tw gid, t.ctxAt (ctxKey m.2.1 m.2.2) = .free) ∧
  (∀ tw gid r lay c s, heldMembers s tw gid = [(r, lay, c)] → ∃ t, exec (.gangAbort tw gid) s = .next t ∧
    ∃ r', (t.towerAt tw).queue r.queue = r' :: (s.towerAt tw).queue r.queue ∧ r'.id = r.id ∧ r'.state = .head ∧
      r'.notBefore = s.tick.toNat + 2 ^ ((s.towerAt tw).gto.toNat + 16)) ∧
  (∀ gid g s, coordinator gid = s.pkg → s.gangs.find? (fun x => x.gid == gid) = some g → g.failed = false →
    g.ready.length + 1 < g.count →
    ∃ t g', exec (.gangFail gid) s = .next t ∧ t.gangs = s.gangs.filter (fun x => x.gid != gid) ++ [g'] ∧
      g'.gid = g.gid ∧ g'.failed = true ∧ g'.count = g.count ∧
      t.towers = (tellTowers (fun f => .gang 4 gid 0 g.count f 0) (reporters g) s).towers)

/-! ### The end of a task, traps, pre-emption -/

/-- Leaving a context (R209, R210, R414, R416, R420 to R428, R431): an exited task retires once its counters are zero and its
results have landed; a trap's record is written after the discard and the landings, and the task is Trapped until the
supervisor or the host resumes it at the entry of its oldest discarded region or kills it; a pre-emption request that passes
its checks is the layer's, and goes from the discard to a kill or a save; a tagged access that has performed leaves the saved
task with one item fewer outstanding. Two points are the model's choice, notes/assumptions/16.md (DEDUCED), and no rule's: a save
over an area with pages under policy 1, 2 or 3 ends with RES 1 as well, those pages taking no bytes; and a request from the host
takes effect from the cycle in which it comes. -/
def Obligations.LeavingAContext : Prop :=
  (∀ s lay c, let x := s.ctxAt (ctxKey lay c)
    (x.state = .releasing → x.exiting.isSome → x.killing = false → x.regions = [] → (∀ e ∈ x.n, e.2 = 0) →
      settling lay c s = false → holding lay c s = false → statusFull s (lay / 8) = false →
      ∃ t, exec (.taskRetire lay c) s = .next t ∧ t.ctxAt (ctxKey lay c) = .free) ∧
    (x.state = .releasing → x.killing = false → settling lay c s = true ∨ holding lay c s = true →
      exec (.taskRetire lay c) s = .next s) ∧
    (x.state = .releasing → x.exiting.isSome → x.killing = true → x.regions = [] → settling lay c s = false →
      statusFull s (lay / 8) = false →
      ∃ t, exec (.killRelease lay c) s = .next t ∧ t.ctxAt (ctxKey lay c) = .free) ∧
    (∀ tr, x.trap = some tr → x.state = .discarding → x.regions = [] → x.trapStep < (s.layerAt lay).step →
      settling lay c s = false → tr.cause ≠ .pgKill → ∃ t, exec (.trapRecordWrite lay c) s = .next t ∧
        (t.ctxAt (ctxKey lay c)).task = .trapped ∧ (t.ctxAt (ctxKey lay c)).state = .resident ∧
        (t.ctxAt (ctxKey lay c)).trap = none ∧ (t.ctxAt (ctxKey lay c)).tseq = x.tseq + 1 ∧
        (t.ctxAt (ctxKey lay c)).pc = x.pc ∧ (t.ctxAt (ctxKey lay c)).resume = x.pc ∧
        (t.layerAt lay).tpend = setBitTo (s.layerAt lay).tpend c true) ∧
    (hostHasTrap s lay c = true → x.task = .trapped → exec (.hostTrapResume lay c) s = .next
      (((dropHostTrap lay c s).updLayer lay (fun l => { l with tpend := setBitTo l.tpend c false })).updCtx (ctxKey lay c)
        (fun x => { x with task := .ready, wait := .resumeHold, waited := 0, pc := x.resume, idle := 0 }))) ∧
    (hostHasTrap s lay c = true → x.task = .trapped → c ≠ 4 →
      exec (.hostTrapKill lay c) s = .next (killTask lay c (dropHostTrap lay c s))) ∧
    (hostHasTrap s lay 4 = true → (s.ctxAt (ctxKey lay 4)).task = .trapped → exec (.hostTrapKill lay 4) s =
      .next (redeliverFaults lay (placeSupervisor lay (leaveForGood lay 4 (dropHostTrap lay 4 s))))) ∧
    (∀ area, (s.layerAt lay).preq = none → c < 4 → x.task ≠ .free → capNull area = false → s.capValid area = true →
      hasRight area 1 = true → 512 ≤ capLimit area - capBase area →
      exec (.hostPreemptRecord lay c false area) s = .next (s.updLayer lay (fun l => { l with
        preq := some { ctx := c, kill := false, area := area, host := true, since := s.cycleOf lay } }))) ∧
    (∀ p, (s.layerAt lay).preq = some p → p.ctx = c → p.since ≤ s.cycleOf lay →
      (x.state = .resident → x.task ≠ .trapped → x.task ≠ .placed → (s.layerAt lay).power = .run →
        ∃ t, exec (.preemptEffect lay c) s = .next t ∧ (t.ctxAt (ctxKey lay c)).state = .discarding ∧
          (t.ctxAt (ctxKey lay c)).trap = none ∧ (t.layerAt lay).switch = true) ∧
      (x.state = .discarding → x.trap = none → x.regions = [] → x.trapStep < (s.layerAt lay).step →
        (p.kill = true → exec (.preemptEffect lay c) s = .next (killTask lay c s)) ∧
        (p.kill = false → settling lay c s = false → exec (.preemptEffect lay c) s =
          .next (withdrawParked (ctxKey lay c) (s.updCtx (ctxKey lay c) (fun x => { x with state := .saving }))))) ∧
      ((x.state = .placing ∨ x.state = .held ∨ (x.state = .resident ∧ x.task = .placed)) → p.kill = true →
        exec (.preemptEffect lay c) s = .next (killTask lay c s)) ∧
      (x.state = .free → exec (.preemptEffect lay c) s =
        .next (s.updLayer lay (fun l => { l with preq := none, preqRes := 2 })))) ∧
    (∀ p d, (s.layerAt lay).preq = some p → p.ctx = c → x.state = .saving → saveWaits s (ctxKey lay c) = false →
      resumeDesc s lay x = .ok d →
      let b := saveRecord s lay c (s.nextId % 2 ^ 32) d
      (capLimit p.area - capBase p.area < b.length →
        ∃ t, exec (.saveRecordWrite lay c) s = .next t ∧ (t.ctxAt (ctxKey lay c)).state = .resident ∧
          (t.layerAt lay).preq = none ∧ (t.layerAt lay).preqRes = 3) ∧
      (b.length ≤ capLimit p.area - capBase p.area →
        (∀ w ∈ areaPlaces s (lay / 8) (capObj p.area) (capBase p.area) b.length (asidOf s (ctxKey lay c)),
          w.2.2 ≠ .host ∧ ∀ np z n, w.2.2 ≠ .policy 0 np z n) →
        ∃ t, exec (.saveRecordWrite lay c) s = .next t ∧ t.ctxAt (ctxKey lay c) = .free ∧ (t.layerAt lay).preq = none ∧
          (t.layerAt lay).preqRes = 1))) ∧
  ((∀ s lay c, c < 4 → mtsrBad { s with lay := lay, ctx := 4 } 0x032 (BitVec.ofNat 64 (c + 4)) = false →
    exec (.preqKill lay c) s = .next (landSpecial lay 4 0x032 (onesMask 64) ((BitVec.ofNat 64 (c + 4)).setWidth 32768
      ||| ((s.ctxAt (ctxKey lay 4)).gReg 0).setWidth 32768 <<< 64) s)) ∧
  (∀ s lay c g, c < 4 → g < 16 → mtsrBad { s with lay := lay, ctx := 4 } 0x032 (BitVec.ofNat 64 (c + 8 * g)) = false →
    exec (.preqSave lay c g) s = .next (landSpecial lay 4 0x032 (onesMask 64) ((BitVec.ofNat 64 (c + 8 * g)).setWidth 32768
      ||| ((s.ctxAt (ctxKey lay 4)).gReg g).setWidth 32768 <<< 64) s)) ∧
  (∀ s q k v, s.findReq q.id = some q → q.srid = some k → 128 ≤ q.ctxKey → q.state = .performed → q.kind = .store false →
    s.saved = [v] → v.srid = k → (∀ r ∈ s.reqs, r.id ≠ q.id → r.eff ≠ q.eff) → q.ctr = none →
    ∃ t, exec (.taggedItemComplete q.id) s = .next t ∧ t.saved = [{ v with outst := v.outst - 1 }] ∧
      ∀ r, r ∈ t.reqs ↔ r ∈ s.reqs ∧ r.id ≠ q.id))

/-! ### Memory control, power, failures, boot -/

/-- TINV, fault service and the loads of the shared stores (R215, R416, R442, R443, R445): an invalidation leaves no matching
entry and waits for the requests that hold a matching leaf; it is over when none of those it waits for still does; a serviced
record closes, and the requests parked on it, or waiting for a record, are translated again; a walk the host has answered
gives each request that waits on it, or on another walk of that page at its port, its leaf, kept in the caches where no
invalidation came meanwhile, or the fault policy's answer; a load that has read its source writes its entries, frees them for placement, and ends. -/
def Obligations.MemoryControlEvents : Prop :=
  (∀ s, ∃ t, exec .tinvAll s = .next t ∧ t.tlb = [] ∧ t.tinvBusy = true ∧ t.mem = s.mem ∧
    ∀ q ∈ s.reqs, ∀ l, q.state = .ready l → l.size ≠ 0 → q.id ∈ t.tinvWait) ∧
  (∀ s o, ∃ t, exec (.tinvObject o) s = .next t ∧ t.tlb = s.tlb.filter (fun e => e.obj != o) ∧ t.tinvBusy = true ∧
    t.mem = s.mem ∧ ∀ q ∈ s.reqs, ∀ l, q.state = .ready l → l.size ≠ 0 → q.obj = o → q.id ∈ t.tinvWait) ∧
  (∀ s o v, ∃ t, exec (.tinvPage o v) s = .next t ∧ t.tinvBusy = true ∧ t.mem = s.mem ∧
    ∀ e, e ∈ t.tlb ↔ e ∈ s.tlb ∧ ¬ (e.obj = o ∧ e.page ≤ v.toNat * 65536 ∧ v.toNat * 65536 < e.page + e.leaf.size)) ∧
  (∀ s, (∀ id ∈ s.tinvWait, tinvUses s id = false) →
    exec .tinvComplete s = .next { s with tinvWait := [], tinvBusy := false }) ∧
  (∀ s id, id ∈ s.tinvWait → tinvUses s id = true →
    ∃ t, exec .tinvComplete s = .next t ∧ t.tinvBusy = s.tinvBusy ∧ id ∈ t.tinvWait) ∧
  (∀ s lay f (fid : BitVec 16), f ∈ (s.layerAt lay).faults → f.fid = fid.toNat →
    let served := fun (t : State) => (∀ g, g ∈ (t.layerAt lay).faults ↔ g ∈ (s.layerAt lay).faults ∧ g.fid ≠ fid.toNat) ∧
      ∀ q ∈ s.reqs, q.lay = lay → q.state = .parked (some f.fid) ∨ q.state = .parked none → { q with state := .port } ∈ t.reqs
    (∃ t, exec (.fservWrite lay fid) s = .next t ∧ served t) ∧ ∃ t, exec (.hostFaultServiced lay fid) s = .next t ∧ served t) ∧
  (∀ s id w lv, hostWalkStale s id ≠ none → let page := walksOfPage s id lv
    let st := page.any (fun r => hostWalkStale s r == some true)
    ∃ u, exec (.hostWalkReply id w lv) s = .next ((s.reqs.filter (fun q => match q.state with
        | .walking r => page.contains r
        | _ => false)).foldl (fun t q => hostEntry st w lv q t) u) ∧
      u = { s with towers := u.towers } ∧ ∀ tw h, tw < 2 → (h ∈ (u.towerAt tw).host ↔ h ∈ (s.towerAt tw).host ∧
        ∀ r ∈ page, ∀ o a k b, h ≠ .walk r o a k b)) ∧
  (∀ s q w lv st, hostWalkStale s q.id = some st → walksOfPage s q.id lv = [q.id] →
    s.reqs.filter (fun r => r.state == .walking q.id) = [q] →
    ∃ u, exec (.hostWalkReply q.id w lv) s = .next (hostEntry st w lv q u) ∧ u = { s with towers := u.towers }) ∧
  (∀ s q w lv st, carriesData q = true →
    (pteBad w lv = false → w.getLsbD 0 = true → w.getLsbD 1 = true → leafFault (pteLeaf w lv) q.writes = false →
      isRetired s ((pteLeaf w lv).pa q.addr) = false →
      hostEntry st w lv q s =
        setReq { q with state := .ready (pteLeaf w lv) } (if st then s else fillCaches q (pteLeaf w lv) s)) ∧
    (pteBad w lv = false → w.getLsbD 0 = false → fld w 2 2 = 1 ∨ fld w 2 2 = 2 →
      hostEntry st w lv q s = setReq { q with state := .answer (fld w 2 2) } s)) ∧
  (∀ s e src off first n k b, findReleased s e.id = some e → e.phase = 2 → e.effect = .lstld src off first n k →
    (∀ q ∈ s.reqs, q.eff = e.id → q.kind ≠ .recordRead) → objRemote s (capObj src) = false →
    readObj s (e.lay / 8) (capObj src) (capBase src + off.toNat) (4096 * n) (asidOf s e.ctxKey) = .bytes b false →
    ∃ t, exec (.lastStoreLoadComplete e.id) s = .next t ∧
      (∀ i, i < n → mapGet Last.none (t.layerAt e.lay).store (first + i) = lastOf ((b.drop (4096 * i)).take 4096)) ∧
      ∀ j, (∀ i, i < n → j ≠ first + i) → mapGet Last.none (t.layerAt e.lay).store j = mapGet .none (s.layerAt e.lay).store j) ∧
  (∀ s e src off dir first n k b, findReleased s e.id = some e → e.phase = 2 → e.effect = .mpsld src off dir first n k →
    (∀ q ∈ s.reqs, q.eff = e.id → q.kind ≠ .recordRead) → objRemote s (capObj src) = false →
    readObj s (e.lay / 8) (capObj src) (capBase src + off.toNat) (8 * n) (asidOf s e.ctxKey) = .bytes b false →
    ∃ t, exec (.lastStoreLoadComplete e.id) s = .next t ∧
      (dir = true → ∀ i, i < 32 → mapGet 0 (t.layerAt e.lay).mdir i = BitVec.ofNat 64 (ofLe ((b.drop (8 * i)).take 8))) ∧
      (dir = false → ∀ i, i < n → mapGet 0 (t.layerAt e.lay).mprog (first + i) = BitVec.ofNat 64 (ofLe ((b.drop (8 * i)).take 8))))

/-- Power (R112, R213, R214, R492 to R495): a request starts once the layer's tasks allow it and, out of run, nothing is left to
send; when its cycles are over it ends with the layer in its new state, its flags and eyelets kept by the keeper when that is
off, and the requester's counter one lower; a layer that leaves off takes its flags and eyelets back; a divider asked for is
in force from the next frame; once in a millisecond of ticks, a power reading above PWRLIM lowers the divider of each tower by
one down to 8, one below 95% of it raises it by one up to 16, and any other leaves it, the new DIV being asked for; 105 °C forces
DIV = 8 until the junction is below 100 °C, and 115 °C kills every task of the tower, asks its layers to go off and raises the
alarm. The model's choice is, notes/assumptions/35.md (DESIGN CHOICE), and no rule's: that the divider the power limit asks for
(`limDiv`) is kept apart from DIV and goes on being compared while the junction is hot, and that it is the one asked for once the
junction has cooled. -/
def Obligations.PowerEvents : Prop :=
  (∀ s lay p rest, (s.layerAt lay).preqs = p :: rest → p.started = false → p.target ≠ (s.layerAt lay).power →
    layerDead s lay = false → transitionAllowed s lay p.target = true → ((s.layerAt lay).power = .run → unsent s lay p.target = false) →
    exec (.layerTransitionStart lay) s = .next (s.updLayer lay (fun l => { l with
      preqs := { p with started := true, left := transitionCycles (s.layerAt lay).power p.target } :: rest }))) ∧
  (∀ s lay p rest, (s.layerAt lay).preqs = p :: rest → p.started = true → p.left = 0 → p.target ≠ .off →
    (s.layerAt lay).power ≠ .off → ((s.layerAt lay).power = .run → unsent s lay p.target = false) →
    exec (.layerTransitionDone lay) s = .next (counterDown p.ctxKey p.n ((s.updLayer lay (fun l =>
      { l with power := p.target })).updLayer lay (fun l => { l with preqs := l.preqs.tail })))) ∧
  (∀ s lay p rest, (s.layerAt lay).preqs = p :: rest → p.started = true → p.left = 0 → p.target = .off →
    (s.layerAt lay).power ≠ .off → transitionAllowed s lay .off = true →
    ((s.layerAt lay).power = .run → unsent s lay .off = false) →
    exec (.layerTransitionDone lay) s = .next (counterDown p.ctxKey p.n ((enterOff lay s).updLayer lay (fun l =>
      { l with preqs := l.preqs.tail }))) ∧
    ((enterOff lay s).layerAt lay).power = .off) ∧
  (∀ s key n, key < 128 → counterDown key n s =
    s.updCtx key (fun c => { c with n := mapSet 0 c.n n (mapGet 0 c.n n - 1) })) ∧
  (∀ s lay p rest, (s.layerAt lay).preqs = p :: rest → p.started = true → p.left = 0 → p.target ≠ .off →
    (s.layerAt lay).power = .off → copying s lay = false →
    ∃ t, exec (.keeperCopyDone lay) s = .next t ∧ (t.layerAt lay).power = p.target ∧ (t.layerAt lay).preqs = rest ∧
      (t.layerAt lay).flags = ((s.towerAt (lay / 8)).keeperFlags.filter (fun e => e.1 / 512 == lay % 8)).map
        (fun e => (e.1 - 512 * (lay % 8), e.2)) ∧
      (t.layerAt lay).eyelets = ((s.towerAt (lay / 8)).keeperEyelets.filter (fun e => e.1 / 16 == lay % 8)).map
        (fun e => (e.1 - 16 * (lay % 8), e.2))) ∧
  (∀ s tw d, (s.towerAt tw).divNext = some d → (s.towerAt tw).cycle % 256 = 0 →
    exec (.divChange tw) s = .next (s.setTower tw { s.towerAt tw with div := d, divNext := none })) ∧
  (∀ s w, s.ms ≤ s.pwrMs → exec (.powerCheck w) s = .next s) ∧
  (∀ s w, s.pwrMs < s.ms → ∃ t, exec (.powerCheck w) s = .next t ∧ t.pwr = w ∧ t.pwrMs = s.ms ∧ ∀ tw, tw < 2 →
    let d := (t.towerAt tw).limDiv
    (s.pwrLimit.toNat < w.toNat → 8 < (s.towerAt tw).limDiv.toNat → d = (s.towerAt tw).limDiv - 1) ∧
    (w.toNat ≤ s.pwrLimit.toNat → 100 * w.toNat < 95 * s.pwrLimit.toNat → (s.towerAt tw).limDiv.toNat < 16 →
      d = (s.towerAt tw).limDiv + 1) ∧
    (w.toNat ≤ s.pwrLimit.toNat → 95 * s.pwrLimit.toNat ≤ 100 * w.toNat → d = (s.towerAt tw).limDiv) ∧
    (t.towerAt tw).div = (s.towerAt tw).div ∧ (t.towerAt tw).thr = decide (d.toNat < 16) ∧
    ((s.towerAt tw).hot = false → (t.towerAt tw).divNext = if d = (s.towerAt tw).div then none else some d) ∧
    ((s.towerAt tw).hot = true → (t.towerAt tw).divNext = if (s.towerAt tw).div = 8 then none else some 8)) ∧
  (∀ s tw tj, 105 ≤ tj.toNat → ∃ t, exec (.junctionHot tw tj) s = .next t ∧ (t.towerAt tw).hot = true ∧ (t.towerAt tw).tj = tj ∧
    ((s.towerAt tw).div ≠ 8 → (t.towerAt tw).divNext = some 8)) ∧
  (∀ s tw tj, tj.toNat < 100 → ∃ t, exec (.junctionCooled tw tj) s = .next t ∧ (t.towerAt tw).hot = false ∧
    ((s.towerAt tw).div ≠ (s.towerAt tw).limDiv → (t.towerAt tw).divNext = some (s.towerAt tw).limDiv)) ∧
  ∀ s tw tj, 115 ≤ tj.toNat → ∃ t, exec (.junctionCritical tw tj) s = .next t ∧ .alarm 495 ∈ t.mail ∧
    ∀ n, n < 8 →
      (∀ c, c < 5 → (s.ctxAt (ctxKey (8 * tw + n) c)).task ≠ .free → (s.ctxAt (ctxKey (8 * tw + n) c)).exiting = none →
        (s.ctxAt (ctxKey (8 * tw + n) c)).killing = false →
        (t.ctxAt (ctxKey (8 * tw + n) c)).killing = true ∧ (t.ctxAt (ctxKey (8 * tw + n) c)).task = .killed) ∧
      (t.layerAt (8 * tw + n)).power = (s.layerAt (8 * tw + n)).power ∧
      ((s.layerAt (8 * tw + n)).power = .off → (t.layerAt (8 * tw + n)).preqs = []) ∧
      ((s.layerAt (8 * tw + n)).power ≠ .off → ∃ p, (t.layerAt (8 * tw + n)).preqs = [p] ∧ p.target = .off)

/-- Errors and failed parts (R479 to R487): each leaves its 32-byte record in the mailbox; a corrected error changes nothing else
but telemetry; an uncorrectable one in a task's share traps with UNCORR in that task, in the name of the form that reads the
place, with the code in SUB and the place in AUX0; one of HBM poisons the reads of its 32 bytes; a network retry holds the
layer's step back for a cycle, and one that fails again is UNCORR with code 6; a column in excess is recorded; a failed layer's
tasks are killed and its queues dropped, and in the next cycle it is off and the spare takes its number, by itself or when the
host says so; telemetry that is read starts again from zero. How a place is written as a location, `loc` as the physical address
for HBM among them, and which form reads it are the model's choice, notes/assumptions/33.md (DEDUCED); in which cycle each part
of R485 happens is too, notes/assumptions/32.md (DESIGN CHOICE). -/
def Obligations.FailureEvents : Prop :=
  (∀ code kind tw phys k c loc cyc, (errorBytes code kind tw phys k c loc cyc).length = 32) ∧
  (∀ s code kind tw phys k c loc, errorRecord code kind tw phys k c loc s =
    { s with mail := s.mail ++ [.error (errorBytes code kind tw phys k c loc (s.towerAt tw).cycle)] }) ∧
  (∀ s code tw phys k c loc, code ≠ 13 → exec (.softError code tw phys k c loc false) s =
    .next (countTel tw (telCorrected code phys) (errorRecord code 0 tw phys k c (errorLoc k loc) s))) ∧
  (∀ s tw phys k c loc, exec (.softError 13 tw phys k c loc true) s = .next (poisonReads loc (countTel tw
    (telHbmUncorrectable (hbmTarget s loc)) (errorRecord 13 1 tw phys k c (errorLoc k loc) s)))) ∧
  (∀ s code tw phys n k c loc, let lay := 8 * tw + n
    let x := s.ctxAt (ctxKey lay c)
    code ∈ [1, 2, 3, 5, 6, 14] ∨ (code = 7 ∧ 56 ≤ loc) ∨ (code = 9 ∧ c ≠ 4) → logicalOf (s.towerAt tw) phys = some n →
    c < 5 → k < 64 → n < 8 → x.task ≠ .free → x.state = .resident → x.task ≠ .trapped → x.task ≠ .placed → x.quieted = false →
    ((s.layerAt lay).uncorr.filter (fun m => s.cycleOf lay < m + 2 ^ 30)).length < 3 →
    ∃ t tr, exec (.softError code tw phys k c loc true) s = .next t ∧
      t.mail = s.mail ++ [.error (errorBytes code 1 tw phys k c (errorLoc k loc) (s.towerAt tw).cycle)] ∧
      (t.ctxAt (ctxKey lay c)).state = .discarding ∧ (t.ctxAt (ctxKey lay c)).trap = some tr ∧ tr.cause = .uncorr ∧
      tr.sub = code ∧ tr.aux0 = errorLoc k loc ∧ (tr.region, tr.baddr, tr.slot) = errorSite s lay c code k loc ∧
      ∀ j, j ≠ ctxKey lay c → t.ctxAt j = s.ctxAt j) ∧
  (∀ s lay c code k loc f, code ∈ [1, 2, 3] → readingFlight s lay c k = some f →
    (errorSite s lay c code k loc).1 = faultRegion (s.ctxAt (ctxKey lay c)) f.region ∧
    (errorSite s lay c code k loc).2.1 = f.baddr) ∧
  (∀ s lay c k d i, (s.cellAt (cellKey lay k)).landing[i]? = some d →
    (errorSite s lay c 5 k i).1 = faultRegion (s.ctxAt (ctxKey lay c)) d.region) ∧
  (∀ s lay k c, let phys := physOf (s.towerAt (lay / 8)) (lay % 8)
    ∃ t, exec (.networkRetry lay k c false) s = .next t ∧
    t.mail = s.mail ++ [.error (errorBytes 6 2 (lay / 8) phys k c (errorLoc k 0) (s.towerAt (lay / 8)).cycle)] ∧
    ((s.layerAt lay).power = .run → (t.layerAt lay).stall = true) ∧ (t.layerAt lay).step = (s.layerAt lay).step ∧
    t.cells = s.cells ∧ t.ctxs = s.ctxs) ∧
  (∀ (s : State) lay, (s.layerAt lay).power = .run → (s.layerAt lay).stall = true →
    ∃ t, phaseStep exec { s with phase := .issue lay } = .next t ∧ (t.layerAt lay).stall = false ∧ t.phase = nextLayer lay ∧
      (t.layerAt lay).step = (s.layerAt lay).step ∧ t.ctxs = s.ctxs) ∧
  (∀ s lay k c, let x := s.ctxAt (ctxKey lay c)
    let phys := physOf (s.towerAt (lay / 8)) (lay % 8)
    c < 5 → k < 64 → x.task ≠ .free → x.state = .resident → x.task ≠ .trapped → x.task ≠ .placed → x.quieted = false →
    ((s.layerAt lay).uncorr.filter (fun m => s.cycleOf lay < m + 2 ^ 30)).length < 3 →
    ∃ t tr, exec (.networkRetry lay k c true) s = .next t ∧
      t.mail = s.mail ++ [.error (errorBytes 6 2 (lay / 8) phys k c (errorLoc k 0) (s.towerAt (lay / 8)).cycle),
        .error (errorBytes 6 1 (lay / 8) phys k c (errorLoc k 0) (s.towerAt (lay / 8)).cycle)] ∧
      (t.ctxAt (ctxKey lay c)).trap = some tr ∧ tr.cause = .uncorr ∧ tr.sub = 6) ∧
  (∀ s tw col, 16 < mapGet 0 (s.towerAt tw).retries col → exec (.columnRetryExcess tw col) s = .next
    { s with mail := s.mail ++ [.error (errorBytes 12 2 tw 15 col 7 (errorLoc col 0) (s.towerAt tw).cycle)] }) ∧
  (∀ s tw phys, phys ∈ (s.towerAt tw).failed → exec (.layerFailure tw phys) s = .next s) ∧
  (∀ s tw phys n, phys ∉ (s.towerAt tw).failed → logicalOf (s.towerAt tw) phys = some n →
    ∃ u, exec (.layerFailure tw phys) s = .next (pump (killAll (8 * tw + n) (dropQueues (8 * tw + n) u))) ∧
      u.mail = s.mail ++ [.error (errorBytes 0 3 tw phys 0 7 0 (s.towerAt tw).cycle)] ∧
      (u.towerAt tw).failed = (s.towerAt tw).failed ++ [phys] ∧ (u.layerAt (8 * tw + n)).failing = some phys ∧
      (∀ c, c < 4 → (s.ctxAt (ctxKey (8 * tw + n) c)).task ≠ .free →
        ∃ ws, HostReq.trap (8 * tw + n) c ws ∈ (u.towerAt (tw + n / 8)).host) ∧ u.ctxs = s.ctxs) ∧
  (∀ s tw phys, phys ∉ (s.towerAt tw).failed → logicalOf (s.towerAt tw) phys = none → exec (.layerFailure tw phys) s =
    .next (errorRecord 0 3 tw phys 0 7 0 (s.updTower tw (fun t => { t with failed := t.failed ++ [phys] })))) ∧
  (∀ s lay, (∀ q ∈ (dropQueues lay s).reqs, q.lay = lay → q.state ≠ .queued ∧ q.state ≠ .held) ∧
    ((dropQueues lay s).layerAt lay).beats = [] ∧ ((dropQueues lay s).layerAt lay).outUpd = [] ∧
    ∀ e ∈ (dropQueues lay s).released, e.lay = lay → ∀ b f i v, e.effect ≠ .flag b f i v) ∧
  (∀ s tw n phys, n < 8 → (s.layerAt (8 * tw + n)).failing = some phys → (s.towerAt tw).spare = none →
    8 ∉ (s.towerAt tw).failed → (s.towerAt tw).dsplit.getLsbD 6 = false →
    let t := layerOver (8 * tw + n) s
    (t.layerAt (8 * tw + n)).power = .off ∧ (t.layerAt (8 * tw + n)).failing = none ∧ (t.towerAt tw).spare = some (phys, n) ∧
      ∃ p rest, (t.layerAt (8 * tw + n)).preqs = p :: rest ∧ p.target = .run) ∧
  (∀ s tw l p, (s.towerAt tw).host = [.spare l p] → (s.towerAt tw).spare = none → 8 ∉ (s.towerAt tw).failed →
    exec (.hostSpareReply tw l) s = .next (useSpare tw l p (s.updTower tw (fun t => { t with host := [] })))) ∧
  (∀ s tw l p, (s.towerAt tw).host = [.spare l p] → (s.towerAt tw).spare ≠ none ∨ 8 ∈ (s.towerAt tw).failed →
    exec (.hostSpareReply tw l) s = .next (becomeAbsent tw l (s.updTower tw (fun t => { t with host := [] })))) ∧
  ∀ s tw, ∃ t, exec (.telemetryReadClear tw) s = .next t ∧ t.mail = s.mail ++ [.telemetry tw (s.towerAt tw).telemetry] ∧
    (t.towerAt tw).telemetry = []

/-- Boot and the outside (R397, R433, R472 to R474, R476 to R478): at a power-on reset the firmware is verified, then a copy of the
record in flash, and the interfaces are trained, each step that fails stopping the boot with its own alarm; what is fused stays,
and a version accepted before raises the rollback count; KCAP is installed once, after them, from a key sealed to this package;
a supervisor image that verifies releases the layers, and later replaces a tower's while every layer of it is off; the adapter's
link holds frames back while it is down; a report of 4,096 bytes, the body first, answers an attestation request. -/
def Obligations.BootEvents : Prop :=
  (∀ s p tr, let u := powerOn (p.getD s.flash) s
    u.boot = 0 ∧ u.mail = [] ∧ u.layers = [] ∧ u.ctxs = [] ∧ u.flash = p.getD s.flash ∧ u.revoke = s.revoke ∧
    u.keyHashes = s.keyHashes ∧ u.config = none ∧ u.kcap = none ∧
    (s.config = none → u.rollback = s.rollback) ∧ (∀ c, s.config = some c → u.rollback = Nat.max s.rollback c.version.toNat) ∧
    (u.signed u.flash.firmware u.flash.fwSigs = false → exec (.powerOnReset p tr) s = .next { u with mail := [.alarm 1] }) ∧
    (u.signed u.flash.firmware u.flash.fwSigs = true →
      (chooseCopy u = none → ∃ t, exec (.powerOnReset p tr) s = .next t ∧ t.boot = 1 ∧ t.mail = [.alarm 2] ∧
        t.firmware = Config.sha384 u.flash.firmware ∧ t.config = none ∧ t.layers = []) ∧
      ∀ c, chooseCopy u = some c → ∃ t, exec (.powerOnReset p tr) s = .next t ∧
        t.boot = (if tr = true then 3 else 2) ∧ t.linkUp = tr ∧ t.mail = (if tr = true then [] else [.alarm 3]) ∧
        t.firmware = Config.sha384 u.flash.firmware ∧ t.configHash = Config.sha384 c.bytes ∧ t.config = some c.record ∧
        t.pkg = c.record.pkg ∧ t.dom = c.record.dom ∧ t.otbase = c.record.otbase ∧ t.layers = [] ∧ t.kcap = none)) ∧
  (∀ s c, chooseCopy s = some c → c ∈ [s.flash.copy0, s.flash.copy1].filterMap id ∧ copyOk s c = true ∧
    ∀ d ∈ [s.flash.copy0, s.flash.copy1].filterMap id, copyOk s d = true → d.record.version.toNat ≤ c.record.version.toNat) ∧
  (∀ s k seed, s.boot = 3 → s.seed = some seed → k.tag = Config.kcapTag seed k.body →
    exec (.kcapInstall k) s = .next { s with boot := 4, kcap := some (k.body ^^^ Config.kcapMask seed) }) ∧
  (∀ s k seed, s.boot = 3 → s.seed = some seed → k.tag ≠ Config.kcapTag seed k.body →
    exec (.kcapInstall k) s = .next { s with mail := s.mail ++ [.alarm 4] }) ∧
  (∀ s k, s.boot ≠ 3 ∨ s.seed = none → exec (.kcapInstall k) s = .next s) ∧
  (∀ s tw b, s.boot = 4 → supervisorOk s b = true → exec (.supervisorInstall { tower := tw, bytes := b }) s =
    .next ((upto 16).foldl (fun s l => releaseLayer l s) (setSupervisor 0 b (setSupervisor 1 b { s with boot := 5 })))) ∧
  (∀ s tw b, s.boot = 4 → supervisorOk s b = false →
    exec (.supervisorInstall { tower := tw, bytes := b }) s = .next { s with mail := s.mail ++ [.alarm 5] }) ∧
  (∀ s tw b, s.boot = 5 → supervisorOk s b = true → (∀ n, n < 8 → (s.layerAt (8 * tw + n)).power = .off) →
    exec (.supervisorInstall { tower := tw, bytes := b }) s = .next (s.setTower tw { s.towerAt tw with supImage := some b })) ∧
  (∀ s tw b, s.boot = 5 → supervisorOk s b = false ∨ (∃ n, n < 8 ∧ (s.layerAt (8 * tw + n)).power ≠ .off) →
    exec (.supervisorInstall { tower := tw, bytes := b }) s = .next s) ∧
  (∀ s n, ∃ t r, exec (.attestationRequest n) s = .next t ∧ t.mail = s.mail ++ [.report r] ∧ r.length = 4096 ∧
    reportBody s n <+: r) ∧
  (∀ s, exec .stavouxLinkFailure s = .next { s with linkUp := false, mail := s.mail ++ [.alarm 397] }) ∧
  ∀ s, (s.towerAt 0).statusQ = [] → (s.towerAt 1).statusQ = [] → ∃ t, exec .stavouxLinkRetrain s = .next t ∧
    (t.linkUp = true ↔ 3 ≤ s.boot) ∧ t.status = s.status

/-! ### What holds for every slot -/

namespace Sys2Proof.Claims

/-- The slot forms: every form that takes a resource (R136), and LIMM (R148). -/
def isSlot : Instr → Bool
  | .limm _ => true
  | i => !(resources i).isEmpty

/-- The checks that come before a form's own hold (R138 checks 1 to 4). -/
def formReached (i : Instr) (s : State) : Prop :=
  i.subfieldsOk = true ∧ placementFault i s = none ∧ i.operandsOk = true ∧
    ∀ r ∈ dests i ++ srcs i, s.me.share.has r = true

/-- What a slot does not reach at its issue: HBM and its tags, released effects, saved tasks, the towers, and of layer `l` its
power, step, flags, eyelets, data memory, stores and requests. -/
def outside (s : State) (l : Nat) :=
  (s.mem, s.tags, s.released, s.saved, s.towers, (s.layerAt l).power, (s.layerAt l).step, (s.layerAt l).flags,
    (s.layerAt l).eyelets, (s.layerAt l).dmem, (s.layerAt l).store, (s.layerAt l).mprog, (s.layerAt l).mdir,
    (s.layerAt l).sctx, (s.layerAt l).preq, (s.layerAt l).tpend)

/-- The forms whose only effect at issue is a result on its way: latency and form (R146). -/
def landsIn : Instr → Option Nat
  | .ldd .. | .ldw .. | .ldwu .. => some 3
  | .std .. | .stw .. | .bprepRelative .. | .bprepRegister .. | .bcmp .. | .bcmpi .. | .mfsr .. | .cderive .. | .cnarrow ..
  | .ccheck .. => some 1
  | i => if (scalarOf i).isSome || (immediateOf i).isSome then some 1 else none

/-- The forms whose effect enters the welt and waits for the commit, with nothing else at issue but the counter they name
(R46, R213, R215, R289). -/
def waitsInWelt : Instr → Option (Option Nat)
  | .tlaunch .. | .texit .. | .trap .. | .eret .. | .eretKill .. | .fladd .. | .flset .. | .fence .. | .epush .. | .send .. => some none
  | .drain n | .realign n _ | .lsleepDoze n _ | .lsleepOff n _ | .lwake n _ => some (some n.toNat)
  | .lstld n _ _ _ | .mpsld n _ _ _ => some (some n.toNat)
  | _ => none

end Sys2Proof.Claims

/-- A check that fails takes its trap, and nothing more of the bundle issues (R138, R155); a hold that applies issues nothing
and leaves the state as it is (R358). -/
def Obligations.FaultingSlotTrapsHeldSlotWaits : Prop :=
  ∀ i, isSlot i = true → ∀ s,
    (∀ tr, slotFault i s = some tr → exec i s = .next (trapHere tr s)) ∧
    (slotFault i s = none → slotHold i s = true → exec i s = .next s)

/-- TEXIT, YIELD and TRAP outside a sealing bundle (R209): ILLEGAL, sub-cause 3, and nothing more. -/
def Obligations.FormsThatNeedASealingBundle : Prop :=
  ∀ s, s.latch.bctl.sealed = false →
    (∀ a, exec (.texit a) s = .next (trapHere (s.issueTrap .illegal 3) s)) ∧
    exec .yield s = .next (trapHere (s.issueTrap .illegal 3) s) ∧
    ∀ c, exec (.trap c) s = .next (trapHere (s.issueTrap .illegal 3) s)

/-- Slots that may not stand where they do, or whose operands their form rules out, take the trap the manual names (R135,
R137, R168 to R170, R182, R207, R209, R211): ILLEGAL sub-cause 3 for a supervisor-only form in a task and for a form that
needs a sealing bundle outside one; ILLEGAL 4 for a special register that is not assigned, or not a task's; CFI for the
shadow stack; BOUNDS 2 for a derived range that the capability does not cover. -/
def Obligations.IssueTraps : Prop :=
  (∀ i s, i.subfieldsOk = true → supOnly i = true → s.ctx ≠ 4 → exec i s = .next (trapHere (s.issueTrap .illegal 3) s)) ∧
  (∀ i s, i.subfieldsOk = true → needsSeal i = true → s.latch.bctl.sealed = false →
    exec i s = .next (trapHere (s.issueTrap .illegal 3) s)) ∧
  (∀ d r s, formReached (.mfsr d r) s → (specialAssigned r.toNat = false ∨ (s.ctx ≠ 4 ∧ specialUser r.toNat = false)) →
    exec (.mfsr d r) s = .next (trapHere (s.issueTrap .illegal 4) s)) ∧
  (∀ a r s, formReached (.mtsr a r) s → (specialAssigned r.toNat = false ∨ (s.ctx ≠ 4 ∧ specialUser r.toNat = false)) →
    exec (.mtsr a r) s = .next (trapHere (s.issueTrap .illegal 4) s)) ∧
  (∀ d b s, formReached (.call d b) s → 64 ≤ s.me.shadowView.length →
    exec (.call d b) s = .next (trapHere (s.issueTrap .cfi 3) s)) ∧
  (∀ a s, formReached (.ret a) s →
    (s.me.shadowView = [] → exec (.ret a) s = .next (trapHere (s.issueTrap .cfi 2 (s.src a).toNat) s)) ∧
    (∀ top rest, s.me.shadowView = top :: rest → top ≠ s.src a →
      exec (.ret a) s = .next (trapHere (s.issueTrap .cfi 1 (s.src a).toNat) s))) ∧
  ∀ d g a s, formReached (.cderive d g a) s →
    (s.me.gReg g.toNat = 0 ∨ hasRight (s.me.gReg g.toNat) 6 = false ∨
      capLimit (s.me.gReg g.toNat) - capBase (s.me.gReg g.toNat) <
        (s.me.sReg a.toNat).toNat + (s.me.sReg (a.toNat + 1)).toNat) →
    exec (.cderive d g a) s = .next (trapHere (s.issueTrap .bounds 2 0 (capObj (s.me.gReg g.toNat)).toNat) s)

/-- No slot but EPOP, which takes its word from the eyelet at once (R201), reaches past its own task at issue: HBM, the towers,
what is released, every layer's flags, eyelets and stores, every other context, and every cell but the one that executes at
t, are as they were (R30, R31, R46). -/
def Obligations.SlotsReachOnlyTheirOwnTask : Prop :=
  ∀ i, isSlot i = true → (∀ d e, i ≠ .epop d e) → ∀ s t, exec i s = .next t →
    (∀ l, outside t l = outside s l) ∧
    (∀ k, k ≠ ctxKey s.lay s.ctx → t.ctxAt k = s.ctxAt k) ∧
    (∀ k, k ≠ cellKey s.lay 0 → t.cellAt k = s.cellAt k) ∧
    ∀ k, k ≠ ccKey s.lay 0 s.ctx → t.ccAt k = s.ccAt k

/-- Frames of the sequencer's slots: one that only lands a result changes nothing but the results on their way in its own
layer, which gain that one, for its declared step and region (R114, R146); one whose effect waits for the commit changes
nothing but its own context's regions, where its effect is the last of the open one, and the counter it names (R46). -/
def Obligations.SequencerFrames : Prop :=
  (∀ i n s t, landsIn i = some n → Clear i s → exec i s = .next t →
    t = { s with layers := t.layers } ∧ (∀ l, l ≠ s.lay → t.layerAt l = s.layerAt l) ∧
    ∃ p, t.layer = { s.layer with pend := s.layer.pend ++ [p] } ∧ p.ctx = s.ctx ∧ p.region = s.me.regionId ∧
      p.due = s.now + n) ∧
  ∀ i ctr s t, waitsInWelt i = some ctr → Clear i s → exec i s = .next t →
    t = { s with ctxs := t.ctxs, nextId := s.nextId + 1 } ∧ (∀ k, k ≠ ctxKey s.lay s.ctx → t.ctxAt k = s.ctxAt k) ∧
    t.me = { s.me with regions := t.me.regions, nextRegion := t.me.nextRegion, n := t.me.n } ∧
    (∀ j, (∀ m, ctr = some m → j ≠ m) → t.me.nReg j = s.me.nReg j) ∧
    (∀ m, ctr = some m → t.me.nReg m = s.me.nReg m + 1) ∧
    ∃ r e, t.me.regions.getLast? = some r ∧ r.id = s.me.regionId ∧ r.effects.getLast? = some (s.nextId, e)

/-! ### Memory as a whole -/

namespace Sys2Proof.Claims

/-- The events in which an access performs, a record is written, or a released effect of a saved task may be recorded. -/
def mayWriteMemory : Instr → Bool
  | .storePerform _ | .atomicPerform _ | .flitArrival .. | .saveRecordWrite .. | .taggedItemComplete _ => true
  | .releaseWaitEnd _ | .epushDeferred .. | .tlaunchDeferredAppend .. | .regionCommit .. | .stepAdvance _
  | .stackBeatApply .. | .timestampExchangeDone .. | .lastStoreLoadComplete _ | .layerTransitionStart _
  | .layerTransitionDone _ | .keeperCopyDone _ | .layerFailure .. | .softError .. | .networkRetry ..
  | .powerOnReset .. => true
  | _ => false

end Sys2Proof.Claims

/-- Every slot, every micro-operation and every event but those named leaves every byte of HBM as it was (R46, R125). -/
def Obligations.MemoryFrame : Prop :=
  ∀ i, mayWriteMemory i = false → ∀ s t, exec i s = .next t → ∀ a, t.memByte a = s.memByte a

/-- Every step keeps memory in its canonical form. -/
def Obligations.StepKeepsMemoryCanonical : Prop := ∀ s t, MemInv s → step s = .next t → MemInv t

/-! ### Traps and discards -/

/-- Taking a trap (R419, R420, R501): the context is discarding from this step, keeps its registers, will resume at the
entry of its oldest uncommitted region, and owns no freeze any more; of two traps of one step the record takes the one R419 puts
first, a trap of the step at which a pre-emption begins its discard among them; a Trapped or Placed task's, one that comes after
a trap, a resumption or a restore before the task issues again (unless it is the watchdog's or the next bundle's own), one of a
task being placed, held or saved, one beside a held trap, and one of a later step of a discard, is held. -/
def Obligations.TrapTaken : Prop :=
  ∀ s lay c tr, let key := ctxKey lay c
    let x := s.ctxAt key
    let y := (takeTrap lay c tr s).ctxAt key
    (x.state = .resident → x.task ≠ .trapped → x.task ≠ .placed → (x.quieted = true → tr.cause = .watchdog ∨ tr.dec = true) →
      y = { x with state := .discarding, trap := some tr, trapStep := (s.layerAt lay).step, trapCycle := s.cycleOf lay,
                   resume := (match x.regions with | r :: _ => r.entry | [] => x.pc), wait := .none, waited := 0,
                   untimed := true, quieted := true, fromHeld := false } ∧
      (takeTrap lay c tr s).layerAt lay = endFreeze c (s.layerAt lay)) ∧
    (x.state = .resident → x.task = .trapped ∨ x.task = .placed ∨
        (x.quieted = true ∧ tr.cause ≠ .watchdog ∧ tr.dec = false) → y = { x with held := x.held ++ [tr] }) ∧
    (x.state = .saving ∨ x.state = .placing ∨ x.state = .held → y = { x with held := x.held ++ [tr] }) ∧
    (∀ old, x.state = .discarding → x.trap = some old → x.trapStep = (s.layerAt lay).step → x.fromHeld = false →
      y = { x with trap := some (if trapFirst old tr = true then old else tr) }) ∧
    (∀ old, x.state = .discarding → x.trap = some old → x.trapStep ≠ (s.layerAt lay).step ∨ x.fromHeld = true →
      y = { x with held := x.held ++ [tr] }) ∧
    (x.state = .discarding → x.trap = none → x.trapStep = (s.layerAt lay).step →
      y = { x with trap := some tr, trapCycle := s.cycleOf lay }) ∧
    (x.state = .discarding → x.trap = none → x.trapStep ≠ (s.layerAt lay).step → y = { x with held := x.held ++ [tr] }) ∧
    (∀ k, k ≠ key → (takeTrap lay c tr s).ctxAt k = s.ctxAt k) ∧ (takeTrap lay c tr s).mem = s.mem

/-- A discard (R48, R51): the context stands at the entry of its oldest uncommitted region with the loops it had there; the
welt, the transfer on its way and the results of the discarded regions are gone; registers and pop log stay, and so does
every result of another context or of an older region. -/
def Obligations.DiscardReturnsToTheOldestRegion : Prop :=
  ∀ s lay c r0 rest, (s.ctxAt (ctxKey lay c)).regions = r0 :: rest → (s.ctxAt (ctxKey lay c)).killing = false → c < 5 →
    let x := s.ctxAt (ctxKey lay c)
    let y := (endDiscard lay c s).ctxAt (ctxKey lay c)
    y.regions = [] ∧ y.pc = r0.entry ∧ y.loops = r0.loops ∧ y.xfer = none ∧ y.delay = 0 ∧ y.popLog = x.popLog ∧
    y.s = x.s ∧ y.g = x.g ∧ y.k = x.k ∧ y.b = x.b ∧ y.shadow = x.shadow ∧
    (∀ p, p ∈ ((endDiscard lay c s).layerAt lay).pend ↔ p ∈ (s.layerAt lay).pend ∧ ¬ (p.ctx = c ∧ r0.id ≤ p.region)) ∧
    (endDiscard lay c s).mem = s.mem

/-! ### Steps -/

/-- Where a result lands (R105, R106, R114, R115): a register result gives its register the value, a masked one only in the
mask's bits, and no other register of the context, of the cell or of another changes; a bank or accumulator result likewise
changes the masked bits of its own row or tile and no others. -/
def Obligations.ResultsLand : Prop :=
  ∀ lay p s, let key := ctxKey lay p.ctx
    let u := landReg lay p s
    let w := landThree lay p s
    (∀ n, p.loc = .s n → (u.ctxAt key).sReg n = p.val.setWidth 64 ∧
      ∀ m, m ≠ n → (u.ctxAt key).sReg m = (s.ctxAt key).sReg m) ∧
    (∀ n, p.loc = .g n → (u.ctxAt key).gReg n = p.val.setWidth 128 ∧
      ∀ m, m ≠ n → (u.ctxAt key).gReg m = (s.ctxAt key).gReg m) ∧
    (∀ n, p.loc = .b n → (u.ctxAt key).bReg n = p.val.setWidth 64 ∧ (u.ctxAt key).bReadyAt n = p.due + 5 ∧
      ∀ m, m ≠ n → (u.ctxAt key).bReg m = (s.ctxAt key).bReg m) ∧
    (∀ n, p.loc = .k n → n < 8 → (u.ctxAt key).k.getLsbD n = p.val.getLsbD 0 ∧
      ∀ m, m < 8 → m ≠ n → (u.ctxAt key).k.getLsbD m = (s.ctxAt key).k.getLsbD m) ∧
    (∀ k n, p.loc = .x k n → mapGet (0 : Word) (u.ccAt (ccKey lay k p.ctx)).x n = p.val.setWidth 32 ∧
      ∀ m, m ≠ n → mapGet (0 : Word) (u.ccAt (ccKey lay k p.ctx)).x m = mapGet 0 (s.ccAt (ccKey lay k p.ctx)).x m) ∧
    (∀ k n, p.loc = .v k n →
      mapGet (0 : Lanes) (u.cellAt (cellKey lay k)).v n = merge (mapGet 0 (s.cellAt (cellKey lay k)).v n) p.mask p.val ∧
      ∀ m, m ≠ n → mapGet (0 : Lanes) (u.cellAt (cellKey lay k)).v m = mapGet 0 (s.cellAt (cellKey lay k)).v m) ∧
    (∀ k n, p.loc = .last k n → mapGet Last.none (u.cellAt (cellKey lay k)).lasts n = p.last.getD .none ∧
      ∀ m, m ≠ n → mapGet Last.none (u.cellAt (cellKey lay k)).lasts m = mapGet .none (s.cellAt (cellKey lay k)).lasts m) ∧
    (∀ k, p.loc = .pois k → p.val.getLsbD 0 = true → (u.ccAt (ccKey lay k p.ctx)).pois = true) ∧
    (∀ k b r, p.loc = .bank k b r →
      (∀ n, n < 1024 → (mapGet (0 : Row) (w.cellAt (cellKey lay k)).banks (256 * b + r)).getLsbD n =
        if p.mask.getLsbD n = true then p.val.getLsbD n
        else (mapGet (0 : Row) (s.cellAt (cellKey lay k)).banks (256 * b + r)).getLsbD n) ∧
      ∀ m, m ≠ 256 * b + r → mapGet (0 : Row) (w.cellAt (cellKey lay k)).banks m = mapGet 0 (s.cellAt (cellKey lay k)).banks m) ∧
    (∀ k n, p.loc = .acc k n →
      mapGet (0 : Lanes) (w.cellAt (cellKey lay k)).acc n = merge (mapGet 0 (s.cellAt (cellKey lay k)).acc n) p.mask p.val ∧
      ∀ m, m ≠ n → mapGet (0 : Lanes) (w.cellAt (cellKey lay k)).acc m = mapGet 0 (s.cellAt (cellKey lay k)).acc m) ∧
    u.mem = s.mem ∧ w.mem = s.mem ∧
    (∀ c, c ≠ key → (∀ n, p.loc ≠ .special n) → u.ctxAt c = s.ctxAt c)

/-- A result lands for the step it is due at (R34, R105, R114, R177, R347): at the end of the step before, in a layer whose cells
hold nothing, the counter advances by one and the register holds the value; the other registers keep theirs. So does the result
of a vote, a count in its s register and a verdict in its k flag; a poison vote that found poison sets SPOIS as well. A layer
that is frozen, or not in run, does not step. -/
def Obligations.StepAdvanceLandsResults : Prop :=
  (∀ s lay p n, (s.layerAt lay).power = .run → (s.layerAt lay).frozen = none → (s.layerAt lay).pend = [p] →
    (s.layerAt lay).flight = [] → (s.layerAt lay).votes = [] → s.cells = [] → s.reqs = [] → s.released = [] →
    (∀ c, c < 5 → (s.ctxAt (ctxKey lay c)).regions = [] ∧ (s.ctxAt (ctxKey lay c)).outs = [] ∧
      mustDiscard (s.ctxAt (ctxKey lay c)) = false) →
    p.loc = .s n → p.due = (s.layerAt lay).step + 1 → p.lag = 0 →
    ∃ t, exec (.stepAdvance lay) s = .next t ∧ (t.layerAt lay).step = (s.layerAt lay).step + 1 ∧ (t.layerAt lay).pend = [] ∧
      (t.ctxAt (ctxKey lay p.ctx)).sReg n = p.val.setWidth 64 ∧
      (∀ m, m ≠ n → (t.ctxAt (ctxKey lay p.ctx)).sReg m = (s.ctxAt (ctxKey lay p.ctx)).sReg m) ∧
      ∀ k, k ≠ ctxKey lay p.ctx → t.ctxAt k = s.ctxAt k) ∧
  (∀ s lay v, (s.layerAt lay).power = .run → (s.layerAt lay).frozen = none → (s.layerAt lay).pend = [] →
    (s.layerAt lay).flight = [] → (s.layerAt lay).votes = [v] → s.cells = [] → s.reqs = [] → s.released = [] →
    (∀ c, c < 5 → (s.ctxAt (ctxKey lay c)).regions = [] ∧ (s.ctxAt (ctxKey lay c)).outs = [] ∧
      mustDiscard (s.ctxAt (ctxKey lay c)) = false) → v.due = (s.layerAt lay).step + 1 →
    ∃ t, exec (.stepAdvance lay) s = .next t ∧ (t.layerAt lay).step = (s.layerAt lay).step + 1 ∧ (t.layerAt lay).votes = [] ∧
      (∀ n, v.loc = .s n → (t.ctxAt (ctxKey lay v.ctx)).sReg n = BitVec.ofNat 64 v.acc ∧
        ∀ m, m ≠ n → (t.ctxAt (ctxKey lay v.ctx)).sReg m = (s.ctxAt (ctxKey lay v.ctx)).sReg m) ∧
      (∀ n, v.loc = .k n → n < 8 → (t.ctxAt (ctxKey lay v.ctx)).k.getLsbD n = v.acc.testBit 0 ∧
        ∀ m, m < 8 → m ≠ n → (t.ctxAt (ctxKey lay v.ctx)).k.getLsbD m = (s.ctxAt (ctxKey lay v.ctx)).k.getLsbD m) ∧
      (∀ n, v.loc = .k n → v.kind = 3 → v.acc ≠ 0 → ctxKey lay v.ctx < 128 → (t.ctxAt (ctxKey lay v.ctx)).spois = true) ∧
      ∀ n k, v.loc = .k n ∨ v.loc = .s n → k ≠ ctxKey lay v.ctx → t.ctxAt k = s.ctxAt k) ∧
  ∀ s lay, ((s.layerAt lay).power ≠ .run ∨ (s.layerAt lay).frozen ≠ none) → exec (.stepAdvance lay) s = .next s

/-- A step runs what is due: the next slot of the open bundle, decoded, and moves to the slot after it, a LIMM's bits reaching
only that one (R133, R148, R155); a word that is no slot form traps; between bundles, the event that waits first; and a
cell's micro-word runs as `exec` does. That a waiting event comes before the phase's own work is the model's choice,
notes/assumptions/1.md (DESIGN CHOICE), and no rule's. -/
def Obligations.StepRunsTheDecodedInstruction : Prop :=
  (∀ s w i, s.phase = .slots → s.latch.words[s.latch.slot]? = some w → decodeSlot w = .ok i →
    (∀ t, exec i s = .next t → step s = .next (afterSlot i t)) ∧
    (∀ f, exec i s = .fault f → step s = .fault f) ∧ (∀ f, exec i s = .refused f → step s = .refused f)) ∧
  (∀ i t, t.latch.words ≠ [] → afterSlot i t = { t with latch := { t.latch with
    slot := t.latch.slot + 1, limm := (match i with | .limm _ => t.latch.limm | _ => none) } }) ∧
  (∀ s w e, s.phase = .slots → s.latch.words[s.latch.slot]? = some w → decodeSlot w = .error e →
    ∃ tr, tr.cause = .illegal ∧ step s = .next (noIssue s.lay (trapHere tr s))) ∧
  (∀ s i rest, s.phase ≠ .slots → s.agenda = i :: rest → step s = exec i { s with agenda := rest }) ∧
  (∀ i s, notEndm i = true ∨ i = .endm → microExec i s = exec i s)

/-- The words of a bundle (R134): the code words from the program counter up to the first with its stop bit set, at most
eight. -/
def Obligations.FetchStopsAtTheStopBit : Prop :=
  ∀ s lay c pc ws, bundleAt s lay c 8 pc [] = .ok ws →
    1 ≤ ws.length ∧ ws.length ≤ 8 ∧
    (∀ j w, ws[j]? = some w → codeWord s lay c (pc + 4 * j) = .word w) ∧
    (∀ j w, ws[j]? = some w → j + 1 < ws.length → stopBit w = false) ∧
    (ws.length < 8 → ∀ w, ws.getLast? = some w → stopBit w = true)

/-! ### Encodings -/

/-- Every well-formed slot form and micro-operation decodes from its word to itself, with every operand at every value the
encoding admits (R133, R135, R269). -/
def Obligations.DecodeOfEncode : Prop :=
  (∀ i b w, i.wellFormed = true → encode b i = some w → decodeSlot w = .ok i ∧ stopBit w = b) ∧
  (∀ i, isSlot i = true → ∀ b, (encode b i).isSome = true) ∧
  ∀ i w, i.wellFormed = true → encodeMicro i = some w → decodeMicro w = some i

/-- Every word the decoder takes is the word of what it reads: no bit of it is dropped, and no word has two readings. -/
def Obligations.EncodeOfDecode : Prop :=
  (∀ w i, decodeSlot w = .ok i → encode (stopBit w) i = some w) ∧ ∀ w i, decodeMicro w = some i → encodeMicro i = some w

namespace Sys2Proof.Claims

/-- Words the manual writes out in its worked examples, and the slots it says they are (06 to 12). -/
def workedWords : List (Word × Instr) :=
  [(0x04000105, .bctl false false 0 2 false 0 1 false true), (0x3400C082, .vadd 3 1 2), (0x08010389, .add 4 7 9),
   (0x60000006, .limm 6), (0x8D8286A0, .li 10 1696), (0x9400000A, .bprepRelative 0 10), (0x94C48002, .loopRegister 0 2 2),
   (0x944640B2, .bcmpi 3 1 1 50), (0x94600080, .bxfer 0 false false 1), (0xB62240C0, .vrng 9 1 64),
   (0xBC220240, .vcvt 1 8 4 4 0)] ++
  [(0xAC030203, .vld 12 4 0 3), (0xC465062A, .topk 20 12 5 false 2), (0x4C41A002, .mldw 0 3 true 0 2),
   (0xD0200001, .aclr 0 1), (0xCC009180, .mpar 2 35), (0xCC200019, .mcall 0 25), (0xD0028000, .amov 10 0 false 0),
   (0xD4040880, .tld 2 0 4 1 0), (0x04044D81, .bctl false true 1 27 false 0 0 false true), (0xD8064306, .amo 3 1 6 0 1 2),
   (0x9C608001, .cwait 2 1), (0x80E14032, .mtsr 5 0x032)]

/-- Micro-words of the manual's worked routine (11). -/
def workedMicro : List (DWord × Instr) :=
  [(0x1000000000000000, .rowin), (0x6000000000000004, .waitin 4), (0x5044000000000000, .loopm 4 1 0),
   (0x2000000000000000, .step), (0x3800000000000000, .accum true), (0x3000000000000000, .accum false), (0, .endm)]

end Sys2Proof.Claims

/-- The words the manual writes out decode to the slots and micro-operations it says they are (R133, R135, R269). -/
def Obligations.DecodedWords : Prop :=
  (∀ p ∈ workedWords, decodeSlot p.1 = .ok p.2) ∧ ∀ p ∈ workedMicro, decodeMicro p.1 = some p.2

/-! ### Reset -/

/-- The machine right after reset: memory in its canonical form with nothing listed, nothing booted, every layer off, no
context placed, no link carrying and nothing on its way; a context's FZT is 6 and its WDOG 20, a tower's DIV is 16, QEN all
ones and GTO 4, and PWRLIM is 3,600 (R58, R64, R65, R415, R473, R492, R495). That memory which nothing has written reads as
zero is the model's choice, notes/assumptions/4.md (DESIGN CHOICE), and no rule's. -/
def Obligations.ResetState : Prop :=
  MemInv State.reset ∧ (∀ a, State.reset.memByte a = 0) ∧ State.reset.boot = 0 ∧ State.reset.kcap = none ∧
    State.reset.reqs = [] ∧ State.reset.released = [] ∧ State.reset.status = [] ∧ State.reset.pwrLimit = 3600 ∧
    (∀ l, (State.reset.layerAt l).power = .off ∧ (State.reset.layerAt l).step = 0) ∧
    (∀ k, (State.reset.ctxAt k).task = .free ∧ (State.reset.ctxAt k).state = .free ∧ (State.reset.ctxAt k).fzt = 6 ∧
      (State.reset.ctxAt k).wdog = 20) ∧
    (∀ t, (State.reset.towerAt t).div = 16 ∧ (State.reset.towerAt t).qen = 0xFFFF ∧ (State.reset.towerAt t).gto = 4) ∧
    ∀ t f, (State.reset.linkAt t f).state = .down
end

