-- ==== Sys2Proof/Laws/Decode.lean ====
section
/-!
SUPPORT. Laws of the slot word: what each field of an assembled word reads as, and of the fields put together.
-/

namespace Sys2Proof

variable (s : Bool) (cl fn : Nat) (x y z : BitVec 7)

theorem toNat_append_add {n m : Nat} (a : BitVec n) (b : BitVec m) : (a ++ b).toNat = a.toNat * 2 ^ m + b.toNat := by
  rw [BitVec.toNat_append, ← Nat.shiftLeft_add_eq_or_of_lt b.isLt, Nat.shiftLeft_eq]

theorem toNat_asm : (asm s cl fn x y z).toNat =
    2 ^ 31 * s.toNat + 2 ^ 26 * (cl % 32) + 2 ^ 21 * (fn % 32) + 2 ^ 14 * x.toNat + 2 ^ 7 * y.toNat + z.toNat := by
  simp only [asm, toNat_append_add, BitVec.toNat_ofNat, BitVec.toNat_ofBool]
  omega

@[simp] theorem stopBit_asm : stopBit (asm s cl fn x y z) = s := by
  have hx := x.isLt; have hy := y.isLt; have hz := z.isLt
  rw [stopBit, ← BitVec.testBit_toNat, Nat.testBit, toNat_asm, Nat.shiftRight_eq_div_pow, Nat.and_comm, Nat.and_one_is_mod]
  cases s <;> simp <;> omega

@[simp] theorem slotClass_asm : (slotClass (asm s cl fn x y z)).toNat = cl % 32 := by
  have hx := x.isLt; have hy := y.isLt; have hz := z.isLt
  rw [slotClass, BitVec.extractLsb'_toNat, toNat_asm, Nat.shiftRight_eq_div_pow]
  cases s <;> simp <;> omega

@[simp] theorem slotFn_asm : (slotFn (asm s cl fn x y z)).toNat = fn % 32 := by
  have hx := x.isLt; have hy := y.isLt; have hz := z.isLt
  rw [slotFn, BitVec.extractLsb'_toNat, toNat_asm, Nat.shiftRight_eq_div_pow]
  cases s <;> simp <;> omega

@[simp] theorem slotX_asm : slotX (asm s cl fn x y z) = x := by
  have hx := x.isLt; have hy := y.isLt; have hz := z.isLt
  apply BitVec.eq_of_toNat_eq
  rw [slotX, BitVec.extractLsb'_toNat, toNat_asm, Nat.shiftRight_eq_div_pow]
  cases s <;> simp <;> omega

@[simp] theorem slotY_asm : slotY (asm s cl fn x y z) = y := by
  have hx := x.isLt; have hy := y.isLt; have hz := z.isLt
  apply BitVec.eq_of_toNat_eq
  rw [slotY, BitVec.extractLsb'_toNat, toNat_asm, Nat.shiftRight_eq_div_pow]
  cases s <;> simp <;> omega

@[simp] theorem slotZ_asm : slotZ (asm s cl fn x y z) = z := by
  have hx := x.isLt; have hy := y.isLt; have hz := z.isLt
  apply BitVec.eq_of_toNat_eq
  rw [slotZ, BitVec.extractLsb'_toNat, toNat_asm]
  cases s <;> simp <;> omega

/-- The decoder of an assembled word takes its fields (R133). -/
theorem decodeSlot_asm : decodeSlot (asm s cl fn x y z) = decodeClass (cl % 32) (fn % 32) x y z := by
  simp [decodeSlot]

@[simp] theorem hi7_append_lo7 (i : BitVec 14) : hi7 i ++ lo7 i = i := by
  have hi := i.isLt
  apply BitVec.eq_of_toNat_eq
  simp only [hi7, lo7, toNat_append_add, BitVec.extractLsb'_toNat, Nat.shiftRight_eq_div_pow]
  omega

/-! The parts of a seven-bit operand field put together from subfields: each reads back whole. -/

@[simp] theorem part_1_1_1_4_at_0 (p : BitVec 1) (q : BitVec 1) (r : BitVec 1) (s : BitVec 4) : (p ++ q ++ r ++ s).extractLsb' 0 4 = s := by
  rw [BitVec.extractLsb'_append_eq_of_add_le (by decide)]; exact BitVec.extractLsb'_eq_self
@[simp] theorem part_1_1_1_4_at_4 (p : BitVec 1) (q : BitVec 1) (r : BitVec 1) (s : BitVec 4) : (p ++ q ++ r ++ s).extractLsb' 4 1 = r := by
  rw [BitVec.extractLsb'_append_eq_of_le (by decide), BitVec.extractLsb'_append_eq_of_add_le (by decide)]; exact BitVec.extractLsb'_eq_self
@[simp] theorem part_1_1_1_4_at_5 (p : BitVec 1) (q : BitVec 1) (r : BitVec 1) (s : BitVec 4) : (p ++ q ++ r ++ s).extractLsb' 5 1 = q := by
  rw [BitVec.extractLsb'_append_eq_of_le (by decide), BitVec.extractLsb'_append_eq_of_le (by decide), BitVec.extractLsb'_append_eq_of_add_le (by decide)]; exact BitVec.extractLsb'_eq_self
@[simp] theorem part_1_1_1_4_at_6 (p : BitVec 1) (q : BitVec 1) (r : BitVec 1) (s : BitVec 4) : (p ++ q ++ r ++ s).extractLsb' 6 1 = p := by
  rw [BitVec.extractLsb'_append_eq_of_le (by decide), BitVec.extractLsb'_append_eq_of_le (by decide), BitVec.extractLsb'_append_eq_of_le (by decide)]; exact BitVec.extractLsb'_eq_self
@[simp] theorem part_1_1_2_3_at_0 (p : BitVec 1) (q : BitVec 1) (r : BitVec 2) (s : BitVec 3) : (p ++ q ++ r ++ s).extractLsb' 0 3 = s := by
  rw [BitVec.extractLsb'_append_eq_of_add_le (by decide)]; exact BitVec.extractLsb'_eq_self
@[simp] theorem part_1_1_2_3_at_3 (p : BitVec 1) (q : BitVec 1) (r : BitVec 2) (s : BitVec 3) : (p ++ q ++ r ++ s).extractLsb' 3 2 = r := by
  rw [BitVec.extractLsb'_append_eq_of_le (by decide), BitVec.extractLsb'_append_eq_of_add_le (by decide)]; exact BitVec.extractLsb'_eq_self
@[simp] theorem part_1_1_2_3_at_5 (p : BitVec 1) (q : BitVec 1) (r : BitVec 2) (s : BitVec 3) : (p ++ q ++ r ++ s).extractLsb' 5 1 = q := by
  rw [BitVec.extractLsb'_append_eq_of_le (by decide), BitVec.extractLsb'_append_eq_of_le (by decide), BitVec.extractLsb'_append_eq_of_add_le (by decide)]; exact BitVec.extractLsb'_eq_self
@[simp] theorem part_1_1_2_3_at_6 (p : BitVec 1) (q : BitVec 1) (r : BitVec 2) (s : BitVec 3) : (p ++ q ++ r ++ s).extractLsb' 6 1 = p := by
  rw [BitVec.extractLsb'_append_eq_of_le (by decide), BitVec.extractLsb'_append_eq_of_le (by decide), BitVec.extractLsb'_append_eq_of_le (by decide)]; exact BitVec.extractLsb'_eq_self
@[simp] theorem part_1_2_2_1_1_at_0 (p : BitVec 1) (q : BitVec 2) (r : BitVec 2) (s : BitVec 1) (t : BitVec 1) : (p ++ q ++ r ++ s ++ t).extractLsb' 0 1 = t := by
  rw [BitVec.extractLsb'_append_eq_of_add_le (by decide)]; exact BitVec.extractLsb'_eq_self
@[simp] theorem part_1_2_2_1_1_at_1 (p : BitVec 1) (q : BitVec 2) (r : BitVec 2) (s : BitVec 1) (t : BitVec 1) : (p ++ q ++ r ++ s ++ t).extractLsb' 1 1 = s := by
  rw [BitVec.extractLsb'_append_eq_of_le (by decide), BitVec.extractLsb'_append_eq_of_add_le (by decide)]; exact BitVec.extractLsb'_eq_self
@[simp] theorem part_1_2_2_1_1_at_2 (p : BitVec 1) (q : BitVec 2) (r : BitVec 2) (s : BitVec 1) (t : BitVec 1) : (p ++ q ++ r ++ s ++ t).extractLsb' 2 2 = r := by
  rw [BitVec.extractLsb'_append_eq_of_le (by decide), BitVec.extractLsb'_append_eq_of_le (by decide), BitVec.extractLsb'_append_eq_of_add_le (by decide)]; exact BitVec.extractLsb'_eq_self
@[simp] theorem part_1_2_2_1_1_at_4 (p : BitVec 1) (q : BitVec 2) (r : BitVec 2) (s : BitVec 1) (t : BitVec 1) : (p ++ q ++ r ++ s ++ t).extractLsb' 4 2 = q := by
  rw [BitVec.extractLsb'_append_eq_of_le (by decide), BitVec.extractLsb'_append_eq_of_le (by decide), BitVec.extractLsb'_append_eq_of_le (by decide), BitVec.extractLsb'_append_eq_of_add_le (by decide)]; exact BitVec.extractLsb'_eq_self
@[simp] theorem part_1_2_2_1_1_at_6 (p : BitVec 1) (q : BitVec 2) (r : BitVec 2) (s : BitVec 1) (t : BitVec 1) : (p ++ q ++ r ++ s ++ t).extractLsb' 6 1 = p := by
  rw [BitVec.extractLsb'_append_eq_of_le (by decide), BitVec.extractLsb'_append_eq_of_le (by decide), BitVec.extractLsb'_append_eq_of_le (by decide), BitVec.extractLsb'_append_eq_of_le (by decide)]; exact BitVec.extractLsb'_eq_self
@[simp] theorem part_1_2_4_at_0 (p : BitVec 1) (q : BitVec 2) (r : BitVec 4) : (p ++ q ++ r).extractLsb' 0 4 = r := by
  rw [BitVec.extractLsb'_append_eq_of_add_le (by decide)]; exact BitVec.extractLsb'_eq_self
@[simp] theorem part_1_2_4_at_4 (p : BitVec 1) (q : BitVec 2) (r : BitVec 4) : (p ++ q ++ r).extractLsb' 4 2 = q := by
  rw [BitVec.extractLsb'_append_eq_of_le (by decide), BitVec.extractLsb'_append_eq_of_add_le (by decide)]; exact BitVec.extractLsb'_eq_self
@[simp] theorem part_1_2_4_at_6 (p : BitVec 1) (q : BitVec 2) (r : BitVec 4) : (p ++ q ++ r).extractLsb' 6 1 = p := by
  rw [BitVec.extractLsb'_append_eq_of_le (by decide), BitVec.extractLsb'_append_eq_of_le (by decide)]; exact BitVec.extractLsb'_eq_self
@[simp] theorem part_1_3_1_2_at_0 (p : BitVec 1) (q : BitVec 3) (r : BitVec 1) (s : BitVec 2) : (p ++ q ++ r ++ s).extractLsb' 0 2 = s := by
  rw [BitVec.extractLsb'_append_eq_of_add_le (by decide)]; exact BitVec.extractLsb'_eq_self
@[simp] theorem part_1_3_1_2_at_2 (p : BitVec 1) (q : BitVec 3) (r : BitVec 1) (s : BitVec 2) : (p ++ q ++ r ++ s).extractLsb' 2 1 = r := by
  rw [BitVec.extractLsb'_append_eq_of_le (by decide), BitVec.extractLsb'_append_eq_of_add_le (by decide)]; exact BitVec.extractLsb'_eq_self
@[simp] theorem part_1_3_1_2_at_3 (p : BitVec 1) (q : BitVec 3) (r : BitVec 1) (s : BitVec 2) : (p ++ q ++ r ++ s).extractLsb' 3 3 = q := by
  rw [BitVec.extractLsb'_append_eq_of_le (by decide), BitVec.extractLsb'_append_eq_of_le (by decide), BitVec.extractLsb'_append_eq_of_add_le (by decide)]; exact BitVec.extractLsb'_eq_self
@[simp] theorem part_1_3_1_2_at_6 (p : BitVec 1) (q : BitVec 3) (r : BitVec 1) (s : BitVec 2) : (p ++ q ++ r ++ s).extractLsb' 6 1 = p := by
  rw [BitVec.extractLsb'_append_eq_of_le (by decide), BitVec.extractLsb'_append_eq_of_le (by decide), BitVec.extractLsb'_append_eq_of_le (by decide)]; exact BitVec.extractLsb'_eq_self
@[simp] theorem part_1_3_3_at_0 (p : BitVec 1) (q : BitVec 3) (r : BitVec 3) : (p ++ q ++ r).extractLsb' 0 3 = r := by
  rw [BitVec.extractLsb'_append_eq_of_add_le (by decide)]; exact BitVec.extractLsb'_eq_self
@[simp] theorem part_1_3_3_at_3 (p : BitVec 1) (q : BitVec 3) (r : BitVec 3) : (p ++ q ++ r).extractLsb' 3 3 = q := by
  rw [BitVec.extractLsb'_append_eq_of_le (by decide), BitVec.extractLsb'_append_eq_of_add_le (by decide)]; exact BitVec.extractLsb'_eq_self
@[simp] theorem part_1_3_3_at_6 (p : BitVec 1) (q : BitVec 3) (r : BitVec 3) : (p ++ q ++ r).extractLsb' 6 1 = p := by
  rw [BitVec.extractLsb'_append_eq_of_le (by decide), BitVec.extractLsb'_append_eq_of_le (by decide)]; exact BitVec.extractLsb'_eq_self
@[simp] theorem part_1_4_2_at_0 (p : BitVec 1) (q : BitVec 4) (r : BitVec 2) : (p ++ q ++ r).extractLsb' 0 2 = r := by
  rw [BitVec.extractLsb'_append_eq_of_add_le (by decide)]; exact BitVec.extractLsb'_eq_self
@[simp] theorem part_1_4_2_at_2 (p : BitVec 1) (q : BitVec 4) (r : BitVec 2) : (p ++ q ++ r).extractLsb' 2 4 = q := by
  rw [BitVec.extractLsb'_append_eq_of_le (by decide), BitVec.extractLsb'_append_eq_of_add_le (by decide)]; exact BitVec.extractLsb'_eq_self
@[simp] theorem part_1_4_2_at_6 (p : BitVec 1) (q : BitVec 4) (r : BitVec 2) : (p ++ q ++ r).extractLsb' 6 1 = p := by
  rw [BitVec.extractLsb'_append_eq_of_le (by decide), BitVec.extractLsb'_append_eq_of_le (by decide)]; exact BitVec.extractLsb'_eq_self
@[simp] theorem part_1_6_at_0 (p : BitVec 1) (q : BitVec 6) : (p ++ q).extractLsb' 0 6 = q := by
  rw [BitVec.extractLsb'_append_eq_of_add_le (by decide)]; exact BitVec.extractLsb'_eq_self
@[simp] theorem part_1_6_at_6 (p : BitVec 1) (q : BitVec 6) : (p ++ q).extractLsb' 6 1 = p := by
  rw [BitVec.extractLsb'_append_eq_of_le (by decide)]; exact BitVec.extractLsb'_eq_self
@[simp] theorem part_2_1_1_3_at_0 (p : BitVec 2) (q : BitVec 1) (r : BitVec 1) (s : BitVec 3) : (p ++ q ++ r ++ s).extractLsb' 0 3 = s := by
  rw [BitVec.extractLsb'_append_eq_of_add_le (by decide)]; exact BitVec.extractLsb'_eq_self
@[simp] theorem part_2_1_1_3_at_3 (p : BitVec 2) (q : BitVec 1) (r : BitVec 1) (s : BitVec 3) : (p ++ q ++ r ++ s).extractLsb' 3 1 = r := by
  rw [BitVec.extractLsb'_append_eq_of_le (by decide), BitVec.extractLsb'_append_eq_of_add_le (by decide)]; exact BitVec.extractLsb'_eq_self
@[simp] theorem part_2_1_1_3_at_4 (p : BitVec 2) (q : BitVec 1) (r : BitVec 1) (s : BitVec 3) : (p ++ q ++ r ++ s).extractLsb' 4 1 = q := by
  rw [BitVec.extractLsb'_append_eq_of_le (by decide), BitVec.extractLsb'_append_eq_of_le (by decide), BitVec.extractLsb'_append_eq_of_add_le (by decide)]; exact BitVec.extractLsb'_eq_self
@[simp] theorem part_2_1_1_3_at_5 (p : BitVec 2) (q : BitVec 1) (r : BitVec 1) (s : BitVec 3) : (p ++ q ++ r ++ s).extractLsb' 5 2 = p := by
  rw [BitVec.extractLsb'_append_eq_of_le (by decide), BitVec.extractLsb'_append_eq_of_le (by decide), BitVec.extractLsb'_append_eq_of_le (by decide)]; exact BitVec.extractLsb'_eq_self
@[simp] theorem part_2_1_3_1_at_0 (p : BitVec 2) (q : BitVec 1) (r : BitVec 3) (s : BitVec 1) : (p ++ q ++ r ++ s).extractLsb' 0 1 = s := by
  rw [BitVec.extractLsb'_append_eq_of_add_le (by decide)]; exact BitVec.extractLsb'_eq_self
@[simp] theorem part_2_1_3_1_at_1 (p : BitVec 2) (q : BitVec 1) (r : BitVec 3) (s : BitVec 1) : (p ++ q ++ r ++ s).extractLsb' 1 3 = r := by
  rw [BitVec.extractLsb'_append_eq_of_le (by decide), BitVec.extractLsb'_append_eq_of_add_le (by decide)]; exact BitVec.extractLsb'_eq_self
@[simp] theorem part_2_1_3_1_at_4 (p : BitVec 2) (q : BitVec 1) (r : BitVec 3) (s : BitVec 1) : (p ++ q ++ r ++ s).extractLsb' 4 1 = q := by
  rw [BitVec.extractLsb'_append_eq_of_le (by decide), BitVec.extractLsb'_append_eq_of_le (by decide), BitVec.extractLsb'_append_eq_of_add_le (by decide)]; exact BitVec.extractLsb'_eq_self
@[simp] theorem part_2_1_3_1_at_5 (p : BitVec 2) (q : BitVec 1) (r : BitVec 3) (s : BitVec 1) : (p ++ q ++ r ++ s).extractLsb' 5 2 = p := by
  rw [BitVec.extractLsb'_append_eq_of_le (by decide), BitVec.extractLsb'_append_eq_of_le (by decide), BitVec.extractLsb'_append_eq_of_le (by decide)]; exact BitVec.extractLsb'_eq_self
@[simp] theorem part_2_1_4_at_0 (p : BitVec 2) (q : BitVec 1) (r : BitVec 4) : (p ++ q ++ r).extractLsb' 0 4 = r := by
  rw [BitVec.extractLsb'_append_eq_of_add_le (by decide)]; exact BitVec.extractLsb'_eq_self
@[simp] theorem part_2_1_4_at_4 (p : BitVec 2) (q : BitVec 1) (r : BitVec 4) : (p ++ q ++ r).extractLsb' 4 1 = q := by
  rw [BitVec.extractLsb'_append_eq_of_le (by decide), BitVec.extractLsb'_append_eq_of_add_le (by decide)]; exact BitVec.extractLsb'_eq_self
@[simp] theorem part_2_1_4_at_5 (p : BitVec 2) (q : BitVec 1) (r : BitVec 4) : (p ++ q ++ r).extractLsb' 5 2 = p := by
  rw [BitVec.extractLsb'_append_eq_of_le (by decide), BitVec.extractLsb'_append_eq_of_le (by decide)]; exact BitVec.extractLsb'_eq_self
@[simp] theorem part_2_3_1_1_at_0 (p : BitVec 2) (q : BitVec 3) (r : BitVec 1) (s : BitVec 1) : (p ++ q ++ r ++ s).extractLsb' 0 1 = s := by
  rw [BitVec.extractLsb'_append_eq_of_add_le (by decide)]; exact BitVec.extractLsb'_eq_self
@[simp] theorem part_2_3_1_1_at_1 (p : BitVec 2) (q : BitVec 3) (r : BitVec 1) (s : BitVec 1) : (p ++ q ++ r ++ s).extractLsb' 1 1 = r := by
  rw [BitVec.extractLsb'_append_eq_of_le (by decide), BitVec.extractLsb'_append_eq_of_add_le (by decide)]; exact BitVec.extractLsb'_eq_self
@[simp] theorem part_2_3_1_1_at_2 (p : BitVec 2) (q : BitVec 3) (r : BitVec 1) (s : BitVec 1) : (p ++ q ++ r ++ s).extractLsb' 2 3 = q := by
  rw [BitVec.extractLsb'_append_eq_of_le (by decide), BitVec.extractLsb'_append_eq_of_le (by decide), BitVec.extractLsb'_append_eq_of_add_le (by decide)]; exact BitVec.extractLsb'_eq_self
@[simp] theorem part_2_3_1_1_at_5 (p : BitVec 2) (q : BitVec 3) (r : BitVec 1) (s : BitVec 1) : (p ++ q ++ r ++ s).extractLsb' 5 2 = p := by
  rw [BitVec.extractLsb'_append_eq_of_le (by decide), BitVec.extractLsb'_append_eq_of_le (by decide), BitVec.extractLsb'_append_eq_of_le (by decide)]; exact BitVec.extractLsb'_eq_self
@[simp] theorem part_2_5_at_0 (p : BitVec 2) (q : BitVec 5) : (p ++ q).extractLsb' 0 5 = q := by
  rw [BitVec.extractLsb'_append_eq_of_add_le (by decide)]; exact BitVec.extractLsb'_eq_self
@[simp] theorem part_2_5_at_5 (p : BitVec 2) (q : BitVec 5) : (p ++ q).extractLsb' 5 2 = p := by
  rw [BitVec.extractLsb'_append_eq_of_le (by decide)]; exact BitVec.extractLsb'_eq_self
@[simp] theorem part_3_1_3_at_0 (p : BitVec 3) (q : BitVec 1) (r : BitVec 3) : (p ++ q ++ r).extractLsb' 0 3 = r := by
  rw [BitVec.extractLsb'_append_eq_of_add_le (by decide)]; exact BitVec.extractLsb'_eq_self
@[simp] theorem part_3_1_3_at_3 (p : BitVec 3) (q : BitVec 1) (r : BitVec 3) : (p ++ q ++ r).extractLsb' 3 1 = q := by
  rw [BitVec.extractLsb'_append_eq_of_le (by decide), BitVec.extractLsb'_append_eq_of_add_le (by decide)]; exact BitVec.extractLsb'_eq_self
@[simp] theorem part_3_1_3_at_4 (p : BitVec 3) (q : BitVec 1) (r : BitVec 3) : (p ++ q ++ r).extractLsb' 4 3 = p := by
  rw [BitVec.extractLsb'_append_eq_of_le (by decide), BitVec.extractLsb'_append_eq_of_le (by decide)]; exact BitVec.extractLsb'_eq_self
@[simp] theorem part_3_2_2_at_0 (p : BitVec 3) (q : BitVec 2) (r : BitVec 2) : (p ++ q ++ r).extractLsb' 0 2 = r := by
  rw [BitVec.extractLsb'_append_eq_of_add_le (by decide)]; exact BitVec.extractLsb'_eq_self
@[simp] theorem part_3_2_2_at_2 (p : BitVec 3) (q : BitVec 2) (r : BitVec 2) : (p ++ q ++ r).extractLsb' 2 2 = q := by
  rw [BitVec.extractLsb'_append_eq_of_le (by decide), BitVec.extractLsb'_append_eq_of_add_le (by decide)]; exact BitVec.extractLsb'_eq_self
@[simp] theorem part_3_2_2_at_4 (p : BitVec 3) (q : BitVec 2) (r : BitVec 2) : (p ++ q ++ r).extractLsb' 4 3 = p := by
  rw [BitVec.extractLsb'_append_eq_of_le (by decide), BitVec.extractLsb'_append_eq_of_le (by decide)]; exact BitVec.extractLsb'_eq_self
@[simp] theorem part_3_4_at_0 (p : BitVec 3) (q : BitVec 4) : (p ++ q).extractLsb' 0 4 = q := by
  rw [BitVec.extractLsb'_append_eq_of_add_le (by decide)]; exact BitVec.extractLsb'_eq_self
@[simp] theorem part_3_4_at_4 (p : BitVec 3) (q : BitVec 4) : (p ++ q).extractLsb' 4 3 = p := by
  rw [BitVec.extractLsb'_append_eq_of_le (by decide)]; exact BitVec.extractLsb'_eq_self
@[simp] theorem part_4_1_2_at_0 (p : BitVec 4) (q : BitVec 1) (r : BitVec 2) : (p ++ q ++ r).extractLsb' 0 2 = r := by
  rw [BitVec.extractLsb'_append_eq_of_add_le (by decide)]; exact BitVec.extractLsb'_eq_self
@[simp] theorem part_4_1_2_at_2 (p : BitVec 4) (q : BitVec 1) (r : BitVec 2) : (p ++ q ++ r).extractLsb' 2 1 = q := by
  rw [BitVec.extractLsb'_append_eq_of_le (by decide), BitVec.extractLsb'_append_eq_of_add_le (by decide)]; exact BitVec.extractLsb'_eq_self
@[simp] theorem part_4_1_2_at_3 (p : BitVec 4) (q : BitVec 1) (r : BitVec 2) : (p ++ q ++ r).extractLsb' 3 4 = p := by
  rw [BitVec.extractLsb'_append_eq_of_le (by decide), BitVec.extractLsb'_append_eq_of_le (by decide)]; exact BitVec.extractLsb'_eq_self
@[simp] theorem part_4_3_at_0 (p : BitVec 4) (q : BitVec 3) : (p ++ q).extractLsb' 0 3 = q := by
  rw [BitVec.extractLsb'_append_eq_of_add_le (by decide)]; exact BitVec.extractLsb'_eq_self
@[simp] theorem part_4_3_at_3 (p : BitVec 4) (q : BitVec 3) : (p ++ q).extractLsb' 3 4 = p := by
  rw [BitVec.extractLsb'_append_eq_of_le (by decide)]; exact BitVec.extractLsb'_eq_self
@[simp] theorem part_5_2_at_0 (p : BitVec 5) (q : BitVec 2) : (p ++ q).extractLsb' 0 2 = q := by
  rw [BitVec.extractLsb'_append_eq_of_add_le (by decide)]; exact BitVec.extractLsb'_eq_self
@[simp] theorem part_5_2_at_2 (p : BitVec 5) (q : BitVec 2) : (p ++ q).extractLsb' 2 5 = p := by
  rw [BitVec.extractLsb'_append_eq_of_le (by decide)]; exact BitVec.extractLsb'_eq_self
@[simp] theorem part_6_1_at_0 (p : BitVec 6) (q : BitVec 1) : (p ++ q).extractLsb' 0 1 = q := by
  rw [BitVec.extractLsb'_append_eq_of_add_le (by decide)]; exact BitVec.extractLsb'_eq_self
@[simp] theorem part_6_1_at_1 (p : BitVec 6) (q : BitVec 1) : (p ++ q).extractLsb' 1 6 = p := by
  rw [BitVec.extractLsb'_append_eq_of_le (by decide)]; exact BitVec.extractLsb'_eq_self
@[simp] theorem bit_1_1_1_4_at_4 (p : BitVec 1) (q : BitVec 1) (r : BitVec 1) (s : BitVec 4) : (p ++ q ++ r ++ s : BitVec 7)[4] = r[0] := by
  rw [← BitVec.getLsbD_eq_getElem, ← BitVec.getLsbD_eq_getElem]
  simp only [BitVec.getLsbD_append]
  rfl
@[simp] theorem bit_1_1_1_4_at_5 (p : BitVec 1) (q : BitVec 1) (r : BitVec 1) (s : BitVec 4) : (p ++ q ++ r ++ s : BitVec 7)[5] = q[0] := by
  rw [← BitVec.getLsbD_eq_getElem, ← BitVec.getLsbD_eq_getElem]
  simp only [BitVec.getLsbD_append]
  rfl
@[simp] theorem bit_1_1_1_4_at_6 (p : BitVec 1) (q : BitVec 1) (r : BitVec 1) (s : BitVec 4) : (p ++ q ++ r ++ s : BitVec 7)[6] = p[0] := by
  rw [← BitVec.getLsbD_eq_getElem, ← BitVec.getLsbD_eq_getElem]
  simp only [BitVec.getLsbD_append]
  rfl
@[simp] theorem bit_1_1_2_3_at_5 (p : BitVec 1) (q : BitVec 1) (r : BitVec 2) (s : BitVec 3) : (p ++ q ++ r ++ s : BitVec 7)[5] = q[0] := by
  rw [← BitVec.getLsbD_eq_getElem, ← BitVec.getLsbD_eq_getElem]
  simp only [BitVec.getLsbD_append]
  rfl
@[simp] theorem bit_1_1_2_3_at_6 (p : BitVec 1) (q : BitVec 1) (r : BitVec 2) (s : BitVec 3) : (p ++ q ++ r ++ s : BitVec 7)[6] = p[0] := by
  rw [← BitVec.getLsbD_eq_getElem, ← BitVec.getLsbD_eq_getElem]
  simp only [BitVec.getLsbD_append]
  rfl
@[simp] theorem bit_1_2_2_1_1_at_0 (p : BitVec 1) (q : BitVec 2) (r : BitVec 2) (s : BitVec 1) (t : BitVec 1) : (p ++ q ++ r ++ s ++ t : BitVec 7)[0] = t[0] := by
  rw [← BitVec.getLsbD_eq_getElem, ← BitVec.getLsbD_eq_getElem]
  simp only [BitVec.getLsbD_append]
  rfl
@[simp] theorem bit_1_2_2_1_1_at_1 (p : BitVec 1) (q : BitVec 2) (r : BitVec 2) (s : BitVec 1) (t : BitVec 1) : (p ++ q ++ r ++ s ++ t : BitVec 7)[1] = s[0] := by
  rw [← BitVec.getLsbD_eq_getElem, ← BitVec.getLsbD_eq_getElem]
  simp only [BitVec.getLsbD_append]
  rfl
@[simp] theorem bit_1_2_2_1_1_at_6 (p : BitVec 1) (q : BitVec 2) (r : BitVec 2) (s : BitVec 1) (t : BitVec 1) : (p ++ q ++ r ++ s ++ t : BitVec 7)[6] = p[0] := by
  rw [← BitVec.getLsbD_eq_getElem, ← BitVec.getLsbD_eq_getElem]
  simp only [BitVec.getLsbD_append]
  rfl
@[simp] theorem bit_1_2_4_at_6 (p : BitVec 1) (q : BitVec 2) (r : BitVec 4) : (p ++ q ++ r : BitVec 7)[6] = p[0] := by
  rw [← BitVec.getLsbD_eq_getElem, ← BitVec.getLsbD_eq_getElem]
  simp only [BitVec.getLsbD_append]
  rfl
@[simp] theorem bit_1_3_1_2_at_2 (p : BitVec 1) (q : BitVec 3) (r : BitVec 1) (s : BitVec 2) : (p ++ q ++ r ++ s : BitVec 7)[2] = r[0] := by
  rw [← BitVec.getLsbD_eq_getElem, ← BitVec.getLsbD_eq_getElem]
  simp only [BitVec.getLsbD_append]
  rfl
@[simp] theorem bit_1_3_1_2_at_6 (p : BitVec 1) (q : BitVec 3) (r : BitVec 1) (s : BitVec 2) : (p ++ q ++ r ++ s : BitVec 7)[6] = p[0] := by
  rw [← BitVec.getLsbD_eq_getElem, ← BitVec.getLsbD_eq_getElem]
  simp only [BitVec.getLsbD_append]
  rfl
@[simp] theorem bit_1_3_3_at_6 (p : BitVec 1) (q : BitVec 3) (r : BitVec 3) : (p ++ q ++ r : BitVec 7)[6] = p[0] := by
  rw [← BitVec.getLsbD_eq_getElem, ← BitVec.getLsbD_eq_getElem]
  simp only [BitVec.getLsbD_append]
  rfl
@[simp] theorem bit_1_4_2_at_6 (p : BitVec 1) (q : BitVec 4) (r : BitVec 2) : (p ++ q ++ r : BitVec 7)[6] = p[0] := by
  rw [← BitVec.getLsbD_eq_getElem, ← BitVec.getLsbD_eq_getElem]
  simp only [BitVec.getLsbD_append]
  rfl
@[simp] theorem bit_1_6_at_6 (p : BitVec 1) (q : BitVec 6) : (p ++ q : BitVec 7)[6] = p[0] := by
  rw [← BitVec.getLsbD_eq_getElem, ← BitVec.getLsbD_eq_getElem]
  simp only [BitVec.getLsbD_append]
  rfl
@[simp] theorem bit_2_1_1_3_at_3 (p : BitVec 2) (q : BitVec 1) (r : BitVec 1) (s : BitVec 3) : (p ++ q ++ r ++ s : BitVec 7)[3] = r[0] := by
  rw [← BitVec.getLsbD_eq_getElem, ← BitVec.getLsbD_eq_getElem]
  simp only [BitVec.getLsbD_append]
  rfl
@[simp] theorem bit_2_1_1_3_at_4 (p : BitVec 2) (q : BitVec 1) (r : BitVec 1) (s : BitVec 3) : (p ++ q ++ r ++ s : BitVec 7)[4] = q[0] := by
  rw [← BitVec.getLsbD_eq_getElem, ← BitVec.getLsbD_eq_getElem]
  simp only [BitVec.getLsbD_append]
  rfl
@[simp] theorem bit_2_1_3_1_at_0 (p : BitVec 2) (q : BitVec 1) (r : BitVec 3) (s : BitVec 1) : (p ++ q ++ r ++ s : BitVec 7)[0] = s[0] := by
  rw [← BitVec.getLsbD_eq_getElem, ← BitVec.getLsbD_eq_getElem]
  simp only [BitVec.getLsbD_append]
  rfl
@[simp] theorem bit_2_1_3_1_at_4 (p : BitVec 2) (q : BitVec 1) (r : BitVec 3) (s : BitVec 1) : (p ++ q ++ r ++ s : BitVec 7)[4] = q[0] := by
  rw [← BitVec.getLsbD_eq_getElem, ← BitVec.getLsbD_eq_getElem]
  simp only [BitVec.getLsbD_append]
  rfl
@[simp] theorem bit_2_1_4_at_4 (p : BitVec 2) (q : BitVec 1) (r : BitVec 4) : (p ++ q ++ r : BitVec 7)[4] = q[0] := by
  rw [← BitVec.getLsbD_eq_getElem, ← BitVec.getLsbD_eq_getElem]
  simp only [BitVec.getLsbD_append]
  rfl
@[simp] theorem bit_2_3_1_1_at_0 (p : BitVec 2) (q : BitVec 3) (r : BitVec 1) (s : BitVec 1) : (p ++ q ++ r ++ s : BitVec 7)[0] = s[0] := by
  rw [← BitVec.getLsbD_eq_getElem, ← BitVec.getLsbD_eq_getElem]
  simp only [BitVec.getLsbD_append]
  rfl
@[simp] theorem bit_2_3_1_1_at_1 (p : BitVec 2) (q : BitVec 3) (r : BitVec 1) (s : BitVec 1) : (p ++ q ++ r ++ s : BitVec 7)[1] = r[0] := by
  rw [← BitVec.getLsbD_eq_getElem, ← BitVec.getLsbD_eq_getElem]
  simp only [BitVec.getLsbD_append]
  rfl
@[simp] theorem bit_3_1_3_at_3 (p : BitVec 3) (q : BitVec 1) (r : BitVec 3) : (p ++ q ++ r : BitVec 7)[3] = q[0] := by
  rw [← BitVec.getLsbD_eq_getElem, ← BitVec.getLsbD_eq_getElem]
  simp only [BitVec.getLsbD_append]
  rfl
@[simp] theorem bit_4_1_2_at_2 (p : BitVec 4) (q : BitVec 1) (r : BitVec 2) : (p ++ q ++ r : BitVec 7)[2] = q[0] := by
  rw [← BitVec.getLsbD_eq_getElem, ← BitVec.getLsbD_eq_getElem]
  simp only [BitVec.getLsbD_append]
  rfl
@[simp] theorem bit_6_1_at_0 (p : BitVec 6) (q : BitVec 1) : (p ++ q : BitVec 7)[0] = q[0] := by
  rw [← BitVec.getLsbD_eq_getElem, ← BitVec.getLsbD_eq_getElem]
  simp only [BitVec.getLsbD_append]
  rfl
@[simp] theorem bit_5_2_at_6 (a : BitVec 5) (b : BitVec 2) : (a ++ b : BitVec 7)[6] = a[4] := by
  rw [← BitVec.getLsbD_eq_getElem, ← BitVec.getLsbD_eq_getElem]
  simp only [BitVec.getLsbD_append]
  rfl
@[simp] theorem part_5_2_at_2_low (a : BitVec 5) (b : BitVec 2) : (a ++ b).extractLsb' 2 4 = a.extractLsb' 0 4 := by
  rw [BitVec.extractLsb'_append_eq_of_le (by decide)]

/-- The twelve-bit register number of MFSR and MTSR, from its two fields (R215). -/
@[simp] theorem srNum_parts (r : BitVec 12) : r.extractLsb' 7 5 ++ r.extractLsb' 0 7 = r := by
  have hr := r.isLt
  apply BitVec.eq_of_toNat_eq
  simp only [toNat_append_add, BitVec.extractLsb'_toNat, Nat.shiftRight_eq_div_pow]
  omega

/-- The 21-bit immediate of LIMM, from its three fields (R159). -/
@[simp] theorem limm_parts (i : BitVec 21) : i.extractLsb' 14 7 ++ i.extractLsb' 7 7 ++ i.extractLsb' 0 7 = i := by
  have hi := i.isLt
  apply BitVec.eq_of_toNat_eq
  simp only [toNat_append_add, BitVec.extractLsb'_toNat, Nat.shiftRight_eq_div_pow]
  omega

theorem decodeVcvt_plain (f : BitVec 4) (d a z : BitVec 7) (h : isCvtFmt f = true) :
    decodeVcvt (f.toNat % 32) d a z = .ok (.vcvt f d a (z.extractLsb' 4 3) (z.extractLsb' 0 4)) := by
  have hf : f = BitVec.ofNat 4 f.toNat := by simp
  have hl := f.isLt
  generalize f.toNat = n at hf hl
  subst hf
  interval_cases n <;> first | rfl | exact absurd h (by decide)

theorem decodeVcvt_sat (f : BitVec 4) (d a z : BitVec 7) (h : isCvtFmt f = true) :
    decodeVcvt ((16 + f.toNat) % 32) d a z = .ok (.vcvts f d a (z.extractLsb' 4 3) (z.extractLsb' 0 4)) := by
  have hf : f = BitVec.ofNat 4 f.toNat := by simp
  have hl := f.isLt
  generalize f.toNat = n at hf hl
  subst hf
  interval_cases n <;> first | rfl | exact absurd h (by decide)

@[simp] theorem decodeVcvt_quant (d a z : BitVec 7) :
    decodeVcvt 29 d a z = .ok (.vquant d a (z.extractLsb' 4 3) (z.extractLsb' 0 4)) := rfl

@[simp] theorem decodeVcvt_deq (d a z : BitVec 7) :
    decodeVcvt 30 d a z = .ok (.vdeq d a (z.extractLsb' 4 3) (z.extractLsb' 0 4)) := rfl

end Sys2Proof
end

