-- ==== Sys2Proof/Laws/Map.lean ====
section
/-!
SUPPORT. Laws of the sparse tables: reading after writing, and that writing keeps the canonical form.
-/

namespace Sys2Proof.Machine

variable {α : Type}

/-- What a table reads as at a key after its entry is erased. -/
theorem mapFind_mapErase (m : Map α) (i j : Nat) :
    mapFind (mapErase m i) j = if i = j then none else mapFind m j := by
  induction m with
  | nil => simp [mapErase, mapFind]
  | cons e r ih =>
    obtain ⟨k, v⟩ := e
    by_cases hk : k = i <;> by_cases hij : i = j <;> by_cases hkj : k = j <;>
      simp_all [mapErase, mapFind]

theorem mapFind_mapInsert (m : Map α) (i j : Nat) (v : α) :
    mapFind (mapInsert m i v) j = if i = j then some v else mapFind m j := by
  induction m with
  | nil => simp [mapInsert, mapFind]
  | cons e r ih =>
    obtain ⟨k, w⟩ := e
    by_cases h1 : i < k
    · simp [mapInsert, mapFind, h1]
    · by_cases h2 : k = i
      · subst h2; by_cases hij : k = j <;> simp [mapInsert, mapFind, hij]
      · by_cases hkj : k = j
        · subst hkj; simp [mapInsert, mapFind, h1, h2, Ne.symm h2]
        · simp [mapInsert, mapFind, h1, h2, hkj, ih]

/-- A read after a write gives the value written there and what was there elsewhere. -/
theorem mapGet_mapSet [DecidableEq α] (d : α) (m : Map α) (i j : Nat) (v : α) :
    mapGet d (mapSet d m i v) j = if i = j then v else mapGet d m j := by
  by_cases hv : v = d <;> by_cases hij : i = j <;>
    simp [mapGet, mapSet, hv, hij, mapFind_mapErase, mapFind_mapInsert]

@[simp] theorem mapGet_mapSet_same [DecidableEq α] (d : α) (m : Map α) (i : Nat) (v : α) :
    mapGet d (mapSet d m i v) i = v := by simp [mapGet_mapSet]

theorem mapGet_mapSet_ne [DecidableEq α] (d : α) (m : Map α) {i j : Nat} (v : α) (h : i ≠ j) :
    mapGet d (mapSet d m i v) j = mapGet d m j := by simp [mapGet_mapSet, h]

theorem mapWfFrom_mono [DecidableEq α] (d : α) {lo lo' : Nat} (m : Map α) (h : lo' ≤ lo)
    (hm : mapWfFrom d lo m = true) : mapWfFrom d lo' m = true := by
  cases m with
  | nil => rfl
  | cons e r =>
    simp only [mapWfFrom, Bool.and_eq_true, decide_eq_true_eq] at hm ⊢
    exact ⟨⟨Nat.le_trans h hm.1.1, hm.1.2⟩, hm.2⟩

theorem mapWfFrom_mapErase [DecidableEq α] (d : α) (i : Nat) (m : Map α) :
    ∀ lo, mapWfFrom d lo m = true → mapWfFrom d lo (mapErase m i) = true := by
  induction m with
  | nil => intro lo h; exact h
  | cons e r ih =>
    intro lo h
    obtain ⟨k, v⟩ := e
    simp only [mapWfFrom, Bool.and_eq_true, decide_eq_true_eq] at h
    by_cases hk : k = i
    · simp only [mapErase, hk, if_true]
      exact ih lo (mapWfFrom_mono d r (by omega) h.2)
    · simp only [mapErase, hk, if_false, mapWfFrom, Bool.and_eq_true, decide_eq_true_eq]
      exact ⟨h.1, ih _ h.2⟩

theorem mapWfFrom_mapInsert [DecidableEq α] (d : α) (i : Nat) (v : α) (hv : v ≠ d) (m : Map α) :
    ∀ lo, lo ≤ i → mapWfFrom d lo m = true → mapWfFrom d lo (mapInsert m i v) = true := by
  induction m with
  | nil => intro lo hi _; simp [mapInsert, mapWfFrom, hi, hv]
  | cons e r ih =>
    intro lo hi h
    obtain ⟨k, w⟩ := e
    simp only [mapWfFrom, Bool.and_eq_true, decide_eq_true_eq] at h
    by_cases h1 : i < k
    · simp only [mapInsert, h1, if_true, mapWfFrom, Bool.and_eq_true, decide_eq_true_eq]
      exact ⟨⟨hi, hv⟩, ⟨⟨h1, h.1.2⟩, h.2⟩⟩
    · by_cases h2 : k = i
      · subst h2
        simp only [mapInsert, h1, if_false, if_true, mapWfFrom, Bool.and_eq_true, decide_eq_true_eq]
        exact ⟨⟨hi, hv⟩, h.2⟩
      · simp only [mapInsert, h1, h2, if_false, mapWfFrom, Bool.and_eq_true, decide_eq_true_eq]
        exact ⟨h.1, ih (k + 1) (by omega) h.2⟩

/-- Writing keeps a table canonical. -/
theorem mapWf_mapSet [DecidableEq α] (d : α) (m : Map α) (i : Nat) (v : α) (h : mapWf d m = true) :
    mapWf d (mapSet d m i v) = true := by
  by_cases hv : v = d
  · simpa [mapWf, mapSet, hv] using mapWfFrom_mapErase d i m 0 h
  · simpa [mapWf, mapSet, hv] using mapWfFrom_mapInsert d i v hv m 0 (Nat.zero_le i) h

end Sys2Proof.Machine
end

