-- ==== Sys2Proof/Laws/State.lean ====
section
/-!
SUPPORT. Laws of the state's updates: one lemma per update and field, and what each part reads as after it.
-/

namespace Sys2Proof.Machine

/-! ### Tower -/

@[simp] theorem State.updTower_rollback (s : State) (k : Nat) (f : Tower → Tower) : (s.updTower k f).rollback = s.rollback := rfl
@[simp] theorem State.updTower_revoke (s : State) (k : Nat) (f : Tower → Tower) : (s.updTower k f).revoke = s.revoke := rfl
@[simp] theorem State.updTower_firmware (s : State) (k : Nat) (f : Tower → Tower) : (s.updTower k f).firmware = s.firmware := rfl
@[simp] theorem State.updTower_configHash (s : State) (k : Nat) (f : Tower → Tower) : (s.updTower k f).configHash = s.configHash := rfl
@[simp] theorem State.updTower_keyIndex (s : State) (k : Nat) (f : Tower → Tower) : (s.updTower k f).keyIndex = s.keyIndex := rfl
@[simp] theorem State.updTower_keyHashes (s : State) (k : Nat) (f : Tower → Tower) : (s.updTower k f).keyHashes = s.keyHashes := rfl
@[simp] theorem State.updTower_flash (s : State) (k : Nat) (f : Tower → Tower) : (s.updTower k f).flash = s.flash := rfl
@[simp] theorem State.updTower_seed (s : State) (k : Nat) (f : Tower → Tower) : (s.updTower k f).seed = s.seed := rfl
@[simp] theorem State.updTower_count (s : State) (k : Nat) (f : Tower → Tower) : (s.updTower k f).count = s.count := rfl
@[simp] theorem State.updTower_kcap (s : State) (k : Nat) (f : Tower → Tower) : (s.updTower k f).kcap = s.kcap := rfl
@[simp] theorem State.updTower_otbase (s : State) (k : Nat) (f : Tower → Tower) : (s.updTower k f).otbase = s.otbase := rfl
@[simp] theorem State.updTower_tinvMode (s : State) (k : Nat) (f : Tower → Tower) : (s.updTower k f).tinvMode = s.tinvMode := rfl
@[simp] theorem State.updTower_tinvObj (s : State) (k : Nat) (f : Tower → Tower) : (s.updTower k f).tinvObj = s.tinvObj := rfl
@[simp] theorem State.updTower_tinvVpn (s : State) (k : Nat) (f : Tower → Tower) : (s.updTower k f).tinvVpn = s.tinvVpn := rfl
@[simp] theorem State.updTower_tinvBusy (s : State) (k : Nat) (f : Tower → Tower) : (s.updTower k f).tinvBusy = s.tinvBusy := rfl
@[simp] theorem State.updTower_tinvWait (s : State) (k : Nat) (f : Tower → Tower) : (s.updTower k f).tinvWait = s.tinvWait := rfl
@[simp] theorem State.updTower_hmask (s : State) (k : Nat) (f : Tower → Tower) : (s.updTower k f).hmask = s.hmask := rfl
@[simp] theorem State.updTower_hret (s : State) (k : Nat) (f : Tower → Tower) : (s.updTower k f).hret = s.hret := rfl
@[simp] theorem State.updTower_plNent (s : State) (k : Nat) (f : Tower → Tower) : (s.updTower k f).plNent = s.plNent := rfl
@[simp] theorem State.updTower_plNbase (s : State) (k : Nat) (f : Tower → Tower) : (s.updTower k f).plNbase = s.plNbase := rfl
@[simp] theorem State.updTower_plLogp (s : State) (k : Nat) (f : Tower → Tower) : (s.updTower k f).plLogp = s.plLogp := rfl
@[simp] theorem State.updTower_plCur (s : State) (k : Nat) (f : Tower → Tower) : (s.updTower k f).plCur = s.plCur := rfl
@[simp] theorem State.updTower_plArm (s : State) (k : Nat) (f : Tower → Tower) : (s.updTower k f).plArm = s.plArm := rfl
@[simp] theorem State.updTower_plTick (s : State) (k : Nat) (f : Tower → Tower) : (s.updTower k f).plTick = s.plTick := rfl
@[simp] theorem State.updTower_plan (s : State) (k : Nat) (f : Tower → Tower) : (s.updTower k f).plan = s.plan := rfl
@[simp] theorem State.updTower_planLogp (s : State) (k : Nat) (f : Tower → Tower) : (s.updTower k f).planLogp = s.planLogp := rfl
@[simp] theorem State.updTower_planNext (s : State) (k : Nat) (f : Tower → Tower) : (s.updTower k f).planNext = s.planNext := rfl
@[simp] theorem State.updTower_planRead (s : State) (k : Nat) (f : Tower → Tower) : (s.updTower k f).planRead = s.planRead := rfl
@[simp] theorem State.updTower_planSince (s : State) (k : Nat) (f : Tower → Tower) : (s.updTower k f).planSince = s.planSince := rfl
@[simp] theorem State.updTower_planPast (s : State) (k : Nat) (f : Tower → Tower) : (s.updTower k f).planPast = s.planPast := rfl
@[simp] theorem State.updTower_ftUpl (s : State) (k : Nat) (f : Tower → Tower) : (s.updTower k f).ftUpl = s.ftUpl := rfl
@[simp] theorem State.updTower_ftUpt (s : State) (k : Nat) (f : Tower → Tower) : (s.updTower k f).ftUpt = s.ftUpt := rfl
@[simp] theorem State.updTower_ftGm (s : State) (k : Nat) (f : Tower → Tower) : (s.updTower k f).ftGm = s.ftGm := rfl
@[simp] theorem State.updTower_ftLock (s : State) (k : Nat) (f : Tower → Tower) : (s.updTower k f).ftLock = s.ftLock := rfl
@[simp] theorem State.updTower_ftLoff (s : State) (k : Nat) (f : Tower → Tower) : (s.updTower k f).ftLoff = s.ftLoff := rfl
@[simp] theorem State.updTower_ftStepped (s : State) (k : Nat) (f : Tower → Tower) : (s.updTower k f).ftStepped = s.ftStepped := rfl
@[simp] theorem State.updTower_ftRate (s : State) (k : Nat) (f : Tower → Tower) : (s.updTower k f).ftRate = s.ftRate := rfl
@[simp] theorem State.updTower_ftEvery (s : State) (k : Nat) (f : Tower → Tower) : (s.updTower k f).ftEvery = s.ftEvery := rfl
@[simp] theorem State.updTower_ftCount (s : State) (k : Nat) (f : Tower → Tower) : (s.updTower k f).ftCount = s.ftCount := rfl
@[simp] theorem State.updTower_pwrLimit (s : State) (k : Nat) (f : Tower → Tower) : (s.updTower k f).pwrLimit = s.pwrLimit := rfl
@[simp] theorem State.updTower_pwr (s : State) (k : Nat) (f : Tower → Tower) : (s.updTower k f).pwr = s.pwr := rfl
@[simp] theorem State.updTower_pwrMs (s : State) (k : Nat) (f : Tower → Tower) : (s.updTower k f).pwrMs = s.pwrMs := rfl
@[simp] theorem State.updTower_badReads (s : State) (k : Nat) (f : Tower → Tower) : (s.updTower k f).badReads = s.badReads := rfl
@[simp] theorem State.updTower_tlb (s : State) (k : Nat) (f : Tower → Tower) : (s.updTower k f).tlb = s.tlb := rfl
@[simp] theorem State.updTower_gangs (s : State) (k : Nat) (f : Tower → Tower) : (s.updTower k f).gangs = s.gangs := rfl
@[simp] theorem State.updTower_status (s : State) (k : Nat) (f : Tower → Tower) : (s.updTower k f).status = s.status := rfl
@[simp] theorem State.updTower_linkUp (s : State) (k : Nat) (f : Tower → Tower) : (s.updTower k f).linkUp = s.linkUp := rfl
@[simp] theorem State.updTower_windows (s : State) (k : Nat) (f : Tower → Tower) : (s.updTower k f).windows = s.windows := rfl
@[simp] theorem State.updTower_mail (s : State) (k : Nat) (f : Tower → Tower) : (s.updTower k f).mail = s.mail := rfl
@[simp] theorem State.setTower_pkg (s : State) (k : Nat) (x : Tower) : (s.setTower k x).pkg = s.pkg := rfl
@[simp] theorem State.updTower_pkg (s : State) (k : Nat) (f : Tower → Tower) : (s.updTower k f).pkg = s.pkg := rfl
@[simp] theorem State.setTower_dom (s : State) (k : Nat) (x : Tower) : (s.setTower k x).dom = s.dom := rfl
@[simp] theorem State.updTower_dom (s : State) (k : Nat) (f : Tower → Tower) : (s.updTower k f).dom = s.dom := rfl
@[simp] theorem State.setTower_boot (s : State) (k : Nat) (x : Tower) : (s.setTower k x).boot = s.boot := rfl
@[simp] theorem State.updTower_boot (s : State) (k : Nat) (f : Tower → Tower) : (s.updTower k f).boot = s.boot := rfl
@[simp] theorem State.setTower_config (s : State) (k : Nat) (x : Tower) : (s.setTower k x).config = s.config := rfl
@[simp] theorem State.updTower_config (s : State) (k : Nat) (f : Tower → Tower) : (s.updTower k f).config = s.config := rfl
@[simp] theorem State.setTower_mem (s : State) (k : Nat) (x : Tower) : (s.setTower k x).mem = s.mem := (rfl)
@[simp] theorem State.updTower_mem (s : State) (k : Nat) (f : Tower → Tower) : (s.updTower k f).mem = s.mem := (rfl)
@[simp] theorem State.setTower_tags (s : State) (k : Nat) (x : Tower) : (s.setTower k x).tags = s.tags := rfl
@[simp] theorem State.updTower_tags (s : State) (k : Nat) (f : Tower → Tower) : (s.updTower k f).tags = s.tags := rfl
@[simp] theorem State.setTower_reqs (s : State) (k : Nat) (x : Tower) : (s.setTower k x).reqs = s.reqs := rfl
@[simp] theorem State.updTower_reqs (s : State) (k : Nat) (f : Tower → Tower) : (s.updTower k f).reqs = s.reqs := rfl
@[simp] theorem State.setTower_released (s : State) (k : Nat) (x : Tower) : (s.setTower k x).released = s.released := rfl
@[simp] theorem State.updTower_released (s : State) (k : Nat) (f : Tower → Tower) : (s.updTower k f).released = s.released := rfl
@[simp] theorem State.setTower_saved (s : State) (k : Nat) (x : Tower) : (s.setTower k x).saved = s.saved := rfl
@[simp] theorem State.updTower_saved (s : State) (k : Nat) (f : Tower → Tower) : (s.updTower k f).saved = s.saved := rfl
@[simp] theorem State.setTower_layers (s : State) (k : Nat) (x : Tower) : (s.setTower k x).layers = s.layers := rfl
@[simp] theorem State.updTower_layers (s : State) (k : Nat) (f : Tower → Tower) : (s.updTower k f).layers = s.layers := rfl
@[simp] theorem State.setTower_ctxs (s : State) (k : Nat) (x : Tower) : (s.setTower k x).ctxs = s.ctxs := rfl
@[simp] theorem State.updTower_ctxs (s : State) (k : Nat) (f : Tower → Tower) : (s.updTower k f).ctxs = s.ctxs := rfl
@[simp] theorem State.setTower_cells (s : State) (k : Nat) (x : Tower) : (s.setTower k x).cells = s.cells := rfl
@[simp] theorem State.updTower_cells (s : State) (k : Nat) (f : Tower → Tower) : (s.updTower k f).cells = s.cells := rfl
@[simp] theorem State.setTower_cellCtxs (s : State) (k : Nat) (x : Tower) : (s.setTower k x).cellCtxs = s.cellCtxs := rfl
@[simp] theorem State.updTower_cellCtxs (s : State) (k : Nat) (f : Tower → Tower) : (s.updTower k f).cellCtxs = s.cellCtxs := rfl
@[simp] theorem State.setTower_tick (s : State) (k : Nat) (x : Tower) : (s.setTower k x).tick = s.tick := rfl
@[simp] theorem State.updTower_tick (s : State) (k : Nat) (f : Tower → Tower) : (s.updTower k f).tick = s.tick := rfl
@[simp] theorem State.setTower_nextId (s : State) (k : Nat) (x : Tower) : (s.setTower k x).nextId = s.nextId := rfl
@[simp] theorem State.updTower_nextId (s : State) (k : Nat) (f : Tower → Tower) : (s.updTower k f).nextId = s.nextId := rfl
@[simp] theorem State.setTower_choice (s : State) (k : Nat) (x : Tower) : (s.setTower k x).choice = s.choice := rfl
@[simp] theorem State.updTower_choice (s : State) (k : Nat) (f : Tower → Tower) : (s.updTower k f).choice = s.choice := rfl
@[simp] theorem State.setTower_lay (s : State) (k : Nat) (x : Tower) : (s.setTower k x).lay = s.lay := rfl
@[simp] theorem State.updTower_lay (s : State) (k : Nat) (f : Tower → Tower) : (s.updTower k f).lay = s.lay := rfl
@[simp] theorem State.setTower_ctx (s : State) (k : Nat) (x : Tower) : (s.setTower k x).ctx = s.ctx := rfl
@[simp] theorem State.updTower_ctx (s : State) (k : Nat) (f : Tower → Tower) : (s.updTower k f).ctx = s.ctx := rfl
@[simp] theorem State.setTower_cell (s : State) (k : Nat) (x : Tower) : (s.setTower k x).cell = s.cell := rfl
@[simp] theorem State.updTower_cell (s : State) (k : Nat) (f : Tower → Tower) : (s.updTower k f).cell = s.cell := rfl
@[simp] theorem State.setTower_latch (s : State) (k : Nat) (x : Tower) : (s.setTower k x).latch = s.latch := rfl
@[simp] theorem State.updTower_latch (s : State) (k : Nat) (f : Tower → Tower) : (s.updTower k f).latch = s.latch := rfl
@[simp] theorem State.setTower_phase (s : State) (k : Nat) (x : Tower) : (s.setTower k x).phase = s.phase := rfl
@[simp] theorem State.updTower_phase (s : State) (k : Nat) (f : Tower → Tower) : (s.updTower k f).phase = s.phase := rfl
@[simp] theorem State.setTower_agenda (s : State) (k : Nat) (x : Tower) : (s.setTower k x).agenda = s.agenda := rfl
@[simp] theorem State.updTower_agenda (s : State) (k : Nat) (f : Tower → Tower) : (s.updTower k f).agenda = s.agenda := rfl
@[simp] theorem State.updTower_towerAt_same (s : State) (k : Nat) (f : Tower → Tower) : (s.updTower k f).towerAt k = f (s.towerAt k) := by
  simp [State.updTower, State.setTower, State.towerAt]
theorem State.updTower_towerAt_ne (s : State) (f : Tower → Tower) {k j : Nat} (h : k ≠ j) : (s.updTower k f).towerAt j = s.towerAt j := by
  simp [State.updTower, State.setTower, State.towerAt, mapGet_mapSet_ne _ _ _ h]
@[simp] theorem State.updTower_layerAt (s : State) (k j : Nat) (f : Tower → Tower) : (s.updTower k f).layerAt j = s.layerAt j := rfl
@[simp] theorem State.updTower_ctxAt (s : State) (k j : Nat) (f : Tower → Tower) : (s.updTower k f).ctxAt j = s.ctxAt j := rfl
@[simp] theorem State.updTower_cellAt (s : State) (k j : Nat) (f : Tower → Tower) : (s.updTower k f).cellAt j = s.cellAt j := rfl
@[simp] theorem State.updTower_ccAt (s : State) (k j : Nat) (f : Tower → Tower) : (s.updTower k f).ccAt j = s.ccAt j := rfl

/-! ### Layer -/

@[simp] theorem State.updLayer_rollback (s : State) (k : Nat) (f : Layer → Layer) : (s.updLayer k f).rollback = s.rollback := rfl
@[simp] theorem State.updLayer_revoke (s : State) (k : Nat) (f : Layer → Layer) : (s.updLayer k f).revoke = s.revoke := rfl
@[simp] theorem State.updLayer_firmware (s : State) (k : Nat) (f : Layer → Layer) : (s.updLayer k f).firmware = s.firmware := rfl
@[simp] theorem State.updLayer_configHash (s : State) (k : Nat) (f : Layer → Layer) : (s.updLayer k f).configHash = s.configHash := rfl
@[simp] theorem State.updLayer_keyIndex (s : State) (k : Nat) (f : Layer → Layer) : (s.updLayer k f).keyIndex = s.keyIndex := rfl
@[simp] theorem State.updLayer_keyHashes (s : State) (k : Nat) (f : Layer → Layer) : (s.updLayer k f).keyHashes = s.keyHashes := rfl
@[simp] theorem State.updLayer_flash (s : State) (k : Nat) (f : Layer → Layer) : (s.updLayer k f).flash = s.flash := rfl
@[simp] theorem State.updLayer_seed (s : State) (k : Nat) (f : Layer → Layer) : (s.updLayer k f).seed = s.seed := rfl
@[simp] theorem State.updLayer_count (s : State) (k : Nat) (f : Layer → Layer) : (s.updLayer k f).count = s.count := rfl
@[simp] theorem State.updLayer_kcap (s : State) (k : Nat) (f : Layer → Layer) : (s.updLayer k f).kcap = s.kcap := rfl
@[simp] theorem State.updLayer_otbase (s : State) (k : Nat) (f : Layer → Layer) : (s.updLayer k f).otbase = s.otbase := rfl
@[simp] theorem State.updLayer_tinvMode (s : State) (k : Nat) (f : Layer → Layer) : (s.updLayer k f).tinvMode = s.tinvMode := rfl
@[simp] theorem State.updLayer_tinvObj (s : State) (k : Nat) (f : Layer → Layer) : (s.updLayer k f).tinvObj = s.tinvObj := rfl
@[simp] theorem State.updLayer_tinvVpn (s : State) (k : Nat) (f : Layer → Layer) : (s.updLayer k f).tinvVpn = s.tinvVpn := rfl
@[simp] theorem State.updLayer_tinvBusy (s : State) (k : Nat) (f : Layer → Layer) : (s.updLayer k f).tinvBusy = s.tinvBusy := rfl
@[simp] theorem State.updLayer_tinvWait (s : State) (k : Nat) (f : Layer → Layer) : (s.updLayer k f).tinvWait = s.tinvWait := rfl
@[simp] theorem State.updLayer_hmask (s : State) (k : Nat) (f : Layer → Layer) : (s.updLayer k f).hmask = s.hmask := rfl
@[simp] theorem State.updLayer_hret (s : State) (k : Nat) (f : Layer → Layer) : (s.updLayer k f).hret = s.hret := rfl
@[simp] theorem State.updLayer_plNent (s : State) (k : Nat) (f : Layer → Layer) : (s.updLayer k f).plNent = s.plNent := rfl
@[simp] theorem State.updLayer_plNbase (s : State) (k : Nat) (f : Layer → Layer) : (s.updLayer k f).plNbase = s.plNbase := rfl
@[simp] theorem State.updLayer_plLogp (s : State) (k : Nat) (f : Layer → Layer) : (s.updLayer k f).plLogp = s.plLogp := rfl
@[simp] theorem State.updLayer_plCur (s : State) (k : Nat) (f : Layer → Layer) : (s.updLayer k f).plCur = s.plCur := rfl
@[simp] theorem State.updLayer_plArm (s : State) (k : Nat) (f : Layer → Layer) : (s.updLayer k f).plArm = s.plArm := rfl
@[simp] theorem State.updLayer_plTick (s : State) (k : Nat) (f : Layer → Layer) : (s.updLayer k f).plTick = s.plTick := rfl
@[simp] theorem State.updLayer_plan (s : State) (k : Nat) (f : Layer → Layer) : (s.updLayer k f).plan = s.plan := rfl
@[simp] theorem State.updLayer_planLogp (s : State) (k : Nat) (f : Layer → Layer) : (s.updLayer k f).planLogp = s.planLogp := rfl
@[simp] theorem State.updLayer_planNext (s : State) (k : Nat) (f : Layer → Layer) : (s.updLayer k f).planNext = s.planNext := rfl
@[simp] theorem State.updLayer_planRead (s : State) (k : Nat) (f : Layer → Layer) : (s.updLayer k f).planRead = s.planRead := rfl
@[simp] theorem State.updLayer_planSince (s : State) (k : Nat) (f : Layer → Layer) : (s.updLayer k f).planSince = s.planSince := rfl
@[simp] theorem State.updLayer_planPast (s : State) (k : Nat) (f : Layer → Layer) : (s.updLayer k f).planPast = s.planPast := rfl
@[simp] theorem State.updLayer_ftUpl (s : State) (k : Nat) (f : Layer → Layer) : (s.updLayer k f).ftUpl = s.ftUpl := rfl
@[simp] theorem State.updLayer_ftUpt (s : State) (k : Nat) (f : Layer → Layer) : (s.updLayer k f).ftUpt = s.ftUpt := rfl
@[simp] theorem State.updLayer_ftGm (s : State) (k : Nat) (f : Layer → Layer) : (s.updLayer k f).ftGm = s.ftGm := rfl
@[simp] theorem State.updLayer_ftLock (s : State) (k : Nat) (f : Layer → Layer) : (s.updLayer k f).ftLock = s.ftLock := rfl
@[simp] theorem State.updLayer_ftLoff (s : State) (k : Nat) (f : Layer → Layer) : (s.updLayer k f).ftLoff = s.ftLoff := rfl
@[simp] theorem State.updLayer_ftStepped (s : State) (k : Nat) (f : Layer → Layer) : (s.updLayer k f).ftStepped = s.ftStepped := rfl
@[simp] theorem State.updLayer_ftRate (s : State) (k : Nat) (f : Layer → Layer) : (s.updLayer k f).ftRate = s.ftRate := rfl
@[simp] theorem State.updLayer_ftEvery (s : State) (k : Nat) (f : Layer → Layer) : (s.updLayer k f).ftEvery = s.ftEvery := rfl
@[simp] theorem State.updLayer_ftCount (s : State) (k : Nat) (f : Layer → Layer) : (s.updLayer k f).ftCount = s.ftCount := rfl
@[simp] theorem State.updLayer_pwrLimit (s : State) (k : Nat) (f : Layer → Layer) : (s.updLayer k f).pwrLimit = s.pwrLimit := rfl
@[simp] theorem State.updLayer_pwr (s : State) (k : Nat) (f : Layer → Layer) : (s.updLayer k f).pwr = s.pwr := rfl
@[simp] theorem State.updLayer_pwrMs (s : State) (k : Nat) (f : Layer → Layer) : (s.updLayer k f).pwrMs = s.pwrMs := rfl
@[simp] theorem State.updLayer_badReads (s : State) (k : Nat) (f : Layer → Layer) : (s.updLayer k f).badReads = s.badReads := rfl
@[simp] theorem State.updLayer_tlb (s : State) (k : Nat) (f : Layer → Layer) : (s.updLayer k f).tlb = s.tlb := rfl
@[simp] theorem State.updLayer_gangs (s : State) (k : Nat) (f : Layer → Layer) : (s.updLayer k f).gangs = s.gangs := rfl
@[simp] theorem State.updLayer_status (s : State) (k : Nat) (f : Layer → Layer) : (s.updLayer k f).status = s.status := rfl
@[simp] theorem State.updLayer_linkUp (s : State) (k : Nat) (f : Layer → Layer) : (s.updLayer k f).linkUp = s.linkUp := rfl
@[simp] theorem State.updLayer_windows (s : State) (k : Nat) (f : Layer → Layer) : (s.updLayer k f).windows = s.windows := rfl
@[simp] theorem State.updLayer_mail (s : State) (k : Nat) (f : Layer → Layer) : (s.updLayer k f).mail = s.mail := rfl
@[simp] theorem State.setLayer_pkg (s : State) (k : Nat) (x : Layer) : (s.setLayer k x).pkg = s.pkg := rfl
@[simp] theorem State.updLayer_pkg (s : State) (k : Nat) (f : Layer → Layer) : (s.updLayer k f).pkg = s.pkg := rfl
@[simp] theorem State.setLayer_dom (s : State) (k : Nat) (x : Layer) : (s.setLayer k x).dom = s.dom := rfl
@[simp] theorem State.updLayer_dom (s : State) (k : Nat) (f : Layer → Layer) : (s.updLayer k f).dom = s.dom := rfl
@[simp] theorem State.setLayer_boot (s : State) (k : Nat) (x : Layer) : (s.setLayer k x).boot = s.boot := rfl
@[simp] theorem State.updLayer_boot (s : State) (k : Nat) (f : Layer → Layer) : (s.updLayer k f).boot = s.boot := rfl
@[simp] theorem State.setLayer_config (s : State) (k : Nat) (x : Layer) : (s.setLayer k x).config = s.config := rfl
@[simp] theorem State.updLayer_config (s : State) (k : Nat) (f : Layer → Layer) : (s.updLayer k f).config = s.config := rfl
@[simp] theorem State.setLayer_mem (s : State) (k : Nat) (x : Layer) : (s.setLayer k x).mem = s.mem := (rfl)
@[simp] theorem State.updLayer_mem (s : State) (k : Nat) (f : Layer → Layer) : (s.updLayer k f).mem = s.mem := (rfl)
@[simp] theorem State.setLayer_tags (s : State) (k : Nat) (x : Layer) : (s.setLayer k x).tags = s.tags := rfl
@[simp] theorem State.updLayer_tags (s : State) (k : Nat) (f : Layer → Layer) : (s.updLayer k f).tags = s.tags := rfl
@[simp] theorem State.setLayer_reqs (s : State) (k : Nat) (x : Layer) : (s.setLayer k x).reqs = s.reqs := rfl
@[simp] theorem State.updLayer_reqs (s : State) (k : Nat) (f : Layer → Layer) : (s.updLayer k f).reqs = s.reqs := rfl
@[simp] theorem State.setLayer_released (s : State) (k : Nat) (x : Layer) : (s.setLayer k x).released = s.released := rfl
@[simp] theorem State.updLayer_released (s : State) (k : Nat) (f : Layer → Layer) : (s.updLayer k f).released = s.released := rfl
@[simp] theorem State.setLayer_saved (s : State) (k : Nat) (x : Layer) : (s.setLayer k x).saved = s.saved := rfl
@[simp] theorem State.updLayer_saved (s : State) (k : Nat) (f : Layer → Layer) : (s.updLayer k f).saved = s.saved := rfl
@[simp] theorem State.setLayer_towers (s : State) (k : Nat) (x : Layer) : (s.setLayer k x).towers = s.towers := rfl
@[simp] theorem State.updLayer_towers (s : State) (k : Nat) (f : Layer → Layer) : (s.updLayer k f).towers = s.towers := rfl
@[simp] theorem State.setLayer_ctxs (s : State) (k : Nat) (x : Layer) : (s.setLayer k x).ctxs = s.ctxs := rfl
@[simp] theorem State.updLayer_ctxs (s : State) (k : Nat) (f : Layer → Layer) : (s.updLayer k f).ctxs = s.ctxs := rfl
@[simp] theorem State.setLayer_cells (s : State) (k : Nat) (x : Layer) : (s.setLayer k x).cells = s.cells := rfl
@[simp] theorem State.updLayer_cells (s : State) (k : Nat) (f : Layer → Layer) : (s.updLayer k f).cells = s.cells := rfl
@[simp] theorem State.setLayer_cellCtxs (s : State) (k : Nat) (x : Layer) : (s.setLayer k x).cellCtxs = s.cellCtxs := rfl
@[simp] theorem State.updLayer_cellCtxs (s : State) (k : Nat) (f : Layer → Layer) : (s.updLayer k f).cellCtxs = s.cellCtxs := rfl
@[simp] theorem State.setLayer_tick (s : State) (k : Nat) (x : Layer) : (s.setLayer k x).tick = s.tick := rfl
@[simp] theorem State.updLayer_tick (s : State) (k : Nat) (f : Layer → Layer) : (s.updLayer k f).tick = s.tick := rfl
@[simp] theorem State.setLayer_nextId (s : State) (k : Nat) (x : Layer) : (s.setLayer k x).nextId = s.nextId := rfl
@[simp] theorem State.updLayer_nextId (s : State) (k : Nat) (f : Layer → Layer) : (s.updLayer k f).nextId = s.nextId := rfl
@[simp] theorem State.setLayer_choice (s : State) (k : Nat) (x : Layer) : (s.setLayer k x).choice = s.choice := rfl
@[simp] theorem State.updLayer_choice (s : State) (k : Nat) (f : Layer → Layer) : (s.updLayer k f).choice = s.choice := rfl
@[simp] theorem State.setLayer_lay (s : State) (k : Nat) (x : Layer) : (s.setLayer k x).lay = s.lay := rfl
@[simp] theorem State.updLayer_lay (s : State) (k : Nat) (f : Layer → Layer) : (s.updLayer k f).lay = s.lay := rfl
@[simp] theorem State.setLayer_ctx (s : State) (k : Nat) (x : Layer) : (s.setLayer k x).ctx = s.ctx := rfl
@[simp] theorem State.updLayer_ctx (s : State) (k : Nat) (f : Layer → Layer) : (s.updLayer k f).ctx = s.ctx := rfl
@[simp] theorem State.setLayer_cell (s : State) (k : Nat) (x : Layer) : (s.setLayer k x).cell = s.cell := rfl
@[simp] theorem State.updLayer_cell (s : State) (k : Nat) (f : Layer → Layer) : (s.updLayer k f).cell = s.cell := rfl
@[simp] theorem State.setLayer_latch (s : State) (k : Nat) (x : Layer) : (s.setLayer k x).latch = s.latch := rfl
@[simp] theorem State.updLayer_latch (s : State) (k : Nat) (f : Layer → Layer) : (s.updLayer k f).latch = s.latch := rfl
@[simp] theorem State.setLayer_phase (s : State) (k : Nat) (x : Layer) : (s.setLayer k x).phase = s.phase := rfl
@[simp] theorem State.updLayer_phase (s : State) (k : Nat) (f : Layer → Layer) : (s.updLayer k f).phase = s.phase := rfl
@[simp] theorem State.setLayer_agenda (s : State) (k : Nat) (x : Layer) : (s.setLayer k x).agenda = s.agenda := rfl
@[simp] theorem State.updLayer_agenda (s : State) (k : Nat) (f : Layer → Layer) : (s.updLayer k f).agenda = s.agenda := rfl
@[simp] theorem State.updLayer_towerAt (s : State) (k j : Nat) (f : Layer → Layer) : (s.updLayer k f).towerAt j = s.towerAt j := rfl
@[simp] theorem State.updLayer_layerAt_same (s : State) (k : Nat) (f : Layer → Layer) : (s.updLayer k f).layerAt k = f (s.layerAt k) := by
  simp [State.updLayer, State.setLayer, State.layerAt]
theorem State.updLayer_layerAt_ne (s : State) (f : Layer → Layer) {k j : Nat} (h : k ≠ j) : (s.updLayer k f).layerAt j = s.layerAt j := by
  simp [State.updLayer, State.setLayer, State.layerAt, mapGet_mapSet_ne _ _ _ h]
@[simp] theorem State.updLayer_ctxAt (s : State) (k j : Nat) (f : Layer → Layer) : (s.updLayer k f).ctxAt j = s.ctxAt j := rfl
@[simp] theorem State.updLayer_cellAt (s : State) (k j : Nat) (f : Layer → Layer) : (s.updLayer k f).cellAt j = s.cellAt j := rfl
@[simp] theorem State.updLayer_ccAt (s : State) (k j : Nat) (f : Layer → Layer) : (s.updLayer k f).ccAt j = s.ccAt j := rfl

/-! ### Ctx -/

@[simp] theorem State.updCtx_rollback (s : State) (k : Nat) (f : Ctx → Ctx) : (s.updCtx k f).rollback = s.rollback := rfl
@[simp] theorem State.updCtx_revoke (s : State) (k : Nat) (f : Ctx → Ctx) : (s.updCtx k f).revoke = s.revoke := rfl
@[simp] theorem State.updCtx_firmware (s : State) (k : Nat) (f : Ctx → Ctx) : (s.updCtx k f).firmware = s.firmware := rfl
@[simp] theorem State.updCtx_configHash (s : State) (k : Nat) (f : Ctx → Ctx) : (s.updCtx k f).configHash = s.configHash := rfl
@[simp] theorem State.updCtx_keyIndex (s : State) (k : Nat) (f : Ctx → Ctx) : (s.updCtx k f).keyIndex = s.keyIndex := rfl
@[simp] theorem State.updCtx_keyHashes (s : State) (k : Nat) (f : Ctx → Ctx) : (s.updCtx k f).keyHashes = s.keyHashes := rfl
@[simp] theorem State.updCtx_flash (s : State) (k : Nat) (f : Ctx → Ctx) : (s.updCtx k f).flash = s.flash := rfl
@[simp] theorem State.updCtx_seed (s : State) (k : Nat) (f : Ctx → Ctx) : (s.updCtx k f).seed = s.seed := rfl
@[simp] theorem State.updCtx_count (s : State) (k : Nat) (f : Ctx → Ctx) : (s.updCtx k f).count = s.count := rfl
@[simp] theorem State.updCtx_kcap (s : State) (k : Nat) (f : Ctx → Ctx) : (s.updCtx k f).kcap = s.kcap := rfl
@[simp] theorem State.updCtx_otbase (s : State) (k : Nat) (f : Ctx → Ctx) : (s.updCtx k f).otbase = s.otbase := rfl
@[simp] theorem State.updCtx_tinvMode (s : State) (k : Nat) (f : Ctx → Ctx) : (s.updCtx k f).tinvMode = s.tinvMode := rfl
@[simp] theorem State.updCtx_tinvObj (s : State) (k : Nat) (f : Ctx → Ctx) : (s.updCtx k f).tinvObj = s.tinvObj := rfl
@[simp] theorem State.updCtx_tinvVpn (s : State) (k : Nat) (f : Ctx → Ctx) : (s.updCtx k f).tinvVpn = s.tinvVpn := rfl
@[simp] theorem State.updCtx_tinvBusy (s : State) (k : Nat) (f : Ctx → Ctx) : (s.updCtx k f).tinvBusy = s.tinvBusy := rfl
@[simp] theorem State.updCtx_tinvWait (s : State) (k : Nat) (f : Ctx → Ctx) : (s.updCtx k f).tinvWait = s.tinvWait := rfl
@[simp] theorem State.updCtx_hmask (s : State) (k : Nat) (f : Ctx → Ctx) : (s.updCtx k f).hmask = s.hmask := rfl
@[simp] theorem State.updCtx_hret (s : State) (k : Nat) (f : Ctx → Ctx) : (s.updCtx k f).hret = s.hret := rfl
@[simp] theorem State.updCtx_plNent (s : State) (k : Nat) (f : Ctx → Ctx) : (s.updCtx k f).plNent = s.plNent := rfl
@[simp] theorem State.updCtx_plNbase (s : State) (k : Nat) (f : Ctx → Ctx) : (s.updCtx k f).plNbase = s.plNbase := rfl
@[simp] theorem State.updCtx_plLogp (s : State) (k : Nat) (f : Ctx → Ctx) : (s.updCtx k f).plLogp = s.plLogp := rfl
@[simp] theorem State.updCtx_plCur (s : State) (k : Nat) (f : Ctx → Ctx) : (s.updCtx k f).plCur = s.plCur := rfl
@[simp] theorem State.updCtx_plArm (s : State) (k : Nat) (f : Ctx → Ctx) : (s.updCtx k f).plArm = s.plArm := rfl
@[simp] theorem State.updCtx_plTick (s : State) (k : Nat) (f : Ctx → Ctx) : (s.updCtx k f).plTick = s.plTick := rfl
@[simp] theorem State.updCtx_plan (s : State) (k : Nat) (f : Ctx → Ctx) : (s.updCtx k f).plan = s.plan := rfl
@[simp] theorem State.updCtx_planLogp (s : State) (k : Nat) (f : Ctx → Ctx) : (s.updCtx k f).planLogp = s.planLogp := rfl
@[simp] theorem State.updCtx_planNext (s : State) (k : Nat) (f : Ctx → Ctx) : (s.updCtx k f).planNext = s.planNext := rfl
@[simp] theorem State.updCtx_planRead (s : State) (k : Nat) (f : Ctx → Ctx) : (s.updCtx k f).planRead = s.planRead := rfl
@[simp] theorem State.updCtx_planSince (s : State) (k : Nat) (f : Ctx → Ctx) : (s.updCtx k f).planSince = s.planSince := rfl
@[simp] theorem State.updCtx_planPast (s : State) (k : Nat) (f : Ctx → Ctx) : (s.updCtx k f).planPast = s.planPast := rfl
@[simp] theorem State.updCtx_ftUpl (s : State) (k : Nat) (f : Ctx → Ctx) : (s.updCtx k f).ftUpl = s.ftUpl := rfl
@[simp] theorem State.updCtx_ftUpt (s : State) (k : Nat) (f : Ctx → Ctx) : (s.updCtx k f).ftUpt = s.ftUpt := rfl
@[simp] theorem State.updCtx_ftGm (s : State) (k : Nat) (f : Ctx → Ctx) : (s.updCtx k f).ftGm = s.ftGm := rfl
@[simp] theorem State.updCtx_ftLock (s : State) (k : Nat) (f : Ctx → Ctx) : (s.updCtx k f).ftLock = s.ftLock := rfl
@[simp] theorem State.updCtx_ftLoff (s : State) (k : Nat) (f : Ctx → Ctx) : (s.updCtx k f).ftLoff = s.ftLoff := rfl
@[simp] theorem State.updCtx_ftStepped (s : State) (k : Nat) (f : Ctx → Ctx) : (s.updCtx k f).ftStepped = s.ftStepped := rfl
@[simp] theorem State.updCtx_ftRate (s : State) (k : Nat) (f : Ctx → Ctx) : (s.updCtx k f).ftRate = s.ftRate := rfl
@[simp] theorem State.updCtx_ftEvery (s : State) (k : Nat) (f : Ctx → Ctx) : (s.updCtx k f).ftEvery = s.ftEvery := rfl
@[simp] theorem State.updCtx_ftCount (s : State) (k : Nat) (f : Ctx → Ctx) : (s.updCtx k f).ftCount = s.ftCount := rfl
@[simp] theorem State.updCtx_pwrLimit (s : State) (k : Nat) (f : Ctx → Ctx) : (s.updCtx k f).pwrLimit = s.pwrLimit := rfl
@[simp] theorem State.updCtx_pwr (s : State) (k : Nat) (f : Ctx → Ctx) : (s.updCtx k f).pwr = s.pwr := rfl
@[simp] theorem State.updCtx_pwrMs (s : State) (k : Nat) (f : Ctx → Ctx) : (s.updCtx k f).pwrMs = s.pwrMs := rfl
@[simp] theorem State.updCtx_badReads (s : State) (k : Nat) (f : Ctx → Ctx) : (s.updCtx k f).badReads = s.badReads := rfl
@[simp] theorem State.updCtx_tlb (s : State) (k : Nat) (f : Ctx → Ctx) : (s.updCtx k f).tlb = s.tlb := rfl
@[simp] theorem State.updCtx_gangs (s : State) (k : Nat) (f : Ctx → Ctx) : (s.updCtx k f).gangs = s.gangs := rfl
@[simp] theorem State.updCtx_status (s : State) (k : Nat) (f : Ctx → Ctx) : (s.updCtx k f).status = s.status := rfl
@[simp] theorem State.updCtx_linkUp (s : State) (k : Nat) (f : Ctx → Ctx) : (s.updCtx k f).linkUp = s.linkUp := rfl
@[simp] theorem State.updCtx_windows (s : State) (k : Nat) (f : Ctx → Ctx) : (s.updCtx k f).windows = s.windows := rfl
@[simp] theorem State.updCtx_mail (s : State) (k : Nat) (f : Ctx → Ctx) : (s.updCtx k f).mail = s.mail := rfl
@[simp] theorem State.setCtx_pkg (s : State) (k : Nat) (x : Ctx) : (s.setCtx k x).pkg = s.pkg := rfl
@[simp] theorem State.updCtx_pkg (s : State) (k : Nat) (f : Ctx → Ctx) : (s.updCtx k f).pkg = s.pkg := rfl
@[simp] theorem State.setCtx_dom (s : State) (k : Nat) (x : Ctx) : (s.setCtx k x).dom = s.dom := rfl
@[simp] theorem State.updCtx_dom (s : State) (k : Nat) (f : Ctx → Ctx) : (s.updCtx k f).dom = s.dom := rfl
@[simp] theorem State.setCtx_boot (s : State) (k : Nat) (x : Ctx) : (s.setCtx k x).boot = s.boot := rfl
@[simp] theorem State.updCtx_boot (s : State) (k : Nat) (f : Ctx → Ctx) : (s.updCtx k f).boot = s.boot := rfl
@[simp] theorem State.setCtx_config (s : State) (k : Nat) (x : Ctx) : (s.setCtx k x).config = s.config := rfl
@[simp] theorem State.updCtx_config (s : State) (k : Nat) (f : Ctx → Ctx) : (s.updCtx k f).config = s.config := rfl
@[simp] theorem State.setCtx_mem (s : State) (k : Nat) (x : Ctx) : (s.setCtx k x).mem = s.mem := (rfl)
@[simp] theorem State.updCtx_mem (s : State) (k : Nat) (f : Ctx → Ctx) : (s.updCtx k f).mem = s.mem := (rfl)
@[simp] theorem State.setCtx_tags (s : State) (k : Nat) (x : Ctx) : (s.setCtx k x).tags = s.tags := rfl
@[simp] theorem State.updCtx_tags (s : State) (k : Nat) (f : Ctx → Ctx) : (s.updCtx k f).tags = s.tags := rfl
@[simp] theorem State.setCtx_reqs (s : State) (k : Nat) (x : Ctx) : (s.setCtx k x).reqs = s.reqs := rfl
@[simp] theorem State.updCtx_reqs (s : State) (k : Nat) (f : Ctx → Ctx) : (s.updCtx k f).reqs = s.reqs := rfl
@[simp] theorem State.setCtx_released (s : State) (k : Nat) (x : Ctx) : (s.setCtx k x).released = s.released := rfl
@[simp] theorem State.updCtx_released (s : State) (k : Nat) (f : Ctx → Ctx) : (s.updCtx k f).released = s.released := rfl
@[simp] theorem State.setCtx_saved (s : State) (k : Nat) (x : Ctx) : (s.setCtx k x).saved = s.saved := rfl
@[simp] theorem State.updCtx_saved (s : State) (k : Nat) (f : Ctx → Ctx) : (s.updCtx k f).saved = s.saved := rfl
@[simp] theorem State.setCtx_towers (s : State) (k : Nat) (x : Ctx) : (s.setCtx k x).towers = s.towers := rfl
@[simp] theorem State.updCtx_towers (s : State) (k : Nat) (f : Ctx → Ctx) : (s.updCtx k f).towers = s.towers := rfl
@[simp] theorem State.setCtx_layers (s : State) (k : Nat) (x : Ctx) : (s.setCtx k x).layers = s.layers := rfl
@[simp] theorem State.updCtx_layers (s : State) (k : Nat) (f : Ctx → Ctx) : (s.updCtx k f).layers = s.layers := rfl
@[simp] theorem State.setCtx_cells (s : State) (k : Nat) (x : Ctx) : (s.setCtx k x).cells = s.cells := rfl
@[simp] theorem State.updCtx_cells (s : State) (k : Nat) (f : Ctx → Ctx) : (s.updCtx k f).cells = s.cells := rfl
@[simp] theorem State.setCtx_cellCtxs (s : State) (k : Nat) (x : Ctx) : (s.setCtx k x).cellCtxs = s.cellCtxs := rfl
@[simp] theorem State.updCtx_cellCtxs (s : State) (k : Nat) (f : Ctx → Ctx) : (s.updCtx k f).cellCtxs = s.cellCtxs := rfl
@[simp] theorem State.setCtx_tick (s : State) (k : Nat) (x : Ctx) : (s.setCtx k x).tick = s.tick := rfl
@[simp] theorem State.updCtx_tick (s : State) (k : Nat) (f : Ctx → Ctx) : (s.updCtx k f).tick = s.tick := rfl
@[simp] theorem State.setCtx_nextId (s : State) (k : Nat) (x : Ctx) : (s.setCtx k x).nextId = s.nextId := rfl
@[simp] theorem State.updCtx_nextId (s : State) (k : Nat) (f : Ctx → Ctx) : (s.updCtx k f).nextId = s.nextId := rfl
@[simp] theorem State.setCtx_choice (s : State) (k : Nat) (x : Ctx) : (s.setCtx k x).choice = s.choice := rfl
@[simp] theorem State.updCtx_choice (s : State) (k : Nat) (f : Ctx → Ctx) : (s.updCtx k f).choice = s.choice := rfl
@[simp] theorem State.setCtx_lay (s : State) (k : Nat) (x : Ctx) : (s.setCtx k x).lay = s.lay := rfl
@[simp] theorem State.updCtx_lay (s : State) (k : Nat) (f : Ctx → Ctx) : (s.updCtx k f).lay = s.lay := rfl
@[simp] theorem State.setCtx_ctx (s : State) (k : Nat) (x : Ctx) : (s.setCtx k x).ctx = s.ctx := rfl
@[simp] theorem State.updCtx_ctx (s : State) (k : Nat) (f : Ctx → Ctx) : (s.updCtx k f).ctx = s.ctx := rfl
@[simp] theorem State.setCtx_cell (s : State) (k : Nat) (x : Ctx) : (s.setCtx k x).cell = s.cell := rfl
@[simp] theorem State.updCtx_cell (s : State) (k : Nat) (f : Ctx → Ctx) : (s.updCtx k f).cell = s.cell := rfl
@[simp] theorem State.setCtx_latch (s : State) (k : Nat) (x : Ctx) : (s.setCtx k x).latch = s.latch := rfl
@[simp] theorem State.updCtx_latch (s : State) (k : Nat) (f : Ctx → Ctx) : (s.updCtx k f).latch = s.latch := rfl
@[simp] theorem State.setCtx_phase (s : State) (k : Nat) (x : Ctx) : (s.setCtx k x).phase = s.phase := rfl
@[simp] theorem State.updCtx_phase (s : State) (k : Nat) (f : Ctx → Ctx) : (s.updCtx k f).phase = s.phase := rfl
@[simp] theorem State.setCtx_agenda (s : State) (k : Nat) (x : Ctx) : (s.setCtx k x).agenda = s.agenda := rfl
@[simp] theorem State.updCtx_agenda (s : State) (k : Nat) (f : Ctx → Ctx) : (s.updCtx k f).agenda = s.agenda := rfl
@[simp] theorem State.updCtx_towerAt (s : State) (k j : Nat) (f : Ctx → Ctx) : (s.updCtx k f).towerAt j = s.towerAt j := rfl
@[simp] theorem State.updCtx_layerAt (s : State) (k j : Nat) (f : Ctx → Ctx) : (s.updCtx k f).layerAt j = s.layerAt j := rfl
@[simp] theorem State.updCtx_ctxAt_same (s : State) (k : Nat) (f : Ctx → Ctx) : (s.updCtx k f).ctxAt k = f (s.ctxAt k) := by
  simp [State.updCtx, State.setCtx, State.ctxAt]
theorem State.updCtx_ctxAt_ne (s : State) (f : Ctx → Ctx) {k j : Nat} (h : k ≠ j) : (s.updCtx k f).ctxAt j = s.ctxAt j := by
  simp [State.updCtx, State.setCtx, State.ctxAt, mapGet_mapSet_ne _ _ _ h]
@[simp] theorem State.updCtx_cellAt (s : State) (k j : Nat) (f : Ctx → Ctx) : (s.updCtx k f).cellAt j = s.cellAt j := rfl
@[simp] theorem State.updCtx_ccAt (s : State) (k j : Nat) (f : Ctx → Ctx) : (s.updCtx k f).ccAt j = s.ccAt j := rfl

/-! ### Cell -/

@[simp] theorem State.updCell_rollback (s : State) (k : Nat) (f : Cell → Cell) : (s.updCell k f).rollback = s.rollback := rfl
@[simp] theorem State.updCell_revoke (s : State) (k : Nat) (f : Cell → Cell) : (s.updCell k f).revoke = s.revoke := rfl
@[simp] theorem State.updCell_firmware (s : State) (k : Nat) (f : Cell → Cell) : (s.updCell k f).firmware = s.firmware := rfl
@[simp] theorem State.updCell_configHash (s : State) (k : Nat) (f : Cell → Cell) : (s.updCell k f).configHash = s.configHash := rfl
@[simp] theorem State.updCell_keyIndex (s : State) (k : Nat) (f : Cell → Cell) : (s.updCell k f).keyIndex = s.keyIndex := rfl
@[simp] theorem State.updCell_keyHashes (s : State) (k : Nat) (f : Cell → Cell) : (s.updCell k f).keyHashes = s.keyHashes := rfl
@[simp] theorem State.updCell_flash (s : State) (k : Nat) (f : Cell → Cell) : (s.updCell k f).flash = s.flash := rfl
@[simp] theorem State.updCell_seed (s : State) (k : Nat) (f : Cell → Cell) : (s.updCell k f).seed = s.seed := rfl
@[simp] theorem State.updCell_count (s : State) (k : Nat) (f : Cell → Cell) : (s.updCell k f).count = s.count := rfl
@[simp] theorem State.updCell_kcap (s : State) (k : Nat) (f : Cell → Cell) : (s.updCell k f).kcap = s.kcap := rfl
@[simp] theorem State.updCell_otbase (s : State) (k : Nat) (f : Cell → Cell) : (s.updCell k f).otbase = s.otbase := rfl
@[simp] theorem State.updCell_tinvMode (s : State) (k : Nat) (f : Cell → Cell) : (s.updCell k f).tinvMode = s.tinvMode := rfl
@[simp] theorem State.updCell_tinvObj (s : State) (k : Nat) (f : Cell → Cell) : (s.updCell k f).tinvObj = s.tinvObj := rfl
@[simp] theorem State.updCell_tinvVpn (s : State) (k : Nat) (f : Cell → Cell) : (s.updCell k f).tinvVpn = s.tinvVpn := rfl
@[simp] theorem State.updCell_tinvBusy (s : State) (k : Nat) (f : Cell → Cell) : (s.updCell k f).tinvBusy = s.tinvBusy := rfl
@[simp] theorem State.updCell_tinvWait (s : State) (k : Nat) (f : Cell → Cell) : (s.updCell k f).tinvWait = s.tinvWait := rfl
@[simp] theorem State.updCell_hmask (s : State) (k : Nat) (f : Cell → Cell) : (s.updCell k f).hmask = s.hmask := rfl
@[simp] theorem State.updCell_hret (s : State) (k : Nat) (f : Cell → Cell) : (s.updCell k f).hret = s.hret := rfl
@[simp] theorem State.updCell_plNent (s : State) (k : Nat) (f : Cell → Cell) : (s.updCell k f).plNent = s.plNent := rfl
@[simp] theorem State.updCell_plNbase (s : State) (k : Nat) (f : Cell → Cell) : (s.updCell k f).plNbase = s.plNbase := rfl
@[simp] theorem State.updCell_plLogp (s : State) (k : Nat) (f : Cell → Cell) : (s.updCell k f).plLogp = s.plLogp := rfl
@[simp] theorem State.updCell_plCur (s : State) (k : Nat) (f : Cell → Cell) : (s.updCell k f).plCur = s.plCur := rfl
@[simp] theorem State.updCell_plArm (s : State) (k : Nat) (f : Cell → Cell) : (s.updCell k f).plArm = s.plArm := rfl
@[simp] theorem State.updCell_plTick (s : State) (k : Nat) (f : Cell → Cell) : (s.updCell k f).plTick = s.plTick := rfl
@[simp] theorem State.updCell_plan (s : State) (k : Nat) (f : Cell → Cell) : (s.updCell k f).plan = s.plan := rfl
@[simp] theorem State.updCell_planLogp (s : State) (k : Nat) (f : Cell → Cell) : (s.updCell k f).planLogp = s.planLogp := rfl
@[simp] theorem State.updCell_planNext (s : State) (k : Nat) (f : Cell → Cell) : (s.updCell k f).planNext = s.planNext := rfl
@[simp] theorem State.updCell_planRead (s : State) (k : Nat) (f : Cell → Cell) : (s.updCell k f).planRead = s.planRead := rfl
@[simp] theorem State.updCell_planSince (s : State) (k : Nat) (f : Cell → Cell) : (s.updCell k f).planSince = s.planSince := rfl
@[simp] theorem State.updCell_planPast (s : State) (k : Nat) (f : Cell → Cell) : (s.updCell k f).planPast = s.planPast := rfl
@[simp] theorem State.updCell_ftUpl (s : State) (k : Nat) (f : Cell → Cell) : (s.updCell k f).ftUpl = s.ftUpl := rfl
@[simp] theorem State.updCell_ftUpt (s : State) (k : Nat) (f : Cell → Cell) : (s.updCell k f).ftUpt = s.ftUpt := rfl
@[simp] theorem State.updCell_ftGm (s : State) (k : Nat) (f : Cell → Cell) : (s.updCell k f).ftGm = s.ftGm := rfl
@[simp] theorem State.updCell_ftLock (s : State) (k : Nat) (f : Cell → Cell) : (s.updCell k f).ftLock = s.ftLock := rfl
@[simp] theorem State.updCell_ftLoff (s : State) (k : Nat) (f : Cell → Cell) : (s.updCell k f).ftLoff = s.ftLoff := rfl
@[simp] theorem State.updCell_ftStepped (s : State) (k : Nat) (f : Cell → Cell) : (s.updCell k f).ftStepped = s.ftStepped := rfl
@[simp] theorem State.updCell_ftRate (s : State) (k : Nat) (f : Cell → Cell) : (s.updCell k f).ftRate = s.ftRate := rfl
@[simp] theorem State.updCell_ftEvery (s : State) (k : Nat) (f : Cell → Cell) : (s.updCell k f).ftEvery = s.ftEvery := rfl
@[simp] theorem State.updCell_ftCount (s : State) (k : Nat) (f : Cell → Cell) : (s.updCell k f).ftCount = s.ftCount := rfl
@[simp] theorem State.updCell_pwrLimit (s : State) (k : Nat) (f : Cell → Cell) : (s.updCell k f).pwrLimit = s.pwrLimit := rfl
@[simp] theorem State.updCell_pwr (s : State) (k : Nat) (f : Cell → Cell) : (s.updCell k f).pwr = s.pwr := rfl
@[simp] theorem State.updCell_pwrMs (s : State) (k : Nat) (f : Cell → Cell) : (s.updCell k f).pwrMs = s.pwrMs := rfl
@[simp] theorem State.updCell_badReads (s : State) (k : Nat) (f : Cell → Cell) : (s.updCell k f).badReads = s.badReads := rfl
@[simp] theorem State.updCell_tlb (s : State) (k : Nat) (f : Cell → Cell) : (s.updCell k f).tlb = s.tlb := rfl
@[simp] theorem State.updCell_gangs (s : State) (k : Nat) (f : Cell → Cell) : (s.updCell k f).gangs = s.gangs := rfl
@[simp] theorem State.updCell_status (s : State) (k : Nat) (f : Cell → Cell) : (s.updCell k f).status = s.status := rfl
@[simp] theorem State.updCell_linkUp (s : State) (k : Nat) (f : Cell → Cell) : (s.updCell k f).linkUp = s.linkUp := rfl
@[simp] theorem State.updCell_windows (s : State) (k : Nat) (f : Cell → Cell) : (s.updCell k f).windows = s.windows := rfl
@[simp] theorem State.updCell_mail (s : State) (k : Nat) (f : Cell → Cell) : (s.updCell k f).mail = s.mail := rfl
@[simp] theorem State.setCell_pkg (s : State) (k : Nat) (x : Cell) : (s.setCell k x).pkg = s.pkg := rfl
@[simp] theorem State.updCell_pkg (s : State) (k : Nat) (f : Cell → Cell) : (s.updCell k f).pkg = s.pkg := rfl
@[simp] theorem State.setCell_dom (s : State) (k : Nat) (x : Cell) : (s.setCell k x).dom = s.dom := rfl
@[simp] theorem State.updCell_dom (s : State) (k : Nat) (f : Cell → Cell) : (s.updCell k f).dom = s.dom := rfl
@[simp] theorem State.setCell_boot (s : State) (k : Nat) (x : Cell) : (s.setCell k x).boot = s.boot := rfl
@[simp] theorem State.updCell_boot (s : State) (k : Nat) (f : Cell → Cell) : (s.updCell k f).boot = s.boot := rfl
@[simp] theorem State.setCell_config (s : State) (k : Nat) (x : Cell) : (s.setCell k x).config = s.config := rfl
@[simp] theorem State.updCell_config (s : State) (k : Nat) (f : Cell → Cell) : (s.updCell k f).config = s.config := rfl
@[simp] theorem State.setCell_mem (s : State) (k : Nat) (x : Cell) : (s.setCell k x).mem = s.mem := (rfl)
@[simp] theorem State.updCell_mem (s : State) (k : Nat) (f : Cell → Cell) : (s.updCell k f).mem = s.mem := (rfl)
@[simp] theorem State.setCell_tags (s : State) (k : Nat) (x : Cell) : (s.setCell k x).tags = s.tags := rfl
@[simp] theorem State.updCell_tags (s : State) (k : Nat) (f : Cell → Cell) : (s.updCell k f).tags = s.tags := rfl
@[simp] theorem State.setCell_reqs (s : State) (k : Nat) (x : Cell) : (s.setCell k x).reqs = s.reqs := rfl
@[simp] theorem State.updCell_reqs (s : State) (k : Nat) (f : Cell → Cell) : (s.updCell k f).reqs = s.reqs := rfl
@[simp] theorem State.setCell_released (s : State) (k : Nat) (x : Cell) : (s.setCell k x).released = s.released := rfl
@[simp] theorem State.updCell_released (s : State) (k : Nat) (f : Cell → Cell) : (s.updCell k f).released = s.released := rfl
@[simp] theorem State.setCell_saved (s : State) (k : Nat) (x : Cell) : (s.setCell k x).saved = s.saved := rfl
@[simp] theorem State.updCell_saved (s : State) (k : Nat) (f : Cell → Cell) : (s.updCell k f).saved = s.saved := rfl
@[simp] theorem State.setCell_towers (s : State) (k : Nat) (x : Cell) : (s.setCell k x).towers = s.towers := rfl
@[simp] theorem State.updCell_towers (s : State) (k : Nat) (f : Cell → Cell) : (s.updCell k f).towers = s.towers := rfl
@[simp] theorem State.setCell_layers (s : State) (k : Nat) (x : Cell) : (s.setCell k x).layers = s.layers := rfl
@[simp] theorem State.updCell_layers (s : State) (k : Nat) (f : Cell → Cell) : (s.updCell k f).layers = s.layers := rfl
@[simp] theorem State.setCell_ctxs (s : State) (k : Nat) (x : Cell) : (s.setCell k x).ctxs = s.ctxs := rfl
@[simp] theorem State.updCell_ctxs (s : State) (k : Nat) (f : Cell → Cell) : (s.updCell k f).ctxs = s.ctxs := rfl
@[simp] theorem State.setCell_cellCtxs (s : State) (k : Nat) (x : Cell) : (s.setCell k x).cellCtxs = s.cellCtxs := rfl
@[simp] theorem State.updCell_cellCtxs (s : State) (k : Nat) (f : Cell → Cell) : (s.updCell k f).cellCtxs = s.cellCtxs := rfl
@[simp] theorem State.setCell_tick (s : State) (k : Nat) (x : Cell) : (s.setCell k x).tick = s.tick := rfl
@[simp] theorem State.updCell_tick (s : State) (k : Nat) (f : Cell → Cell) : (s.updCell k f).tick = s.tick := rfl
@[simp] theorem State.setCell_nextId (s : State) (k : Nat) (x : Cell) : (s.setCell k x).nextId = s.nextId := rfl
@[simp] theorem State.updCell_nextId (s : State) (k : Nat) (f : Cell → Cell) : (s.updCell k f).nextId = s.nextId := rfl
@[simp] theorem State.setCell_choice (s : State) (k : Nat) (x : Cell) : (s.setCell k x).choice = s.choice := rfl
@[simp] theorem State.updCell_choice (s : State) (k : Nat) (f : Cell → Cell) : (s.updCell k f).choice = s.choice := rfl
@[simp] theorem State.setCell_lay (s : State) (k : Nat) (x : Cell) : (s.setCell k x).lay = s.lay := rfl
@[simp] theorem State.updCell_lay (s : State) (k : Nat) (f : Cell → Cell) : (s.updCell k f).lay = s.lay := rfl
@[simp] theorem State.setCell_ctx (s : State) (k : Nat) (x : Cell) : (s.setCell k x).ctx = s.ctx := rfl
@[simp] theorem State.updCell_ctx (s : State) (k : Nat) (f : Cell → Cell) : (s.updCell k f).ctx = s.ctx := rfl
@[simp] theorem State.setCell_cell (s : State) (k : Nat) (x : Cell) : (s.setCell k x).cell = s.cell := rfl
@[simp] theorem State.updCell_cell (s : State) (k : Nat) (f : Cell → Cell) : (s.updCell k f).cell = s.cell := rfl
@[simp] theorem State.setCell_latch (s : State) (k : Nat) (x : Cell) : (s.setCell k x).latch = s.latch := rfl
@[simp] theorem State.updCell_latch (s : State) (k : Nat) (f : Cell → Cell) : (s.updCell k f).latch = s.latch := rfl
@[simp] theorem State.setCell_phase (s : State) (k : Nat) (x : Cell) : (s.setCell k x).phase = s.phase := rfl
@[simp] theorem State.updCell_phase (s : State) (k : Nat) (f : Cell → Cell) : (s.updCell k f).phase = s.phase := rfl
@[simp] theorem State.setCell_agenda (s : State) (k : Nat) (x : Cell) : (s.setCell k x).agenda = s.agenda := rfl
@[simp] theorem State.updCell_agenda (s : State) (k : Nat) (f : Cell → Cell) : (s.updCell k f).agenda = s.agenda := rfl
@[simp] theorem State.updCell_towerAt (s : State) (k j : Nat) (f : Cell → Cell) : (s.updCell k f).towerAt j = s.towerAt j := rfl
@[simp] theorem State.updCell_layerAt (s : State) (k j : Nat) (f : Cell → Cell) : (s.updCell k f).layerAt j = s.layerAt j := rfl
@[simp] theorem State.updCell_ctxAt (s : State) (k j : Nat) (f : Cell → Cell) : (s.updCell k f).ctxAt j = s.ctxAt j := rfl
@[simp] theorem State.updCell_cellAt_same (s : State) (k : Nat) (f : Cell → Cell) : (s.updCell k f).cellAt k = f (s.cellAt k) := by
  simp [State.updCell, State.setCell, State.cellAt]
theorem State.updCell_cellAt_ne (s : State) (f : Cell → Cell) {k j : Nat} (h : k ≠ j) : (s.updCell k f).cellAt j = s.cellAt j := by
  simp [State.updCell, State.setCell, State.cellAt, mapGet_mapSet_ne _ _ _ h]
@[simp] theorem State.updCell_ccAt (s : State) (k j : Nat) (f : Cell → Cell) : (s.updCell k f).ccAt j = s.ccAt j := rfl

/-! ### CellCtx -/

@[simp] theorem State.updCc_rollback (s : State) (k : Nat) (f : CellCtx → CellCtx) : (s.updCc k f).rollback = s.rollback := rfl
@[simp] theorem State.updCc_revoke (s : State) (k : Nat) (f : CellCtx → CellCtx) : (s.updCc k f).revoke = s.revoke := rfl
@[simp] theorem State.updCc_firmware (s : State) (k : Nat) (f : CellCtx → CellCtx) : (s.updCc k f).firmware = s.firmware := rfl
@[simp] theorem State.updCc_configHash (s : State) (k : Nat) (f : CellCtx → CellCtx) : (s.updCc k f).configHash = s.configHash := rfl
@[simp] theorem State.updCc_keyIndex (s : State) (k : Nat) (f : CellCtx → CellCtx) : (s.updCc k f).keyIndex = s.keyIndex := rfl
@[simp] theorem State.updCc_keyHashes (s : State) (k : Nat) (f : CellCtx → CellCtx) : (s.updCc k f).keyHashes = s.keyHashes := rfl
@[simp] theorem State.updCc_flash (s : State) (k : Nat) (f : CellCtx → CellCtx) : (s.updCc k f).flash = s.flash := rfl
@[simp] theorem State.updCc_seed (s : State) (k : Nat) (f : CellCtx → CellCtx) : (s.updCc k f).seed = s.seed := rfl
@[simp] theorem State.updCc_count (s : State) (k : Nat) (f : CellCtx → CellCtx) : (s.updCc k f).count = s.count := rfl
@[simp] theorem State.updCc_kcap (s : State) (k : Nat) (f : CellCtx → CellCtx) : (s.updCc k f).kcap = s.kcap := rfl
@[simp] theorem State.updCc_otbase (s : State) (k : Nat) (f : CellCtx → CellCtx) : (s.updCc k f).otbase = s.otbase := rfl
@[simp] theorem State.updCc_tinvMode (s : State) (k : Nat) (f : CellCtx → CellCtx) : (s.updCc k f).tinvMode = s.tinvMode := rfl
@[simp] theorem State.updCc_tinvObj (s : State) (k : Nat) (f : CellCtx → CellCtx) : (s.updCc k f).tinvObj = s.tinvObj := rfl
@[simp] theorem State.updCc_tinvVpn (s : State) (k : Nat) (f : CellCtx → CellCtx) : (s.updCc k f).tinvVpn = s.tinvVpn := rfl
@[simp] theorem State.updCc_tinvBusy (s : State) (k : Nat) (f : CellCtx → CellCtx) : (s.updCc k f).tinvBusy = s.tinvBusy := rfl
@[simp] theorem State.updCc_tinvWait (s : State) (k : Nat) (f : CellCtx → CellCtx) : (s.updCc k f).tinvWait = s.tinvWait := rfl
@[simp] theorem State.updCc_hmask (s : State) (k : Nat) (f : CellCtx → CellCtx) : (s.updCc k f).hmask = s.hmask := rfl
@[simp] theorem State.updCc_hret (s : State) (k : Nat) (f : CellCtx → CellCtx) : (s.updCc k f).hret = s.hret := rfl
@[simp] theorem State.updCc_plNent (s : State) (k : Nat) (f : CellCtx → CellCtx) : (s.updCc k f).plNent = s.plNent := rfl
@[simp] theorem State.updCc_plNbase (s : State) (k : Nat) (f : CellCtx → CellCtx) : (s.updCc k f).plNbase = s.plNbase := rfl
@[simp] theorem State.updCc_plLogp (s : State) (k : Nat) (f : CellCtx → CellCtx) : (s.updCc k f).plLogp = s.plLogp := rfl
@[simp] theorem State.updCc_plCur (s : State) (k : Nat) (f : CellCtx → CellCtx) : (s.updCc k f).plCur = s.plCur := rfl
@[simp] theorem State.updCc_plArm (s : State) (k : Nat) (f : CellCtx → CellCtx) : (s.updCc k f).plArm = s.plArm := rfl
@[simp] theorem State.updCc_plTick (s : State) (k : Nat) (f : CellCtx → CellCtx) : (s.updCc k f).plTick = s.plTick := rfl
@[simp] theorem State.updCc_plan (s : State) (k : Nat) (f : CellCtx → CellCtx) : (s.updCc k f).plan = s.plan := rfl
@[simp] theorem State.updCc_planLogp (s : State) (k : Nat) (f : CellCtx → CellCtx) : (s.updCc k f).planLogp = s.planLogp := rfl
@[simp] theorem State.updCc_planNext (s : State) (k : Nat) (f : CellCtx → CellCtx) : (s.updCc k f).planNext = s.planNext := rfl
@[simp] theorem State.updCc_planRead (s : State) (k : Nat) (f : CellCtx → CellCtx) : (s.updCc k f).planRead = s.planRead := rfl
@[simp] theorem State.updCc_planSince (s : State) (k : Nat) (f : CellCtx → CellCtx) : (s.updCc k f).planSince = s.planSince := rfl
@[simp] theorem State.updCc_planPast (s : State) (k : Nat) (f : CellCtx → CellCtx) : (s.updCc k f).planPast = s.planPast := rfl
@[simp] theorem State.updCc_ftUpl (s : State) (k : Nat) (f : CellCtx → CellCtx) : (s.updCc k f).ftUpl = s.ftUpl := rfl
@[simp] theorem State.updCc_ftUpt (s : State) (k : Nat) (f : CellCtx → CellCtx) : (s.updCc k f).ftUpt = s.ftUpt := rfl
@[simp] theorem State.updCc_ftGm (s : State) (k : Nat) (f : CellCtx → CellCtx) : (s.updCc k f).ftGm = s.ftGm := rfl
@[simp] theorem State.updCc_ftLock (s : State) (k : Nat) (f : CellCtx → CellCtx) : (s.updCc k f).ftLock = s.ftLock := rfl
@[simp] theorem State.updCc_ftLoff (s : State) (k : Nat) (f : CellCtx → CellCtx) : (s.updCc k f).ftLoff = s.ftLoff := rfl
@[simp] theorem State.updCc_ftStepped (s : State) (k : Nat) (f : CellCtx → CellCtx) : (s.updCc k f).ftStepped = s.ftStepped := rfl
@[simp] theorem State.updCc_ftRate (s : State) (k : Nat) (f : CellCtx → CellCtx) : (s.updCc k f).ftRate = s.ftRate := rfl
@[simp] theorem State.updCc_ftEvery (s : State) (k : Nat) (f : CellCtx → CellCtx) : (s.updCc k f).ftEvery = s.ftEvery := rfl
@[simp] theorem State.updCc_ftCount (s : State) (k : Nat) (f : CellCtx → CellCtx) : (s.updCc k f).ftCount = s.ftCount := rfl
@[simp] theorem State.updCc_pwrLimit (s : State) (k : Nat) (f : CellCtx → CellCtx) : (s.updCc k f).pwrLimit = s.pwrLimit := rfl
@[simp] theorem State.updCc_pwr (s : State) (k : Nat) (f : CellCtx → CellCtx) : (s.updCc k f).pwr = s.pwr := rfl
@[simp] theorem State.updCc_pwrMs (s : State) (k : Nat) (f : CellCtx → CellCtx) : (s.updCc k f).pwrMs = s.pwrMs := rfl
@[simp] theorem State.updCc_badReads (s : State) (k : Nat) (f : CellCtx → CellCtx) : (s.updCc k f).badReads = s.badReads := rfl
@[simp] theorem State.updCc_tlb (s : State) (k : Nat) (f : CellCtx → CellCtx) : (s.updCc k f).tlb = s.tlb := rfl
@[simp] theorem State.updCc_gangs (s : State) (k : Nat) (f : CellCtx → CellCtx) : (s.updCc k f).gangs = s.gangs := rfl
@[simp] theorem State.updCc_status (s : State) (k : Nat) (f : CellCtx → CellCtx) : (s.updCc k f).status = s.status := rfl
@[simp] theorem State.updCc_linkUp (s : State) (k : Nat) (f : CellCtx → CellCtx) : (s.updCc k f).linkUp = s.linkUp := rfl
@[simp] theorem State.updCc_windows (s : State) (k : Nat) (f : CellCtx → CellCtx) : (s.updCc k f).windows = s.windows := rfl
@[simp] theorem State.updCc_mail (s : State) (k : Nat) (f : CellCtx → CellCtx) : (s.updCc k f).mail = s.mail := rfl
@[simp] theorem State.setCc_pkg (s : State) (k : Nat) (x : CellCtx) : (s.setCc k x).pkg = s.pkg := rfl
@[simp] theorem State.updCc_pkg (s : State) (k : Nat) (f : CellCtx → CellCtx) : (s.updCc k f).pkg = s.pkg := rfl
@[simp] theorem State.setCc_dom (s : State) (k : Nat) (x : CellCtx) : (s.setCc k x).dom = s.dom := rfl
@[simp] theorem State.updCc_dom (s : State) (k : Nat) (f : CellCtx → CellCtx) : (s.updCc k f).dom = s.dom := rfl
@[simp] theorem State.setCc_boot (s : State) (k : Nat) (x : CellCtx) : (s.setCc k x).boot = s.boot := rfl
@[simp] theorem State.updCc_boot (s : State) (k : Nat) (f : CellCtx → CellCtx) : (s.updCc k f).boot = s.boot := rfl
@[simp] theorem State.setCc_config (s : State) (k : Nat) (x : CellCtx) : (s.setCc k x).config = s.config := rfl
@[simp] theorem State.updCc_config (s : State) (k : Nat) (f : CellCtx → CellCtx) : (s.updCc k f).config = s.config := rfl
@[simp] theorem State.setCc_mem (s : State) (k : Nat) (x : CellCtx) : (s.setCc k x).mem = s.mem := (rfl)
@[simp] theorem State.updCc_mem (s : State) (k : Nat) (f : CellCtx → CellCtx) : (s.updCc k f).mem = s.mem := (rfl)
@[simp] theorem State.setCc_tags (s : State) (k : Nat) (x : CellCtx) : (s.setCc k x).tags = s.tags := rfl
@[simp] theorem State.updCc_tags (s : State) (k : Nat) (f : CellCtx → CellCtx) : (s.updCc k f).tags = s.tags := rfl
@[simp] theorem State.setCc_reqs (s : State) (k : Nat) (x : CellCtx) : (s.setCc k x).reqs = s.reqs := rfl
@[simp] theorem State.updCc_reqs (s : State) (k : Nat) (f : CellCtx → CellCtx) : (s.updCc k f).reqs = s.reqs := rfl
@[simp] theorem State.setCc_released (s : State) (k : Nat) (x : CellCtx) : (s.setCc k x).released = s.released := rfl
@[simp] theorem State.updCc_released (s : State) (k : Nat) (f : CellCtx → CellCtx) : (s.updCc k f).released = s.released := rfl
@[simp] theorem State.setCc_saved (s : State) (k : Nat) (x : CellCtx) : (s.setCc k x).saved = s.saved := rfl
@[simp] theorem State.updCc_saved (s : State) (k : Nat) (f : CellCtx → CellCtx) : (s.updCc k f).saved = s.saved := rfl
@[simp] theorem State.setCc_towers (s : State) (k : Nat) (x : CellCtx) : (s.setCc k x).towers = s.towers := rfl
@[simp] theorem State.updCc_towers (s : State) (k : Nat) (f : CellCtx → CellCtx) : (s.updCc k f).towers = s.towers := rfl
@[simp] theorem State.setCc_layers (s : State) (k : Nat) (x : CellCtx) : (s.setCc k x).layers = s.layers := rfl
@[simp] theorem State.updCc_layers (s : State) (k : Nat) (f : CellCtx → CellCtx) : (s.updCc k f).layers = s.layers := rfl
@[simp] theorem State.setCc_ctxs (s : State) (k : Nat) (x : CellCtx) : (s.setCc k x).ctxs = s.ctxs := rfl
@[simp] theorem State.updCc_ctxs (s : State) (k : Nat) (f : CellCtx → CellCtx) : (s.updCc k f).ctxs = s.ctxs := rfl
@[simp] theorem State.setCc_cells (s : State) (k : Nat) (x : CellCtx) : (s.setCc k x).cells = s.cells := rfl
@[simp] theorem State.updCc_cells (s : State) (k : Nat) (f : CellCtx → CellCtx) : (s.updCc k f).cells = s.cells := rfl
@[simp] theorem State.setCc_tick (s : State) (k : Nat) (x : CellCtx) : (s.setCc k x).tick = s.tick := rfl
@[simp] theorem State.updCc_tick (s : State) (k : Nat) (f : CellCtx → CellCtx) : (s.updCc k f).tick = s.tick := rfl
@[simp] theorem State.setCc_nextId (s : State) (k : Nat) (x : CellCtx) : (s.setCc k x).nextId = s.nextId := rfl
@[simp] theorem State.updCc_nextId (s : State) (k : Nat) (f : CellCtx → CellCtx) : (s.updCc k f).nextId = s.nextId := rfl
@[simp] theorem State.setCc_choice (s : State) (k : Nat) (x : CellCtx) : (s.setCc k x).choice = s.choice := rfl
@[simp] theorem State.updCc_choice (s : State) (k : Nat) (f : CellCtx → CellCtx) : (s.updCc k f).choice = s.choice := rfl
@[simp] theorem State.setCc_lay (s : State) (k : Nat) (x : CellCtx) : (s.setCc k x).lay = s.lay := rfl
@[simp] theorem State.updCc_lay (s : State) (k : Nat) (f : CellCtx → CellCtx) : (s.updCc k f).lay = s.lay := rfl
@[simp] theorem State.setCc_ctx (s : State) (k : Nat) (x : CellCtx) : (s.setCc k x).ctx = s.ctx := rfl
@[simp] theorem State.updCc_ctx (s : State) (k : Nat) (f : CellCtx → CellCtx) : (s.updCc k f).ctx = s.ctx := rfl
@[simp] theorem State.setCc_cell (s : State) (k : Nat) (x : CellCtx) : (s.setCc k x).cell = s.cell := rfl
@[simp] theorem State.updCc_cell (s : State) (k : Nat) (f : CellCtx → CellCtx) : (s.updCc k f).cell = s.cell := rfl
@[simp] theorem State.setCc_latch (s : State) (k : Nat) (x : CellCtx) : (s.setCc k x).latch = s.latch := rfl
@[simp] theorem State.updCc_latch (s : State) (k : Nat) (f : CellCtx → CellCtx) : (s.updCc k f).latch = s.latch := rfl
@[simp] theorem State.setCc_phase (s : State) (k : Nat) (x : CellCtx) : (s.setCc k x).phase = s.phase := rfl
@[simp] theorem State.updCc_phase (s : State) (k : Nat) (f : CellCtx → CellCtx) : (s.updCc k f).phase = s.phase := rfl
@[simp] theorem State.setCc_agenda (s : State) (k : Nat) (x : CellCtx) : (s.setCc k x).agenda = s.agenda := rfl
@[simp] theorem State.updCc_agenda (s : State) (k : Nat) (f : CellCtx → CellCtx) : (s.updCc k f).agenda = s.agenda := rfl
@[simp] theorem State.updCc_towerAt (s : State) (k j : Nat) (f : CellCtx → CellCtx) : (s.updCc k f).towerAt j = s.towerAt j := rfl
@[simp] theorem State.updCc_layerAt (s : State) (k j : Nat) (f : CellCtx → CellCtx) : (s.updCc k f).layerAt j = s.layerAt j := rfl
@[simp] theorem State.updCc_ctxAt (s : State) (k j : Nat) (f : CellCtx → CellCtx) : (s.updCc k f).ctxAt j = s.ctxAt j := rfl
@[simp] theorem State.updCc_cellAt (s : State) (k j : Nat) (f : CellCtx → CellCtx) : (s.updCc k f).cellAt j = s.cellAt j := rfl
@[simp] theorem State.updCc_ccAt_same (s : State) (k : Nat) (f : CellCtx → CellCtx) : (s.updCc k f).ccAt k = f (s.ccAt k) := by
  simp [State.updCc, State.setCc, State.ccAt]
theorem State.updCc_ccAt_ne (s : State) (f : CellCtx → CellCtx) {k j : Nat} (h : k ≠ j) : (s.updCc k f).ccAt j = s.ccAt j := by
  simp [State.updCc, State.setCc, State.ccAt, mapGet_mapSet_ne _ _ _ h]

/-! ### The context in hand -/

@[simp] theorem State.updMe_rollback (s : State) (f : Ctx → Ctx) : (s.updMe f).rollback = s.rollback := rfl
@[simp] theorem State.updMe_revoke (s : State) (f : Ctx → Ctx) : (s.updMe f).revoke = s.revoke := rfl
@[simp] theorem State.updMe_firmware (s : State) (f : Ctx → Ctx) : (s.updMe f).firmware = s.firmware := rfl
@[simp] theorem State.updMe_configHash (s : State) (f : Ctx → Ctx) : (s.updMe f).configHash = s.configHash := rfl
@[simp] theorem State.updMe_keyIndex (s : State) (f : Ctx → Ctx) : (s.updMe f).keyIndex = s.keyIndex := rfl
@[simp] theorem State.updMe_keyHashes (s : State) (f : Ctx → Ctx) : (s.updMe f).keyHashes = s.keyHashes := rfl
@[simp] theorem State.updMe_flash (s : State) (f : Ctx → Ctx) : (s.updMe f).flash = s.flash := rfl
@[simp] theorem State.updMe_seed (s : State) (f : Ctx → Ctx) : (s.updMe f).seed = s.seed := rfl
@[simp] theorem State.updMe_count (s : State) (f : Ctx → Ctx) : (s.updMe f).count = s.count := rfl
@[simp] theorem State.updMe_kcap (s : State) (f : Ctx → Ctx) : (s.updMe f).kcap = s.kcap := rfl
@[simp] theorem State.updMe_otbase (s : State) (f : Ctx → Ctx) : (s.updMe f).otbase = s.otbase := rfl
@[simp] theorem State.updMe_tinvMode (s : State) (f : Ctx → Ctx) : (s.updMe f).tinvMode = s.tinvMode := rfl
@[simp] theorem State.updMe_tinvObj (s : State) (f : Ctx → Ctx) : (s.updMe f).tinvObj = s.tinvObj := rfl
@[simp] theorem State.updMe_tinvVpn (s : State) (f : Ctx → Ctx) : (s.updMe f).tinvVpn = s.tinvVpn := rfl
@[simp] theorem State.updMe_tinvBusy (s : State) (f : Ctx → Ctx) : (s.updMe f).tinvBusy = s.tinvBusy := rfl
@[simp] theorem State.updMe_tinvWait (s : State) (f : Ctx → Ctx) : (s.updMe f).tinvWait = s.tinvWait := rfl
@[simp] theorem State.updMe_hmask (s : State) (f : Ctx → Ctx) : (s.updMe f).hmask = s.hmask := rfl
@[simp] theorem State.updMe_hret (s : State) (f : Ctx → Ctx) : (s.updMe f).hret = s.hret := rfl
@[simp] theorem State.updMe_plNent (s : State) (f : Ctx → Ctx) : (s.updMe f).plNent = s.plNent := rfl
@[simp] theorem State.updMe_plNbase (s : State) (f : Ctx → Ctx) : (s.updMe f).plNbase = s.plNbase := rfl
@[simp] theorem State.updMe_plLogp (s : State) (f : Ctx → Ctx) : (s.updMe f).plLogp = s.plLogp := rfl
@[simp] theorem State.updMe_plCur (s : State) (f : Ctx → Ctx) : (s.updMe f).plCur = s.plCur := rfl
@[simp] theorem State.updMe_plArm (s : State) (f : Ctx → Ctx) : (s.updMe f).plArm = s.plArm := rfl
@[simp] theorem State.updMe_plTick (s : State) (f : Ctx → Ctx) : (s.updMe f).plTick = s.plTick := rfl
@[simp] theorem State.updMe_plan (s : State) (f : Ctx → Ctx) : (s.updMe f).plan = s.plan := rfl
@[simp] theorem State.updMe_planLogp (s : State) (f : Ctx → Ctx) : (s.updMe f).planLogp = s.planLogp := rfl
@[simp] theorem State.updMe_planNext (s : State) (f : Ctx → Ctx) : (s.updMe f).planNext = s.planNext := rfl
@[simp] theorem State.updMe_planRead (s : State) (f : Ctx → Ctx) : (s.updMe f).planRead = s.planRead := rfl
@[simp] theorem State.updMe_planSince (s : State) (f : Ctx → Ctx) : (s.updMe f).planSince = s.planSince := rfl
@[simp] theorem State.updMe_planPast (s : State) (f : Ctx → Ctx) : (s.updMe f).planPast = s.planPast := rfl
@[simp] theorem State.updMe_ftUpl (s : State) (f : Ctx → Ctx) : (s.updMe f).ftUpl = s.ftUpl := rfl
@[simp] theorem State.updMe_ftUpt (s : State) (f : Ctx → Ctx) : (s.updMe f).ftUpt = s.ftUpt := rfl
@[simp] theorem State.updMe_ftGm (s : State) (f : Ctx → Ctx) : (s.updMe f).ftGm = s.ftGm := rfl
@[simp] theorem State.updMe_ftLock (s : State) (f : Ctx → Ctx) : (s.updMe f).ftLock = s.ftLock := rfl
@[simp] theorem State.updMe_ftLoff (s : State) (f : Ctx → Ctx) : (s.updMe f).ftLoff = s.ftLoff := rfl
@[simp] theorem State.updMe_ftStepped (s : State) (f : Ctx → Ctx) : (s.updMe f).ftStepped = s.ftStepped := rfl
@[simp] theorem State.updMe_ftRate (s : State) (f : Ctx → Ctx) : (s.updMe f).ftRate = s.ftRate := rfl
@[simp] theorem State.updMe_ftEvery (s : State) (f : Ctx → Ctx) : (s.updMe f).ftEvery = s.ftEvery := rfl
@[simp] theorem State.updMe_ftCount (s : State) (f : Ctx → Ctx) : (s.updMe f).ftCount = s.ftCount := rfl
@[simp] theorem State.updMe_pwrLimit (s : State) (f : Ctx → Ctx) : (s.updMe f).pwrLimit = s.pwrLimit := rfl
@[simp] theorem State.updMe_pwr (s : State) (f : Ctx → Ctx) : (s.updMe f).pwr = s.pwr := rfl
@[simp] theorem State.updMe_pwrMs (s : State) (f : Ctx → Ctx) : (s.updMe f).pwrMs = s.pwrMs := rfl
@[simp] theorem State.updMe_badReads (s : State) (f : Ctx → Ctx) : (s.updMe f).badReads = s.badReads := rfl
@[simp] theorem State.updMe_tlb (s : State) (f : Ctx → Ctx) : (s.updMe f).tlb = s.tlb := rfl
@[simp] theorem State.updMe_gangs (s : State) (f : Ctx → Ctx) : (s.updMe f).gangs = s.gangs := rfl
@[simp] theorem State.updMe_status (s : State) (f : Ctx → Ctx) : (s.updMe f).status = s.status := rfl
@[simp] theorem State.updMe_linkUp (s : State) (f : Ctx → Ctx) : (s.updMe f).linkUp = s.linkUp := rfl
@[simp] theorem State.updMe_windows (s : State) (f : Ctx → Ctx) : (s.updMe f).windows = s.windows := rfl
@[simp] theorem State.updMe_mail (s : State) (f : Ctx → Ctx) : (s.updMe f).mail = s.mail := rfl
@[simp] theorem State.updMe_pkg (s : State) (f : Ctx → Ctx) : (s.updMe f).pkg = s.pkg := rfl
@[simp] theorem State.updMe_dom (s : State) (f : Ctx → Ctx) : (s.updMe f).dom = s.dom := rfl
@[simp] theorem State.updMe_boot (s : State) (f : Ctx → Ctx) : (s.updMe f).boot = s.boot := rfl
@[simp] theorem State.updMe_config (s : State) (f : Ctx → Ctx) : (s.updMe f).config = s.config := rfl
@[simp] theorem State.updMe_mem (s : State) (f : Ctx → Ctx) : (s.updMe f).mem = s.mem := (rfl)
@[simp] theorem State.updMe_tags (s : State) (f : Ctx → Ctx) : (s.updMe f).tags = s.tags := rfl
@[simp] theorem State.updMe_reqs (s : State) (f : Ctx → Ctx) : (s.updMe f).reqs = s.reqs := rfl
@[simp] theorem State.updMe_released (s : State) (f : Ctx → Ctx) : (s.updMe f).released = s.released := rfl
@[simp] theorem State.updMe_saved (s : State) (f : Ctx → Ctx) : (s.updMe f).saved = s.saved := rfl
@[simp] theorem State.updMe_towers (s : State) (f : Ctx → Ctx) : (s.updMe f).towers = s.towers := rfl
@[simp] theorem State.updMe_layers (s : State) (f : Ctx → Ctx) : (s.updMe f).layers = s.layers := rfl
@[simp] theorem State.updMe_cells (s : State) (f : Ctx → Ctx) : (s.updMe f).cells = s.cells := rfl
@[simp] theorem State.updMe_cellCtxs (s : State) (f : Ctx → Ctx) : (s.updMe f).cellCtxs = s.cellCtxs := rfl
@[simp] theorem State.updMe_tick (s : State) (f : Ctx → Ctx) : (s.updMe f).tick = s.tick := rfl
@[simp] theorem State.updMe_nextId (s : State) (f : Ctx → Ctx) : (s.updMe f).nextId = s.nextId := rfl
@[simp] theorem State.updMe_choice (s : State) (f : Ctx → Ctx) : (s.updMe f).choice = s.choice := rfl
@[simp] theorem State.updMe_lay (s : State) (f : Ctx → Ctx) : (s.updMe f).lay = s.lay := rfl
@[simp] theorem State.updMe_ctx (s : State) (f : Ctx → Ctx) : (s.updMe f).ctx = s.ctx := rfl
@[simp] theorem State.updMe_cell (s : State) (f : Ctx → Ctx) : (s.updMe f).cell = s.cell := rfl
@[simp] theorem State.updMe_latch (s : State) (f : Ctx → Ctx) : (s.updMe f).latch = s.latch := rfl
@[simp] theorem State.updMe_phase (s : State) (f : Ctx → Ctx) : (s.updMe f).phase = s.phase := rfl
@[simp] theorem State.updMe_agenda (s : State) (f : Ctx → Ctx) : (s.updMe f).agenda = s.agenda := rfl
@[simp] theorem State.updMe_me (s : State) (f : Ctx → Ctx) : (s.updMe f).me = f s.me := by
  simp [State.updMe, State.me]
@[simp] theorem State.updMe_layer (s : State) (f : Ctx → Ctx) : (s.updMe f).layer = s.layer := rfl
@[simp] theorem State.updMe_now (s : State) (f : Ctx → Ctx) : (s.updMe f).now = s.now := rfl
@[simp] theorem State.updMe_tower (s : State) (f : Ctx → Ctx) : (s.updMe f).tower = s.tower := rfl

/-! ### Memory -/

@[simp] theorem State.setMemByte_rollback (s : State) (a : Nat) (b : Byte) : (s.setMemByte a b).rollback = s.rollback := rfl
@[simp] theorem State.setMemByte_revoke (s : State) (a : Nat) (b : Byte) : (s.setMemByte a b).revoke = s.revoke := rfl
@[simp] theorem State.setMemByte_firmware (s : State) (a : Nat) (b : Byte) : (s.setMemByte a b).firmware = s.firmware := rfl
@[simp] theorem State.setMemByte_configHash (s : State) (a : Nat) (b : Byte) : (s.setMemByte a b).configHash = s.configHash := rfl
@[simp] theorem State.setMemByte_keyIndex (s : State) (a : Nat) (b : Byte) : (s.setMemByte a b).keyIndex = s.keyIndex := rfl
@[simp] theorem State.setMemByte_keyHashes (s : State) (a : Nat) (b : Byte) : (s.setMemByte a b).keyHashes = s.keyHashes := rfl
@[simp] theorem State.setMemByte_flash (s : State) (a : Nat) (b : Byte) : (s.setMemByte a b).flash = s.flash := rfl
@[simp] theorem State.setMemByte_seed (s : State) (a : Nat) (b : Byte) : (s.setMemByte a b).seed = s.seed := rfl
@[simp] theorem State.setMemByte_count (s : State) (a : Nat) (b : Byte) : (s.setMemByte a b).count = s.count := rfl
@[simp] theorem State.setMemByte_kcap (s : State) (a : Nat) (b : Byte) : (s.setMemByte a b).kcap = s.kcap := rfl
@[simp] theorem State.setMemByte_otbase (s : State) (a : Nat) (b : Byte) : (s.setMemByte a b).otbase = s.otbase := rfl
@[simp] theorem State.setMemByte_tinvMode (s : State) (a : Nat) (b : Byte) : (s.setMemByte a b).tinvMode = s.tinvMode := rfl
@[simp] theorem State.setMemByte_tinvObj (s : State) (a : Nat) (b : Byte) : (s.setMemByte a b).tinvObj = s.tinvObj := rfl
@[simp] theorem State.setMemByte_tinvVpn (s : State) (a : Nat) (b : Byte) : (s.setMemByte a b).tinvVpn = s.tinvVpn := rfl
@[simp] theorem State.setMemByte_tinvBusy (s : State) (a : Nat) (b : Byte) : (s.setMemByte a b).tinvBusy = s.tinvBusy := rfl
@[simp] theorem State.setMemByte_tinvWait (s : State) (a : Nat) (b : Byte) : (s.setMemByte a b).tinvWait = s.tinvWait := rfl
@[simp] theorem State.setMemByte_hmask (s : State) (a : Nat) (b : Byte) : (s.setMemByte a b).hmask = s.hmask := rfl
@[simp] theorem State.setMemByte_hret (s : State) (a : Nat) (b : Byte) : (s.setMemByte a b).hret = s.hret := rfl
@[simp] theorem State.setMemByte_plNent (s : State) (a : Nat) (b : Byte) : (s.setMemByte a b).plNent = s.plNent := rfl
@[simp] theorem State.setMemByte_plNbase (s : State) (a : Nat) (b : Byte) : (s.setMemByte a b).plNbase = s.plNbase := rfl
@[simp] theorem State.setMemByte_plLogp (s : State) (a : Nat) (b : Byte) : (s.setMemByte a b).plLogp = s.plLogp := rfl
@[simp] theorem State.setMemByte_plCur (s : State) (a : Nat) (b : Byte) : (s.setMemByte a b).plCur = s.plCur := rfl
@[simp] theorem State.setMemByte_plArm (s : State) (a : Nat) (b : Byte) : (s.setMemByte a b).plArm = s.plArm := rfl
@[simp] theorem State.setMemByte_plTick (s : State) (a : Nat) (b : Byte) : (s.setMemByte a b).plTick = s.plTick := rfl
@[simp] theorem State.setMemByte_plan (s : State) (a : Nat) (b : Byte) : (s.setMemByte a b).plan = s.plan := rfl
@[simp] theorem State.setMemByte_planLogp (s : State) (a : Nat) (b : Byte) : (s.setMemByte a b).planLogp = s.planLogp := rfl
@[simp] theorem State.setMemByte_planNext (s : State) (a : Nat) (b : Byte) : (s.setMemByte a b).planNext = s.planNext := rfl
@[simp] theorem State.setMemByte_planRead (s : State) (a : Nat) (b : Byte) : (s.setMemByte a b).planRead = s.planRead := rfl
@[simp] theorem State.setMemByte_planSince (s : State) (a : Nat) (b : Byte) : (s.setMemByte a b).planSince = s.planSince := rfl
@[simp] theorem State.setMemByte_planPast (s : State) (a : Nat) (b : Byte) : (s.setMemByte a b).planPast = s.planPast := rfl
@[simp] theorem State.setMemByte_ftUpl (s : State) (a : Nat) (b : Byte) : (s.setMemByte a b).ftUpl = s.ftUpl := rfl
@[simp] theorem State.setMemByte_ftUpt (s : State) (a : Nat) (b : Byte) : (s.setMemByte a b).ftUpt = s.ftUpt := rfl
@[simp] theorem State.setMemByte_ftGm (s : State) (a : Nat) (b : Byte) : (s.setMemByte a b).ftGm = s.ftGm := rfl
@[simp] theorem State.setMemByte_ftLock (s : State) (a : Nat) (b : Byte) : (s.setMemByte a b).ftLock = s.ftLock := rfl
@[simp] theorem State.setMemByte_ftLoff (s : State) (a : Nat) (b : Byte) : (s.setMemByte a b).ftLoff = s.ftLoff := rfl
@[simp] theorem State.setMemByte_ftStepped (s : State) (a : Nat) (b : Byte) : (s.setMemByte a b).ftStepped = s.ftStepped := rfl
@[simp] theorem State.setMemByte_ftRate (s : State) (a : Nat) (b : Byte) : (s.setMemByte a b).ftRate = s.ftRate := rfl
@[simp] theorem State.setMemByte_ftEvery (s : State) (a : Nat) (b : Byte) : (s.setMemByte a b).ftEvery = s.ftEvery := rfl
@[simp] theorem State.setMemByte_ftCount (s : State) (a : Nat) (b : Byte) : (s.setMemByte a b).ftCount = s.ftCount := rfl
@[simp] theorem State.setMemByte_pwrLimit (s : State) (a : Nat) (b : Byte) : (s.setMemByte a b).pwrLimit = s.pwrLimit := rfl
@[simp] theorem State.setMemByte_pwr (s : State) (a : Nat) (b : Byte) : (s.setMemByte a b).pwr = s.pwr := rfl
@[simp] theorem State.setMemByte_pwrMs (s : State) (a : Nat) (b : Byte) : (s.setMemByte a b).pwrMs = s.pwrMs := rfl
@[simp] theorem State.setMemByte_badReads (s : State) (a : Nat) (b : Byte) : (s.setMemByte a b).badReads = s.badReads := rfl
@[simp] theorem State.setMemByte_tlb (s : State) (a : Nat) (b : Byte) : (s.setMemByte a b).tlb = s.tlb := rfl
@[simp] theorem State.setMemByte_gangs (s : State) (a : Nat) (b : Byte) : (s.setMemByte a b).gangs = s.gangs := rfl
@[simp] theorem State.setMemByte_status (s : State) (a : Nat) (b : Byte) : (s.setMemByte a b).status = s.status := rfl
@[simp] theorem State.setMemByte_linkUp (s : State) (a : Nat) (b : Byte) : (s.setMemByte a b).linkUp = s.linkUp := rfl
@[simp] theorem State.setMemByte_windows (s : State) (a : Nat) (b : Byte) : (s.setMemByte a b).windows = s.windows := rfl
@[simp] theorem State.setMemByte_mail (s : State) (a : Nat) (b : Byte) : (s.setMemByte a b).mail = s.mail := rfl
@[simp] theorem State.setMemByte_pkg (s : State) (a : Nat) (b : Byte) : (s.setMemByte a b).pkg = s.pkg := rfl
@[simp] theorem State.setMemByte_dom (s : State) (a : Nat) (b : Byte) : (s.setMemByte a b).dom = s.dom := rfl
@[simp] theorem State.setMemByte_boot (s : State) (a : Nat) (b : Byte) : (s.setMemByte a b).boot = s.boot := rfl
@[simp] theorem State.setMemByte_config (s : State) (a : Nat) (b : Byte) : (s.setMemByte a b).config = s.config := rfl
@[simp] theorem State.setMemByte_tags (s : State) (a : Nat) (b : Byte) : (s.setMemByte a b).tags = s.tags := rfl
@[simp] theorem State.setMemByte_reqs (s : State) (a : Nat) (b : Byte) : (s.setMemByte a b).reqs = s.reqs := rfl
@[simp] theorem State.setMemByte_released (s : State) (a : Nat) (b : Byte) : (s.setMemByte a b).released = s.released := rfl
@[simp] theorem State.setMemByte_saved (s : State) (a : Nat) (b : Byte) : (s.setMemByte a b).saved = s.saved := rfl
@[simp] theorem State.setMemByte_towers (s : State) (a : Nat) (b : Byte) : (s.setMemByte a b).towers = s.towers := rfl
@[simp] theorem State.setMemByte_layers (s : State) (a : Nat) (b : Byte) : (s.setMemByte a b).layers = s.layers := rfl
@[simp] theorem State.setMemByte_ctxs (s : State) (a : Nat) (b : Byte) : (s.setMemByte a b).ctxs = s.ctxs := rfl
@[simp] theorem State.setMemByte_cells (s : State) (a : Nat) (b : Byte) : (s.setMemByte a b).cells = s.cells := rfl
@[simp] theorem State.setMemByte_cellCtxs (s : State) (a : Nat) (b : Byte) : (s.setMemByte a b).cellCtxs = s.cellCtxs := rfl
@[simp] theorem State.setMemByte_tick (s : State) (a : Nat) (b : Byte) : (s.setMemByte a b).tick = s.tick := rfl
@[simp] theorem State.setMemByte_nextId (s : State) (a : Nat) (b : Byte) : (s.setMemByte a b).nextId = s.nextId := rfl
@[simp] theorem State.setMemByte_choice (s : State) (a : Nat) (b : Byte) : (s.setMemByte a b).choice = s.choice := rfl
@[simp] theorem State.setMemByte_lay (s : State) (a : Nat) (b : Byte) : (s.setMemByte a b).lay = s.lay := rfl
@[simp] theorem State.setMemByte_ctx (s : State) (a : Nat) (b : Byte) : (s.setMemByte a b).ctx = s.ctx := rfl
@[simp] theorem State.setMemByte_cell (s : State) (a : Nat) (b : Byte) : (s.setMemByte a b).cell = s.cell := rfl
@[simp] theorem State.setMemByte_latch (s : State) (a : Nat) (b : Byte) : (s.setMemByte a b).latch = s.latch := rfl
@[simp] theorem State.setMemByte_phase (s : State) (a : Nat) (b : Byte) : (s.setMemByte a b).phase = s.phase := rfl
@[simp] theorem State.setMemByte_agenda (s : State) (a : Nat) (b : Byte) : (s.setMemByte a b).agenda = s.agenda := rfl

/-- A byte reads as written, and every other byte as before. -/
theorem State.memByte_setMemByte (s : State) (a c : Nat) (b : Byte) :
    (s.setMemByte a b).memByte c = if a = c then b else s.memByte c := by
  simp [State.memByte, State.setMemByte, mapGet_mapSet]

@[simp] theorem State.setMemByte_wf (s : State) (a : Nat) (b : Byte) (h : Memory.wf s.mem = true) :
    Memory.wf (s.setMemByte a b).mem = true := mapWf_mapSet _ _ _ _ h

/-- Writing bytes keeps memory canonical. -/
@[simp] theorem writeMem_wf (bs : List Byte) : ∀ (pa : Nat) (s : State), Memory.wf s.mem = true →
    Memory.wf (writeMem pa bs s).mem = true := by
  induction bs with
  | nil => intro pa s h; exact h
  | cons b r ih => intro pa s h; exact ih _ _ (State.setMemByte_wf s pa b h)

/-- What memory reads as after a write: byte i of the data at pa + i, every other byte as before. -/
theorem memByte_writeMem (bs : List Byte) : ∀ (pa a : Nat) (s : State),
    (writeMem pa bs s).memByte a = if pa ≤ a ∧ a < pa + bs.length then bs.getD (a - pa) 0 else s.memByte a := by
  induction bs with
  | nil => intro pa a s; simp [writeMem]
  | cons b r ih =>
    intro pa a s
    have hb : ∀ (t : State) (g : List Nat), State.memByte { t with tags := g } a = t.memByte a := fun _ _ => rfl
    simp only [writeMem, ih, hb, State.memByte_setMemByte, List.length_cons]
    by_cases h1 : pa + 1 ≤ a ∧ a < pa + 1 + r.length
    · have h2 : pa ≤ a ∧ a < pa + (r.length + 1) := by omega
      have h3 : a - pa = (a - (pa + 1)) + 1 := by omega
      simp only [h1, h2, if_true, and_self, h3, List.getD_cons_succ]
    · by_cases h4 : pa = a
      · subst h4; simp
      · have h2 : ¬ (pa ≤ a ∧ a < pa + (r.length + 1)) := by omega
        simp only [h1, h2, h4, if_false]

end Sys2Proof.Machine
end

