-- ==== Sys2Proof/Laws/Mem.lean ====
section
/-!
SUPPORT. HBM frames: what leaves every byte of memory as it was. Each meaning and each operation that stores nothing has
one lemma, named after it with _mem.
-/

namespace Sys2Proof.Machine

/-- A meaning's answer, if it is a next state, has memory `m`. -/
def MemIs (m : List Host.Cell) (r : Res) : Prop :=
  match r with
  | .next t => t.mem = m
  | .fault _ => True
  | .refused _ => True

@[simp] theorem MemIs_next (m : List Host.Cell) (t : State) : MemIs m (.next t) ↔ t.mem = m := Iff.rfl
@[simp] theorem MemIs_fault (m : List Host.Cell) (e : Fault) : MemIs m (.fault e) ↔ True := Iff.rfl
@[simp] theorem MemIs_refused (m : List Host.Cell) (e : Refusal) : MemIs m (.refused e) ↔ True := Iff.rfl

@[simp] theorem ite_mem (c : Prop) [Decidable c] (a b : State) : (if c then a else b).mem = if c then a.mem else b.mem := by
  split <;> rfl

theorem foldl_mem {β : Type} (f : State → β → State) (h : ∀ s x, (f s x).mem = s.mem) (l : List β) :
    ∀ s, (l.foldl f s).mem = s.mem := by
  induction l with
  | nil => intro s; rfl
  | cons a r ih => intro s; rw [List.foldl_cons, ih, h]

theorem andThen_mem (m : List Host.Cell) (r : Res) (f : State → Res) (hr : MemIs m r)
    (hf : ∀ t, t.mem = m → MemIs m (f t)) : MemIs m (andThen r f) := by
  cases r <;> simp_all [andThen]

theorem forAll_mem {β : Type} (f : β → State → Res) (h : ∀ x s, MemIs s.mem (f x s)) (l : List β) (s : State)
    {w0 : List Host.Cell} (hm : s.mem = w0) : MemIs w0 (forAll l f s) := by
  subst hm
  have : ∀ (l : List β) (r : Res), MemIs s.mem r → MemIs s.mem (l.foldl (fun r x => andThen r (f x)) r) := by
    intro l
    induction l with
    | nil => intro r hr; exact hr
    | cons a q ih => intro r hr; exact ih _ (andThen_mem _ _ _ hr (fun t ht => ht ▸ h a t))
  exact this l (.next s) rfl

@[simp] theorem inTurn_nil (s : State) : inTurn [] s = .next s := rfl

theorem inTurn_cons (f : State → Res) (fs : List (State → Res)) (s : State) :
    inTurn (f :: fs) s = andThen (f s) (inTurn fs) := by
  have stuck : ∀ (fs : List (State → Res)) (r : Res), (∀ t, r ≠ .next t) → fs.foldl andThen r = r := by
    intro fs
    induction fs with
    | nil => intro r _; rfl
    | cons g gs ih => intro r hr; cases r <;> first | exact absurd rfl (hr _) | exact ih _ hr
  show fs.foldl andThen (f s) = _
  cases h : f s with
  | next t => rfl
  | fault e => exact stuck fs _ (by simp)
  | refused e => exact stuck fs _ (by simp)

theorem inTurn_cons_mem {w0 : List Host.Cell} {f : State → Res} {fs : List (State → Res)}
    (hf : ∀ t : State, t.mem = w0 → MemIs w0 (f t)) (hfs : ∀ t : State, t.mem = w0 → MemIs w0 (inTurn fs t)) (s : State)
    (hs : s.mem = w0) : MemIs w0 (inTurn (f :: fs) s) := by
  rw [inTurn_cons]
  exact andThen_mem _ _ _ (hf s hs) hfs

@[simp] theorem choose_mem (s : State) : s.choose.2.mem = s.mem := rfl
@[simp] theorem fresh_mem (s : State) : s.fresh.2.mem = s.mem := rfl
@[simp] theorem nextSeq_mem (s : State) : (nextSeq s).2.mem = s.mem := rfl

/-! ### Ops -/

@[simp] theorem weltAt_mem (id : Nat) (e : Effect) (s : State) :
    (weltAt id e s).mem = s.mem := (rfl)

@[simp] theorem welt_mem (e : Effect) (s : State) :
    (welt e s).mem = s.mem := (rfl)

@[simp] theorem State.pushPend_mem (s : State) (lay : Nat) (p : Pend) :
    (State.pushPend s lay p).mem = s.mem := (rfl)

@[simp] theorem land_mem (loc : Loc) (n : Nat) (mask : Lanes) (val : Lanes) (s : State) :
    (land loc n mask val s).mem = s.mem := (rfl)

@[simp] theorem landS_mem (d : BitVec 7) (n : Nat) (v : DWord) (s : State) :
    (landS d n v s).mem = s.mem := (rfl)

@[simp] theorem landK_mem (k : Nat) (n : Nat) (b : Bool) (s : State) :
    (landK k n b s).mem = s.mem := (rfl)

@[simp] theorem landG_mem (g : Nat) (n : Nat) (v : Cap) (s : State) :
    (landG g n v s).mem = s.mem := (rfl)

@[simp] theorem Run.landLag_mem (r : Run) (lag : Nat) (loc : Loc) (n : Nat) (mask : Lanes) (val : Lanes) (s : State) :
    (Run.landLag r lag loc n mask val s).mem = s.mem := (rfl)

@[simp] theorem Run.land_mem (r : Run) (loc : Loc) (n : Nat) (mask : Lanes) (val : Lanes) (s : State) :
    (Run.land r loc n mask val s).mem = s.mem := (rfl)

@[simp] theorem ctrAdd_mem (n : Nat) (s : State) :
    (ctrAdd n s).mem = s.mem := (rfl)

@[simp] theorem ctrDec_mem (key : Nat) (n : Nat) (s : State) :
    (ctrDec key n s).mem = s.mem := (rfl)

@[simp] theorem ctrDone_mem (key n region : Nat) (s : State) : (ctrDone key n region s).mem = s.mem := (rfl)

@[simp] theorem takeTrap_mem (lay : Nat) (c : Nat) (tr : TrapInfo) (s : State) :
    (takeTrap lay c tr s).mem = s.mem := by
  unfold takeTrap; (try dsimp only); repeat' (first | with_reducible rfl | assumption | (simp; done) | (simp [*]; done) | (intro _) | rw [foldl_mem] | (apply issue_mem) | (apply issueBoth_mem) | (apply issueCell_mem) | split | simp)

@[simp] theorem trapHere_mem (tr : TrapInfo) (s : State) :
    (trapHere tr s).mem = s.mem := by simp [trapHere]

@[simp] theorem Run.raise_mem (r : Run) (cause : Cause) (sub : Nat) (s : State) (aux0 : Nat) (aux1 : Nat) :
    (Run.raise r cause sub s aux0 aux1).mem = s.mem := by simp [Run.raise]

@[simp] theorem restoreSpecial_mem (lay : Nat) (c : Nat) (s : State) (e : Nat × DWord) :
    (restoreSpecial lay c s e).mem = s.mem := by simp [restoreSpecial]

@[simp] theorem discard_mem (lay : Nat) (c : Nat) (s : State) :
    (discard lay c s).mem = s.mem := by
  unfold discard; (try dsimp only); repeat' (first | with_reducible rfl | assumption | (simp; done) | (simp [*]; done) | (intro _) | rw [foldl_mem] | (apply issue_mem) | (apply issueBoth_mem) | (apply issueCell_mem) | split | simp)

theorem issueWith_mem (fault : Option TrapInfo) (hold : Bool) (s : State) (k : State → State)
    (h : (k s).mem = s.mem) : MemIs s.mem (issueWith fault hold s k) := by
  unfold issueWith; split
  · simp
  · split <;> simp [h]

@[simp] theorem setPois_mem (lay : Nat) (k : Nat) (c : Nat) (s : State) :
    (setPois lay k c s).mem = s.mem := (rfl)

/-! ### Operands -/

@[simp] theorem Run.landV_mem (r : Run) (n : Nat) (lat : Nat) (act : Row) (v : Lanes) (s : State) :
    (Run.landV r n lat act v s).mem = s.mem := (rfl)

@[simp] theorem Run.landP_mem (r : Run) (n : Nat) (lat : Nat) (act : Row) (v : Row) (s : State) :
    (Run.landP r n lat act v s).mem = s.mem := (rfl)

@[simp] theorem Run.landX_mem (r : Run) (n : Nat) (lat : Nat) (v : Word) (s : State) :
    (Run.landX r n lat v s).mem = s.mem := (rfl)

/-! ### Special -/

@[simp] theorem landSpecial_mem (lay : Nat) (sel : Nat) (n : Nat) (m : Lanes) (v : Lanes) (s : State) :
    (landSpecial lay sel n m v s).mem = s.mem := by simp [landSpecial]

/-! ### Checks -/

@[simp] theorem pushReq_mem (q : Req) (s : State) :
    (pushReq q s).mem = s.mem := (rfl)

theorem issue_mem (i : Instr) (s : State) (k : State → State)
    (h : ∀ t, (k t).mem = t.mem) : MemIs s.mem (issue i s k) := issueWith_mem _ _ _ _ (h s)

@[simp] theorem joinBundle_mem (i : Instr) (s : State) :
    (joinBundle i s).mem = s.mem := (rfl)

theorem issueBoth_mem (i : Instr) (pre : Nat → State → State) (f : Run → State → State) (s : State)
    (hp : ∀ n t, (pre n t).mem = t.mem) (hf : ∀ r t, (f r t).mem = t.mem) : MemIs s.mem (issueBoth i pre f s) := by
  refine issue_mem _ _ _ (fun t => ?_)
  dsimp only
  split <;> simp [hp, hf]

theorem issueCell_mem (i : Instr) (f : Run → State → State) (s : State)
    (hf : ∀ r t, (f r t).mem = t.mem) : MemIs s.mem (issueCell i f s) := issueBoth_mem _ _ _ _ (fun _ _ => rfl) hf

/-! ### Translate -/

@[simp] theorem victim_mem {α : Type} (xs : List α) (s : State) : (victim xs s).2.mem = s.mem := by
  induction xs generalizing s with
  | nil => rfl
  | cons x r ih =>
    cases r with
    | nil => rfl
    | cons y r =>
      show (if (s.choose).1 then ((some x, s.choose.2) : Option α × State) else victim (y :: r) s.choose.2).2.mem = s.mem
      split
      · rfl
      · exact ih s.choose.2

@[simp] theorem tlbFill_mem (home : Nat) (cap : Nat) (o : BitVec 24) (off : Nat) (l : Leaf) (s : State) :
    (tlbFill home cap o off l s).mem = s.mem := by unfold tlbFill; repeat' (first | (simp; done) | split)

/-! ### Lines -/

@[simp] theorem Run.landRow_mem (r : Run) (lat : Nat) (k : Nat) (row : Nat) (en : Word) (w : Row) (s : State) :
    (Run.landRow r lat k row en w s).mem = s.mem := by unfold Run.landRow; repeat' (first | (simp; done) | split)

@[simp] theorem Run.landBytes_mem (r : Run) (lat : Nat) (k : Nat) (row : Nat) (be : Nat → Bool) (w : Row) (s : State) :
    (Run.landBytes r lat k row be w s).mem = s.mem := by unfold Run.landBytes; repeat' (first | (simp; done) | split)

@[simp] theorem Run.sendWords_mem (r : Run) (d : Nat) (en : Word) (w : Row) (s : State) :
    (Run.sendWords r d en w s).mem = s.mem := by unfold Run.sendWords; repeat' (first | (simp; done) | split)

@[simp] theorem Run.storeLine_mem (r : Run) (lat : Nat) (a : NetAddr) (em : BitVec 4) (w : Lanes) (wen : Row) (s : State) :
    (Run.storeLine r lat a em w wen s).mem = s.mem := by
  unfold Run.storeLine; (try dsimp only); repeat' (first | with_reducible rfl | assumption | (simp; done) | (simp [*]; done) | (intro _) | rw [foldl_mem] | (apply issue_mem) | (apply issueBoth_mem) | (apply issueCell_mem) | split | simp)

@[simp] theorem Run.landScale_mem (r : Run) (lat : Nat) (k : Nat) (row : Nat) (j : Nat) (e : Nat) (s : State) :
    (Run.landScale r lat k row j e s).mem = s.mem := by simp [Run.landScale]

/-! ### Scalar -/

@[simp] theorem scalar2_mem (d : BitVec 7) (a : BitVec 7) (b : BitVec 7) (f : DWord → DWord → DWord) (s : State) :
    (scalar2 d a b f s).mem = s.mem := (rfl)

@[simp] theorem scalarImm_mem (sgn : Bool) (d : BitVec 7) (i : BitVec 14) (f : DWord → DWord → DWord) (s : State) :
    (scalarImm sgn d i f s).mem = s.mem := (rfl)

@[simp] theorem execAdd_mem (d : BitVec 7) (a : BitVec 7) (b : BitVec 7) (s : State) {m : List Host.Cell} (hm : s.mem = m) :
    MemIs m (execAdd d a b s) := hm ▸ issue_mem _ _ _ (fun _ => by simp)

@[simp] theorem execSub_mem (d : BitVec 7) (a : BitVec 7) (b : BitVec 7) (s : State) {m : List Host.Cell} (hm : s.mem = m) :
    MemIs m (execSub d a b s) := hm ▸ issue_mem _ _ _ (fun _ => by simp)

@[simp] theorem execAnd_mem (d : BitVec 7) (a : BitVec 7) (b : BitVec 7) (s : State) {m : List Host.Cell} (hm : s.mem = m) :
    MemIs m (execAnd d a b s) := hm ▸ issue_mem _ _ _ (fun _ => by simp)

@[simp] theorem execOr_mem (d : BitVec 7) (a : BitVec 7) (b : BitVec 7) (s : State) {m : List Host.Cell} (hm : s.mem = m) :
    MemIs m (execOr d a b s) := hm ▸ issue_mem _ _ _ (fun _ => by simp)

@[simp] theorem execXor_mem (d : BitVec 7) (a : BitVec 7) (b : BitVec 7) (s : State) {m : List Host.Cell} (hm : s.mem = m) :
    MemIs m (execXor d a b s) := hm ▸ issue_mem _ _ _ (fun _ => by simp)

@[simp] theorem execAndn_mem (d : BitVec 7) (a : BitVec 7) (b : BitVec 7) (s : State) {m : List Host.Cell} (hm : s.mem = m) :
    MemIs m (execAndn d a b s) := hm ▸ issue_mem _ _ _ (fun _ => by simp)

@[simp] theorem execShl_mem (d : BitVec 7) (a : BitVec 7) (b : BitVec 7) (s : State) {m : List Host.Cell} (hm : s.mem = m) :
    MemIs m (execShl d a b s) := hm ▸ issue_mem _ _ _ (fun _ => by simp)

@[simp] theorem execShr_mem (d : BitVec 7) (a : BitVec 7) (b : BitVec 7) (s : State) {m : List Host.Cell} (hm : s.mem = m) :
    MemIs m (execShr d a b s) := hm ▸ issue_mem _ _ _ (fun _ => by simp)

@[simp] theorem execSar_mem (d : BitVec 7) (a : BitVec 7) (b : BitVec 7) (s : State) {m : List Host.Cell} (hm : s.mem = m) :
    MemIs m (execSar d a b s) := hm ▸ issue_mem _ _ _ (fun _ => by simp)

@[simp] theorem execMul_mem (d : BitVec 7) (a : BitVec 7) (b : BitVec 7) (s : State) {m : List Host.Cell} (hm : s.mem = m) :
    MemIs m (execMul d a b s) := hm ▸ issue_mem _ _ _ (fun _ => by simp)

@[simp] theorem execMulh_mem (d : BitVec 7) (a : BitVec 7) (b : BitVec 7) (s : State) {m : List Host.Cell} (hm : s.mem = m) :
    MemIs m (execMulh d a b s) := hm ▸ issue_mem _ _ _ (fun _ => by simp)

@[simp] theorem execMulhu_mem (d : BitVec 7) (a : BitVec 7) (b : BitVec 7) (s : State) {m : List Host.Cell} (hm : s.mem = m) :
    MemIs m (execMulhu d a b s) := hm ▸ issue_mem _ _ _ (fun _ => by simp)

@[simp] theorem execMin_mem (d : BitVec 7) (a : BitVec 7) (b : BitVec 7) (s : State) {m : List Host.Cell} (hm : s.mem = m) :
    MemIs m (execMin d a b s) := hm ▸ issue_mem _ _ _ (fun _ => by simp)

@[simp] theorem execMax_mem (d : BitVec 7) (a : BitVec 7) (b : BitVec 7) (s : State) {m : List Host.Cell} (hm : s.mem = m) :
    MemIs m (execMax d a b s) := hm ▸ issue_mem _ _ _ (fun _ => by simp)

@[simp] theorem execMinu_mem (d : BitVec 7) (a : BitVec 7) (b : BitVec 7) (s : State) {m : List Host.Cell} (hm : s.mem = m) :
    MemIs m (execMinu d a b s) := hm ▸ issue_mem _ _ _ (fun _ => by simp)

@[simp] theorem execMaxu_mem (d : BitVec 7) (a : BitVec 7) (b : BitVec 7) (s : State) {m : List Host.Cell} (hm : s.mem = m) :
    MemIs m (execMaxu d a b s) := hm ▸ issue_mem _ _ _ (fun _ => by simp)

@[simp] theorem execSeq_mem (d : BitVec 7) (a : BitVec 7) (b : BitVec 7) (s : State) {m : List Host.Cell} (hm : s.mem = m) :
    MemIs m (execSeq d a b s) := hm ▸ issue_mem _ _ _ (fun _ => by simp)

@[simp] theorem execSne_mem (d : BitVec 7) (a : BitVec 7) (b : BitVec 7) (s : State) {m : List Host.Cell} (hm : s.mem = m) :
    MemIs m (execSne d a b s) := hm ▸ issue_mem _ _ _ (fun _ => by simp)

@[simp] theorem execSlt_mem (d : BitVec 7) (a : BitVec 7) (b : BitVec 7) (s : State) {m : List Host.Cell} (hm : s.mem = m) :
    MemIs m (execSlt d a b s) := hm ▸ issue_mem _ _ _ (fun _ => by simp)

@[simp] theorem execSltu_mem (d : BitVec 7) (a : BitVec 7) (b : BitVec 7) (s : State) {m : List Host.Cell} (hm : s.mem = m) :
    MemIs m (execSltu d a b s) := hm ▸ issue_mem _ _ _ (fun _ => by simp)

@[simp] theorem execDiv_mem (d : BitVec 7) (a : BitVec 7) (b : BitVec 7) (s : State) {m : List Host.Cell} (hm : s.mem = m) :
    MemIs m (execDiv d a b s) := hm ▸ issue_mem _ _ _ (fun _ => by simp)

@[simp] theorem execDivu_mem (d : BitVec 7) (a : BitVec 7) (b : BitVec 7) (s : State) {m : List Host.Cell} (hm : s.mem = m) :
    MemIs m (execDivu d a b s) := hm ▸ issue_mem _ _ _ (fun _ => by simp)

@[simp] theorem execRem_mem (d : BitVec 7) (a : BitVec 7) (b : BitVec 7) (s : State) {m : List Host.Cell} (hm : s.mem = m) :
    MemIs m (execRem d a b s) := hm ▸ issue_mem _ _ _ (fun _ => by simp)

@[simp] theorem execRemu_mem (d : BitVec 7) (a : BitVec 7) (b : BitVec 7) (s : State) {m : List Host.Cell} (hm : s.mem = m) :
    MemIs m (execRemu d a b s) := hm ▸ issue_mem _ _ _ (fun _ => by simp)

@[simp] theorem execAddi_mem (d : BitVec 7) (i : BitVec 14) (s : State) {m : List Host.Cell} (hm : s.mem = m) :
    MemIs m (execAddi d i s) := hm ▸ issue_mem _ _ _ (fun _ => by simp)

@[simp] theorem execAndi_mem (d : BitVec 7) (i : BitVec 14) (s : State) {m : List Host.Cell} (hm : s.mem = m) :
    MemIs m (execAndi d i s) := hm ▸ issue_mem _ _ _ (fun _ => by simp)

@[simp] theorem execOri_mem (d : BitVec 7) (i : BitVec 14) (s : State) {m : List Host.Cell} (hm : s.mem = m) :
    MemIs m (execOri d i s) := hm ▸ issue_mem _ _ _ (fun _ => by simp)

@[simp] theorem execXori_mem (d : BitVec 7) (i : BitVec 14) (s : State) {m : List Host.Cell} (hm : s.mem = m) :
    MemIs m (execXori d i s) := hm ▸ issue_mem _ _ _ (fun _ => by simp)

@[simp] theorem execShli_mem (d : BitVec 7) (i : BitVec 14) (s : State) {m : List Host.Cell} (hm : s.mem = m) :
    MemIs m (execShli d i s) := hm ▸ issue_mem _ _ _ (fun _ => by simp)

@[simp] theorem execShri_mem (d : BitVec 7) (i : BitVec 14) (s : State) {m : List Host.Cell} (hm : s.mem = m) :
    MemIs m (execShri d i s) := hm ▸ issue_mem _ _ _ (fun _ => by simp)

@[simp] theorem execSari_mem (d : BitVec 7) (i : BitVec 14) (s : State) {m : List Host.Cell} (hm : s.mem = m) :
    MemIs m (execSari d i s) := hm ▸ issue_mem _ _ _ (fun _ => by simp)

@[simp] theorem execMuli_mem (d : BitVec 7) (i : BitVec 14) (s : State) {m : List Host.Cell} (hm : s.mem = m) :
    MemIs m (execMuli d i s) := hm ▸ issue_mem _ _ _ (fun _ => by simp)

@[simp] theorem execMini_mem (d : BitVec 7) (i : BitVec 14) (s : State) {m : List Host.Cell} (hm : s.mem = m) :
    MemIs m (execMini d i s) := hm ▸ issue_mem _ _ _ (fun _ => by simp)

@[simp] theorem execMaxi_mem (d : BitVec 7) (i : BitVec 14) (s : State) {m : List Host.Cell} (hm : s.mem = m) :
    MemIs m (execMaxi d i s) := hm ▸ issue_mem _ _ _ (fun _ => by simp)

@[simp] theorem execSlti_mem (d : BitVec 7) (i : BitVec 14) (s : State) {m : List Host.Cell} (hm : s.mem = m) :
    MemIs m (execSlti d i s) := hm ▸ issue_mem _ _ _ (fun _ => by simp)

@[simp] theorem execSeqi_mem (d : BitVec 7) (i : BitVec 14) (s : State) {m : List Host.Cell} (hm : s.mem = m) :
    MemIs m (execSeqi d i s) := hm ▸ issue_mem _ _ _ (fun _ => by simp)

@[simp] theorem execLi_mem (d : BitVec 7) (i : BitVec 14) (s : State) {m : List Host.Cell} (hm : s.mem = m) :
    MemIs m (execLi d i s) := hm ▸ issue_mem _ _ _ (fun _ => by simp)

/-! ### SeqMem -/

@[simp] theorem smemStore_mem (x : BitVec 7) (a : BitVec 7) (b : BitVec 7) (size : Nat) (s : State) :
    (smemStore x a b size s).mem = s.mem := (rfl)

@[simp] theorem execLdd_mem (d : BitVec 7) (a : BitVec 7) (b : BitVec 7) (s : State) {m : List Host.Cell} (hm : s.mem = m) :
    MemIs m (execLdd d a b s) := hm ▸ issue_mem _ _ _ (fun _ => by simp)

@[simp] theorem execLdw_mem (d : BitVec 7) (a : BitVec 7) (b : BitVec 7) (s : State) {m : List Host.Cell} (hm : s.mem = m) :
    MemIs m (execLdw d a b s) := hm ▸ issue_mem _ _ _ (fun _ => by simp)

@[simp] theorem execLdwu_mem (d : BitVec 7) (a : BitVec 7) (b : BitVec 7) (s : State) {m : List Host.Cell} (hm : s.mem = m) :
    MemIs m (execLdwu d a b s) := hm ▸ issue_mem _ _ _ (fun _ => by simp)

@[simp] theorem execStd_mem (d : BitVec 7) (a : BitVec 7) (b : BitVec 7) (s : State) {m : List Host.Cell} (hm : s.mem = m) :
    MemIs m (execStd d a b s) := hm ▸ issue_mem _ _ _ (fun _ => by simp)

@[simp] theorem execStw_mem (d : BitVec 7) (a : BitVec 7) (b : BitVec 7) (s : State) {m : List Host.Cell} (hm : s.mem = m) :
    MemIs m (execStw d a b s) := hm ▸ issue_mem _ _ _ (fun _ => by simp)

/-! ### Flow -/

@[simp] theorem prepare_mem (b : BitVec 2) (target : DWord) (s : State) :
    (prepare b target s).mem = s.mem := (rfl)

@[simp] theorem transfer_mem (target : DWord) (ready : Nat) (s : State) :
    (transfer target ready s).mem = s.mem := (rfl)

@[simp] theorem transferIf_mem (cond : Bool) (b : BitVec 2) (s : State) :
    (transferIf cond b s).mem = s.mem := by simp [transferIf]

@[simp] theorem execBprepRelative_mem (b : BitVec 2) (i : BitVec 14) (s : State) {m : List Host.Cell} (hm : s.mem = m) :
    MemIs m (execBprepRelative b i s) := hm ▸ issue_mem _ _ _ (fun _ => by simp)

@[simp] theorem execBprepRegister_mem (b : BitVec 2) (a : BitVec 7) (s : State) {m : List Host.Cell} (hm : s.mem = m) :
    MemIs m (execBprepRegister b a s) := hm ▸ issue_mem _ _ _ (fun _ => by simp)

@[simp] theorem execBcmp_mem (c : BitVec 4) (k : BitVec 3) (a : BitVec 7) (b : BitVec 7) (s : State) {m : List Host.Cell} (hm : s.mem = m) :
    MemIs m (execBcmp c k a b s) := hm ▸ issue_mem _ _ _ (fun _ => by simp)

@[simp] theorem execBcmpi_mem (c : BitVec 4) (k : BitVec 3) (a : BitVec 7) (i : BitVec 7) (s : State) {m : List Host.Cell} (hm : s.mem = m) :
    MemIs m (execBcmpi c k a i s) := hm ▸ issue_mem _ _ _ (fun _ => by simp)

@[simp] theorem execBxfer_mem (b : BitVec 2) (alw : Bool) (neg : Bool) (k : BitVec 3) (s : State) {m : List Host.Cell} (hm : s.mem = m) :
    MemIs m (execBxfer b alw neg k s) := hm ▸ issue_mem _ _ _ (fun _ => by simp)

@[simp] theorem execBpois_mem (b : BitVec 2) (neg : Bool) (s : State) {m : List Host.Cell} (hm : s.mem = m) :
    MemIs m (execBpois b neg s) := hm ▸ issue_mem _ _ _ (fun _ => by simp)

@[simp] theorem execCall_mem (d : BitVec 7) (b : BitVec 2) (s : State) {m : List Host.Cell} (hm : s.mem = m) :
    MemIs m (execCall d b s) := hm ▸ issue_mem _ _ _ (fun _ => by simp)

@[simp] theorem execRet_mem (a : BitVec 7) (s : State) {m : List Host.Cell} (hm : s.mem = m) :
    MemIs m (execRet a s) := hm ▸ issue_mem _ _ _ (fun _ => by simp)

@[simp] theorem startLoop_mem (lv : BitVec 2) (off : BitVec 14) (n : Nat) (s : State) :
    (startLoop lv off n s).mem = s.mem := by simp [startLoop]

@[simp] theorem execLoopTable_mem (lv : BitVec 2) (off : BitVec 14) (s : State) {m : List Host.Cell} (hm : s.mem = m) :
    MemIs m (execLoopTable lv off s) := hm ▸ issue_mem _ _ _ (fun _ => by simp)

@[simp] theorem execLoopRegister_mem (lv : BitVec 2) (sc : BitVec 4) (off : BitVec 14) (s : State) {m : List Host.Cell} (hm : s.mem = m) :
    MemIs m (execLoopRegister lv sc off s) := hm ▸ issue_mem _ _ _ (fun _ => by simp)

/-! ### Vote -/

@[simp] theorem startVote_mem (kind : Nat) (loc : Loc) (s : State) :
    (startVote kind loc s).mem = s.mem := (rfl)

@[simp] theorem contribute_mem (r : Run) (v : Nat) (s : State) :
    (contribute r v s).mem = s.mem := (rfl)

@[simp] theorem cellVany_mem (p : BitVec 7) (r : Run) (s : State) :
    (cellVany p r s).mem = s.mem := (rfl)

@[simp] theorem cellVall_mem (p : BitVec 7) (r : Run) (s : State) :
    (cellVall p r s).mem = s.mem := (rfl)

@[simp] theorem cellVcount_mem (p : BitVec 7) (r : Run) (s : State) :
    (cellVcount p r s).mem = s.mem := (rfl)

@[simp] theorem cellPvote_mem (r : Run) (s : State) :
    (cellPvote r s).mem = s.mem := (rfl)

@[simp] theorem cellPvoteClr_mem (r : Run) (s : State) :
    (cellPvoteClr r s).mem = s.mem := by simp [cellPvoteClr]

@[simp] theorem execVany_mem (k : BitVec 7) (p : BitVec 7) (s : State) {m : List Host.Cell} (hm : s.mem = m) :
    MemIs m (execVany k p s) := hm ▸ issueBoth_mem _ _ _ _ (fun _ _ => by simp) (fun _ _ => by simp)

@[simp] theorem execVall_mem (k : BitVec 7) (p : BitVec 7) (s : State) {m : List Host.Cell} (hm : s.mem = m) :
    MemIs m (execVall k p s) := hm ▸ issueBoth_mem _ _ _ _ (fun _ _ => by simp) (fun _ _ => by simp)

@[simp] theorem execVcount_mem (d : BitVec 7) (p : BitVec 7) (s : State) {m : List Host.Cell} (hm : s.mem = m) :
    MemIs m (execVcount d p s) := hm ▸ issueBoth_mem _ _ _ _ (fun _ _ => by simp) (fun _ _ => by simp)

@[simp] theorem execPvote_mem (k : BitVec 7) (s : State) {m : List Host.Cell} (hm : s.mem = m) :
    MemIs m (execPvote k s) := hm ▸ issueBoth_mem _ _ _ _ (fun _ _ => by simp) (fun _ _ => by simp)

@[simp] theorem execPvoteClr_mem (k : BitVec 7) (s : State) {m : List Host.Cell} (hm : s.mem = m) :
    MemIs m (execPvoteClr k s) := hm ▸ issueBoth_mem _ _ _ _ (fun _ _ => by simp) (fun _ _ => by simp)

/-! ### CapOps -/

@[simp] theorem execCderive_mem (d : BitVec 7) (g : BitVec 7) (a : BitVec 7) (s : State) {w0 : List Host.Cell} (hm : s.mem = w0) :
    MemIs w0 (execCderive d g a s) := hm ▸ issue_mem _ _ _ (fun _ => by simp)

@[simp] theorem execCnarrow_mem (d : BitVec 7) (hi : Bool) (g : BitVec 4) (m : BitVec 7) (s : State) {w0 : List Host.Cell} (hm : s.mem = w0) :
    MemIs w0 (execCnarrow d hi g m s) := hm ▸ issue_mem _ _ _ (fun _ => by simp)

@[simp] theorem execCcheck_mem (g : BitVec 4) (k : BitVec 3) (o : BitVec 7) (l : BitVec 7) (s : State) {w0 : List Host.Cell} (hm : s.mem = w0) :
    MemIs w0 (execCcheck g k o l s) := hm ▸ issue_mem _ _ _ (fun _ => by simp)

@[simp] theorem execCst_mem (v : BitVec 7) (b : BitVec 7) (o : BitVec 7) (s : State) {w0 : List Host.Cell} (hm : s.mem = w0) :
    MemIs w0 (execCst v b o s) := hm ▸ issue_mem _ _ _ (fun _ => by simp)

@[simp] theorem execCld_mem (n : BitVec 3) (d : BitVec 4) (b : BitVec 7) (o : BitVec 7) (s : State) {w0 : List Host.Cell} (hm : s.mem = w0) :
    MemIs w0 (execCld n d b o s) := hm ▸ issue_mem _ _ _ (fun _ => by simp)

/-! ### Sync -/

@[simp] theorem freezeHere_mem (w : Wait) (s : State) :
    (freezeHere w s).mem = s.mem := by simp [freezeHere]

theorem waitHere_mem (i : Instr) (k : State → State) (s : State) (h : ∀ t, (k t).mem = t.mem) :
    (waitHere i k s).mem = s.mem := by
  unfold waitHere; split <;> simp [h]

@[simp] theorem execFladd_mem (scope : BitVec 3) (g : BitVec 4) (a : BitVec 7) (b : BitVec 7) (s : State) {m : List Host.Cell} (hm : s.mem = m) :
    MemIs m (execFladd scope g a b s) := hm ▸ issue_mem _ _ _ (fun _ => by simp)

@[simp] theorem execFlset_mem (scope : BitVec 3) (g : BitVec 4) (a : BitVec 7) (b : BitVec 7) (s : State) {m : List Host.Cell} (hm : s.mem = m) :
    MemIs m (execFlset scope g a b s) := hm ▸ issue_mem _ _ _ (fun _ => by simp)

@[simp] theorem execFlwait_mem (cond : BitVec 2) (g : BitVec 4) (a : BitVec 7) (b : BitVec 7) (s : State) {m : List Host.Cell} (hm : s.mem = m) :
    MemIs m (execFlwait cond g a b s) := by
  subst hm; unfold execFlwait; (try dsimp only); repeat' (first | with_reducible rfl | assumption | (simp; done) | (simp [*]; done) | (intro _) | rw [foldl_mem] | (apply issue_mem) | (apply issueBoth_mem) | (apply issueCell_mem) | rw [waitHere_mem] | split | simp)

@[simp] theorem execCwait_mem (n : BitVec 5) (thr : BitVec 14) (s : State) {m : List Host.Cell} (hm : s.mem = m) :
    MemIs m (execCwait n thr s) := by
  subst hm; unfold execCwait; (try dsimp only); repeat' (first | with_reducible rfl | assumption | (simp; done) | (simp [*]; done) | (intro _) | rw [foldl_mem] | (apply issue_mem) | (apply issueBoth_mem) | (apply issueCell_mem) | rw [waitHere_mem] | split | simp)

@[simp] theorem execFence_mem (scope : BitVec 3) (acq : Bool) (rel : Bool) (s : State) {m : List Host.Cell} (hm : s.mem = m) :
    MemIs m (execFence scope acq rel s) := hm ▸ issue_mem _ _ _ (fun _ => by simp)

/-! ### Link -/

@[simp] theorem execEpush_mem (e : BitVec 4) (a : BitVec 7) (s : State) {m : List Host.Cell} (hm : s.mem = m) :
    MemIs m (execEpush e a s) := hm ▸ issue_mem _ _ _ (fun _ => by simp)

@[simp] theorem sendCredits_mem (lay : Nat) (y : Eyelet) (s : State) :
    (sendCredits lay y s).mem = s.mem := by
  unfold sendCredits; (try dsimp only); repeat' (first | with_reducible rfl | assumption | (simp; done) | (simp [*]; done) | (intro _) | rw [foldl_mem] | (apply issue_mem) | (apply issueBoth_mem) | (apply issueCell_mem) | split | simp)

@[simp] theorem takePop_mem (e : BitVec 4) (s : State) :
    (takePop e s).mem = s.mem := by
  unfold takePop; split
  · rfl
  · exact (sendCredits_mem _ _ _).trans rfl
  · rfl

@[simp] theorem execEpop_mem (d : BitVec 7) (e : BitVec 4) (s : State) {m : List Host.Cell} (hm : s.mem = m) :
    MemIs m (execEpop d e s) := by
  subst hm; unfold execEpop; (try dsimp only); repeat' (first | with_reducible rfl | assumption | (simp; done) | (simp [*]; done) | (intro _) | rw [foldl_mem] | (apply issue_mem) | (apply issueBoth_mem) | (apply issueCell_mem) | rw [waitHere_mem] | split | simp)

@[simp] theorem execSend_mem (bulk : Bool) (gd : BitVec 4) (gs : BitVec 4) (a : BitVec 7) (s : State) {m : List Host.Cell} (hm : s.mem = m) :
    MemIs m (execSend bulk gd gs a s) := hm ▸ issue_mem _ _ _ (fun _ => by simp)

@[simp] theorem execRealign_mem (n : BitVec 5) (a : BitVec 7) (s : State) {m : List Host.Cell} (hm : s.mem = m) :
    MemIs m (execRealign n a s) := hm ▸ issue_mem _ _ _ (fun _ => by simp)

/-! ### Sys -/

@[simp] theorem execNop_mem (s : State) {m : List Host.Cell} (hm : s.mem = m) :
    MemIs m (execNop s) := hm ▸ issue_mem _ _ _ (fun _ => by simp)

@[simp] theorem execTlaunch_mem (g : BitVec 4) (q : BitVec 4) (s : State) {m : List Host.Cell} (hm : s.mem = m) :
    MemIs m (execTlaunch g q s) := hm ▸ issue_mem _ _ _ (fun _ => by simp)

@[simp] theorem execTexit_mem (a : BitVec 7) (s : State) {m : List Host.Cell} (hm : s.mem = m) :
    MemIs m (execTexit a s) := hm ▸ issue_mem _ _ _ (fun _ => by simp)

@[simp] theorem execYield_mem (s : State) {m : List Host.Cell} (hm : s.mem = m) :
    MemIs m (execYield s) := hm ▸ issue_mem _ _ _ (fun _ => by simp)

@[simp] theorem execTrap_mem (code : BitVec 14) (s : State) {m : List Host.Cell} (hm : s.mem = m) :
    MemIs m (execTrap code s) := hm ▸ issue_mem _ _ _ (fun _ => by simp)

@[simp] theorem execEret_mem (a : BitVec 7) (s : State) {m : List Host.Cell} (hm : s.mem = m) :
    MemIs m (execEret a s) := hm ▸ issue_mem _ _ _ (fun _ => by simp)

@[simp] theorem execEretKill_mem (a : BitVec 7) (s : State) {m : List Host.Cell} (hm : s.mem = m) :
    MemIs m (execEretKill a s) := hm ▸ issue_mem _ _ _ (fun _ => by simp)

@[simp] theorem execMfsr_mem (d : BitVec 7) (r : BitVec 12) (s : State) {m : List Host.Cell} (hm : s.mem = m) :
    MemIs m (execMfsr d r s) := hm ▸ issue_mem _ _ _ (fun _ => by simp)

@[simp] theorem rememberSpecial_mem (n : Nat) (s : State) :
    (rememberSpecial n s).mem = s.mem := by simp [rememberSpecial]

@[simp] theorem execMtsr_mem (a : BitVec 7) (r : BitVec 12) (s : State) {m : List Host.Cell} (hm : s.mem = m) :
    MemIs m (execMtsr a r s) := hm ▸ issue_mem _ _ _ (fun _ => by simp)

@[simp] theorem execLsleepDoze_mem (n : BitVec 5) (a : BitVec 7) (s : State) {m : List Host.Cell} (hm : s.mem = m) :
    MemIs m (execLsleepDoze n a s) := hm ▸ issue_mem _ _ _ (fun _ => by simp)

@[simp] theorem execLsleepOff_mem (n : BitVec 5) (a : BitVec 7) (s : State) {m : List Host.Cell} (hm : s.mem = m) :
    MemIs m (execLsleepOff n a s) := hm ▸ issue_mem _ _ _ (fun _ => by simp)

@[simp] theorem execLwake_mem (n : BitVec 5) (a : BitVec 7) (s : State) {m : List Host.Cell} (hm : s.mem = m) :
    MemIs m (execLwake n a s) := hm ▸ issue_mem _ _ _ (fun _ => by simp)

@[simp] theorem execLstld_mem (n : BitVec 3) (g : BitVec 4) (a : BitVec 7) (b : BitVec 7) (s : State) {m : List Host.Cell} (hm : s.mem = m) :
    MemIs m (execLstld n g a b s) := hm ▸ issue_mem _ _ _ (fun _ => by simp)

@[simp] theorem execMpsld_mem (n : BitVec 3) (g : BitVec 4) (a : BitVec 7) (b : BitVec 7) (s : State) {m : List Host.Cell} (hm : s.mem = m) :
    MemIs m (execMpsld n g a b s) := hm ▸ issue_mem _ _ _ (fun _ => by simp)

@[simp] theorem execBctl_mem (ginv : Bool) (gen : Bool) (gp : BitVec 4) (gap : BitVec 7) (is : Bool) (fw : BitVec 2) (iw : BitVec 2) (sway : Bool) (sl : Bool) (s : State) {m : List Host.Cell} (hm : s.mem = m) :
    MemIs m (execBctl ginv gen gp gap is fw iw sway sl s) := hm ▸ issue_mem _ _ _ (fun _ => by simp)

@[simp] theorem execLimm_mem (i : BitVec 21) (s : State) {m : List Host.Cell} (hm : s.mem = m) :
    MemIs m (execLimm i s) := hm ▸ issue_mem _ _ _ (fun _ => by simp)

/-! ### Xalu -/

@[simp] theorem cellX3_mem (f : Word → Word → Word) (d : BitVec 7) (a : BitVec 7) (b : BitVec 7) (r : Run) (s : State) :
    (cellX3 f d a b r s).mem = s.mem := (rfl)

@[simp] theorem cellXadd_mem (d : BitVec 7) (a : BitVec 7) (b : BitVec 7) (r : Run) (s : State) :
    (cellXadd d a b r s).mem = s.mem := (rfl)

@[simp] theorem cellXsub_mem (d : BitVec 7) (a : BitVec 7) (b : BitVec 7) (r : Run) (s : State) :
    (cellXsub d a b r s).mem = s.mem := (rfl)

@[simp] theorem cellXmul_mem (d : BitVec 7) (a : BitVec 7) (b : BitVec 7) (r : Run) (s : State) :
    (cellXmul d a b r s).mem = s.mem := (rfl)

@[simp] theorem cellXand_mem (d : BitVec 7) (a : BitVec 7) (b : BitVec 7) (r : Run) (s : State) :
    (cellXand d a b r s).mem = s.mem := (rfl)

@[simp] theorem cellXior_mem (d : BitVec 7) (a : BitVec 7) (b : BitVec 7) (r : Run) (s : State) :
    (cellXior d a b r s).mem = s.mem := (rfl)

@[simp] theorem cellXeor_mem (d : BitVec 7) (a : BitVec 7) (b : BitVec 7) (r : Run) (s : State) :
    (cellXeor d a b r s).mem = s.mem := (rfl)

@[simp] theorem cellXshl_mem (d : BitVec 7) (a : BitVec 7) (b : BitVec 7) (r : Run) (s : State) :
    (cellXshl d a b r s).mem = s.mem := (rfl)

@[simp] theorem cellXshr_mem (d : BitVec 7) (a : BitVec 7) (b : BitVec 7) (r : Run) (s : State) :
    (cellXshr d a b r s).mem = s.mem := (rfl)

@[simp] theorem cellXsar_mem (d : BitVec 7) (a : BitVec 7) (b : BitVec 7) (r : Run) (s : State) :
    (cellXsar d a b r s).mem = s.mem := (rfl)

@[simp] theorem cellXmin_mem (d : BitVec 7) (a : BitVec 7) (b : BitVec 7) (r : Run) (s : State) :
    (cellXmin d a b r s).mem = s.mem := (rfl)

@[simp] theorem cellXmax_mem (d : BitVec 7) (a : BitVec 7) (b : BitVec 7) (r : Run) (s : State) :
    (cellXmax d a b r s).mem = s.mem := (rfl)

@[simp] theorem cellXaddi_mem (d : BitVec 7) (i : BitVec 14) (r : Run) (s : State) :
    (cellXaddi d i r s).mem = s.mem := (rfl)

@[simp] theorem cellXli_mem (d : BitVec 7) (i : BitVec 14) (r : Run) (s : State) :
    (cellXli d i r s).mem = s.mem := (rfl)

@[simp] theorem execXadd_mem (d : BitVec 7) (a : BitVec 7) (b : BitVec 7) (s : State) {m : List Host.Cell} (hm : s.mem = m) :
    MemIs m (execXadd d a b s) := hm ▸ issueCell_mem _ _ _ (fun _ _ => by simp)

@[simp] theorem execXsub_mem (d : BitVec 7) (a : BitVec 7) (b : BitVec 7) (s : State) {m : List Host.Cell} (hm : s.mem = m) :
    MemIs m (execXsub d a b s) := hm ▸ issueCell_mem _ _ _ (fun _ _ => by simp)

@[simp] theorem execXmul_mem (d : BitVec 7) (a : BitVec 7) (b : BitVec 7) (s : State) {m : List Host.Cell} (hm : s.mem = m) :
    MemIs m (execXmul d a b s) := hm ▸ issueCell_mem _ _ _ (fun _ _ => by simp)

@[simp] theorem execXand_mem (d : BitVec 7) (a : BitVec 7) (b : BitVec 7) (s : State) {m : List Host.Cell} (hm : s.mem = m) :
    MemIs m (execXand d a b s) := hm ▸ issueCell_mem _ _ _ (fun _ _ => by simp)

@[simp] theorem execXior_mem (d : BitVec 7) (a : BitVec 7) (b : BitVec 7) (s : State) {m : List Host.Cell} (hm : s.mem = m) :
    MemIs m (execXior d a b s) := hm ▸ issueCell_mem _ _ _ (fun _ _ => by simp)

@[simp] theorem execXeor_mem (d : BitVec 7) (a : BitVec 7) (b : BitVec 7) (s : State) {m : List Host.Cell} (hm : s.mem = m) :
    MemIs m (execXeor d a b s) := hm ▸ issueCell_mem _ _ _ (fun _ _ => by simp)

@[simp] theorem execXshl_mem (d : BitVec 7) (a : BitVec 7) (b : BitVec 7) (s : State) {m : List Host.Cell} (hm : s.mem = m) :
    MemIs m (execXshl d a b s) := hm ▸ issueCell_mem _ _ _ (fun _ _ => by simp)

@[simp] theorem execXshr_mem (d : BitVec 7) (a : BitVec 7) (b : BitVec 7) (s : State) {m : List Host.Cell} (hm : s.mem = m) :
    MemIs m (execXshr d a b s) := hm ▸ issueCell_mem _ _ _ (fun _ _ => by simp)

@[simp] theorem execXsar_mem (d : BitVec 7) (a : BitVec 7) (b : BitVec 7) (s : State) {m : List Host.Cell} (hm : s.mem = m) :
    MemIs m (execXsar d a b s) := hm ▸ issueCell_mem _ _ _ (fun _ _ => by simp)

@[simp] theorem execXmin_mem (d : BitVec 7) (a : BitVec 7) (b : BitVec 7) (s : State) {m : List Host.Cell} (hm : s.mem = m) :
    MemIs m (execXmin d a b s) := hm ▸ issueCell_mem _ _ _ (fun _ _ => by simp)

@[simp] theorem execXmax_mem (d : BitVec 7) (a : BitVec 7) (b : BitVec 7) (s : State) {m : List Host.Cell} (hm : s.mem = m) :
    MemIs m (execXmax d a b s) := hm ▸ issueCell_mem _ _ _ (fun _ _ => by simp)

@[simp] theorem execXaddi_mem (d : BitVec 7) (i : BitVec 14) (s : State) {m : List Host.Cell} (hm : s.mem = m) :
    MemIs m (execXaddi d i s) := hm ▸ issueCell_mem _ _ _ (fun _ _ => by simp)

@[simp] theorem execXli_mem (d : BitVec 7) (i : BitVec 14) (s : State) {m : List Host.Cell} (hm : s.mem = m) :
    MemIs m (execXli d i s) := hm ▸ issueCell_mem _ _ _ (fun _ _ => by simp)

/-! ### Vint -/

@[simp] theorem cellV3_mem (f : Bctl → Nat → Nat → Nat) (d : BitVec 7) (a : BitVec 7) (b : BitVec 7) (r : Run) (s : State) :
    (cellV3 f d a b r s).mem = s.mem := (rfl)

@[simp] theorem cellVcmp_mem (f : Bctl → Nat → Nat → Bool) (d : BitVec 7) (a : BitVec 7) (b : BitVec 7) (r : Run) (s : State) :
    (cellVcmp f d a b r s).mem = s.mem := (rfl)

@[simp] theorem cellVadd_mem (d : BitVec 7) (a : BitVec 7) (b : BitVec 7) (r : Run) (s : State) :
    (cellVadd d a b r s).mem = s.mem := (rfl)

@[simp] theorem cellVsub_mem (d : BitVec 7) (a : BitVec 7) (b : BitVec 7) (r : Run) (s : State) :
    (cellVsub d a b r s).mem = s.mem := (rfl)

@[simp] theorem cellVadds_mem (d : BitVec 7) (a : BitVec 7) (b : BitVec 7) (r : Run) (s : State) :
    (cellVadds d a b r s).mem = s.mem := (rfl)

@[simp] theorem cellVsubs_mem (d : BitVec 7) (a : BitVec 7) (b : BitVec 7) (r : Run) (s : State) :
    (cellVsubs d a b r s).mem = s.mem := (rfl)

@[simp] theorem cellVmul_mem (d : BitVec 7) (a : BitVec 7) (b : BitVec 7) (r : Run) (s : State) :
    (cellVmul d a b r s).mem = s.mem := (rfl)

@[simp] theorem cellVmulh_mem (d : BitVec 7) (a : BitVec 7) (b : BitVec 7) (r : Run) (s : State) :
    (cellVmulh d a b r s).mem = s.mem := (rfl)

@[simp] theorem cellVmin_mem (d : BitVec 7) (a : BitVec 7) (b : BitVec 7) (r : Run) (s : State) :
    (cellVmin d a b r s).mem = s.mem := (rfl)

@[simp] theorem cellVmax_mem (d : BitVec 7) (a : BitVec 7) (b : BitVec 7) (r : Run) (s : State) :
    (cellVmax d a b r s).mem = s.mem := (rfl)

@[simp] theorem cellVand_mem (d : BitVec 7) (a : BitVec 7) (b : BitVec 7) (r : Run) (s : State) :
    (cellVand d a b r s).mem = s.mem := (rfl)

@[simp] theorem cellVior_mem (d : BitVec 7) (a : BitVec 7) (b : BitVec 7) (r : Run) (s : State) :
    (cellVior d a b r s).mem = s.mem := (rfl)

@[simp] theorem cellVeor_mem (d : BitVec 7) (a : BitVec 7) (b : BitVec 7) (r : Run) (s : State) :
    (cellVeor d a b r s).mem = s.mem := (rfl)

@[simp] theorem cellVshl_mem (d : BitVec 7) (a : BitVec 7) (b : BitVec 7) (r : Run) (s : State) :
    (cellVshl d a b r s).mem = s.mem := (rfl)

@[simp] theorem cellVshr_mem (d : BitVec 7) (a : BitVec 7) (b : BitVec 7) (r : Run) (s : State) :
    (cellVshr d a b r s).mem = s.mem := (rfl)

@[simp] theorem cellVabs_mem (d : BitVec 7) (a : BitVec 7) (r : Run) (s : State) :
    (cellVabs d a r s).mem = s.mem := (rfl)

@[simp] theorem cellVcmpeq_mem (d : BitVec 7) (a : BitVec 7) (b : BitVec 7) (r : Run) (s : State) :
    (cellVcmpeq d a b r s).mem = s.mem := (rfl)

@[simp] theorem cellVcmplt_mem (d : BitVec 7) (a : BitVec 7) (b : BitVec 7) (r : Run) (s : State) :
    (cellVcmplt d a b r s).mem = s.mem := (rfl)

@[simp] theorem cellVsel_mem (d : BitVec 7) (p : BitVec 7) (a : BitVec 7) (r : Run) (s : State) :
    (cellVsel d p a r s).mem = s.mem := (rfl)

@[simp] theorem cellVrng_mem (d : BitVec 7) (g : BitVec 2) (c : BitVec 7) (r : Run) (s : State) :
    (cellVrng d g c r s).mem = s.mem := by
  unfold cellVrng; (try dsimp only); repeat' (first | with_reducible rfl | assumption | (simp; done) | (simp [*]; done) | (intro _) | rw [foldl_mem] | (apply issue_mem) | (apply issueBoth_mem) | (apply issueCell_mem) | split | simp)

@[simp] theorem cellP_mem (d : BitVec 7) (v : Row) (r : Run) (s : State) :
    (cellP d v r s).mem = s.mem := (rfl)

@[simp] theorem cellPand_mem (d : BitVec 7) (a : BitVec 7) (b : BitVec 7) (r : Run) (s : State) :
    (cellPand d a b r s).mem = s.mem := (rfl)

@[simp] theorem cellPior_mem (d : BitVec 7) (a : BitVec 7) (b : BitVec 7) (r : Run) (s : State) :
    (cellPior d a b r s).mem = s.mem := (rfl)

@[simp] theorem cellPeor_mem (d : BitVec 7) (a : BitVec 7) (b : BitVec 7) (r : Run) (s : State) :
    (cellPeor d a b r s).mem = s.mem := (rfl)

@[simp] theorem cellPandn_mem (d : BitVec 7) (a : BitVec 7) (b : BitVec 7) (r : Run) (s : State) :
    (cellPandn d a b r s).mem = s.mem := (rfl)

@[simp] theorem cellPnot_mem (d : BitVec 7) (a : BitVec 7) (r : Run) (s : State) :
    (cellPnot d a r s).mem = s.mem := (rfl)

@[simp] theorem cellPall_mem (d : BitVec 7) (r : Run) (s : State) :
    (cellPall d r s).mem = s.mem := (rfl)

@[simp] theorem cellPnone_mem (d : BitVec 7) (r : Run) (s : State) :
    (cellPnone d r s).mem = s.mem := (rfl)

@[simp] theorem execVadd_mem (d : BitVec 7) (a : BitVec 7) (b : BitVec 7) (s : State) {m : List Host.Cell} (hm : s.mem = m) :
    MemIs m (execVadd d a b s) := hm ▸ issueCell_mem _ _ _ (fun _ _ => by simp)

@[simp] theorem execVsub_mem (d : BitVec 7) (a : BitVec 7) (b : BitVec 7) (s : State) {m : List Host.Cell} (hm : s.mem = m) :
    MemIs m (execVsub d a b s) := hm ▸ issueCell_mem _ _ _ (fun _ _ => by simp)

@[simp] theorem execVadds_mem (d : BitVec 7) (a : BitVec 7) (b : BitVec 7) (s : State) {m : List Host.Cell} (hm : s.mem = m) :
    MemIs m (execVadds d a b s) := hm ▸ issueCell_mem _ _ _ (fun _ _ => by simp)

@[simp] theorem execVsubs_mem (d : BitVec 7) (a : BitVec 7) (b : BitVec 7) (s : State) {m : List Host.Cell} (hm : s.mem = m) :
    MemIs m (execVsubs d a b s) := hm ▸ issueCell_mem _ _ _ (fun _ _ => by simp)

@[simp] theorem execVmul_mem (d : BitVec 7) (a : BitVec 7) (b : BitVec 7) (s : State) {m : List Host.Cell} (hm : s.mem = m) :
    MemIs m (execVmul d a b s) := hm ▸ issueCell_mem _ _ _ (fun _ _ => by simp)

@[simp] theorem execVmulh_mem (d : BitVec 7) (a : BitVec 7) (b : BitVec 7) (s : State) {m : List Host.Cell} (hm : s.mem = m) :
    MemIs m (execVmulh d a b s) := hm ▸ issueCell_mem _ _ _ (fun _ _ => by simp)

@[simp] theorem execVmin_mem (d : BitVec 7) (a : BitVec 7) (b : BitVec 7) (s : State) {m : List Host.Cell} (hm : s.mem = m) :
    MemIs m (execVmin d a b s) := hm ▸ issueCell_mem _ _ _ (fun _ _ => by simp)

@[simp] theorem execVmax_mem (d : BitVec 7) (a : BitVec 7) (b : BitVec 7) (s : State) {m : List Host.Cell} (hm : s.mem = m) :
    MemIs m (execVmax d a b s) := hm ▸ issueCell_mem _ _ _ (fun _ _ => by simp)

@[simp] theorem execVand_mem (d : BitVec 7) (a : BitVec 7) (b : BitVec 7) (s : State) {m : List Host.Cell} (hm : s.mem = m) :
    MemIs m (execVand d a b s) := hm ▸ issueCell_mem _ _ _ (fun _ _ => by simp)

@[simp] theorem execVior_mem (d : BitVec 7) (a : BitVec 7) (b : BitVec 7) (s : State) {m : List Host.Cell} (hm : s.mem = m) :
    MemIs m (execVior d a b s) := hm ▸ issueCell_mem _ _ _ (fun _ _ => by simp)

@[simp] theorem execVeor_mem (d : BitVec 7) (a : BitVec 7) (b : BitVec 7) (s : State) {m : List Host.Cell} (hm : s.mem = m) :
    MemIs m (execVeor d a b s) := hm ▸ issueCell_mem _ _ _ (fun _ _ => by simp)

@[simp] theorem execVshl_mem (d : BitVec 7) (a : BitVec 7) (b : BitVec 7) (s : State) {m : List Host.Cell} (hm : s.mem = m) :
    MemIs m (execVshl d a b s) := hm ▸ issueCell_mem _ _ _ (fun _ _ => by simp)

@[simp] theorem execVshr_mem (d : BitVec 7) (a : BitVec 7) (b : BitVec 7) (s : State) {m : List Host.Cell} (hm : s.mem = m) :
    MemIs m (execVshr d a b s) := hm ▸ issueCell_mem _ _ _ (fun _ _ => by simp)

@[simp] theorem execVcmpeq_mem (d : BitVec 7) (a : BitVec 7) (b : BitVec 7) (s : State) {m : List Host.Cell} (hm : s.mem = m) :
    MemIs m (execVcmpeq d a b s) := hm ▸ issueCell_mem _ _ _ (fun _ _ => by simp)

@[simp] theorem execVcmplt_mem (d : BitVec 7) (a : BitVec 7) (b : BitVec 7) (s : State) {m : List Host.Cell} (hm : s.mem = m) :
    MemIs m (execVcmplt d a b s) := hm ▸ issueCell_mem _ _ _ (fun _ _ => by simp)

@[simp] theorem execPand_mem (d : BitVec 7) (a : BitVec 7) (b : BitVec 7) (s : State) {m : List Host.Cell} (hm : s.mem = m) :
    MemIs m (execPand d a b s) := hm ▸ issueCell_mem _ _ _ (fun _ _ => by simp)

@[simp] theorem execPior_mem (d : BitVec 7) (a : BitVec 7) (b : BitVec 7) (s : State) {m : List Host.Cell} (hm : s.mem = m) :
    MemIs m (execPior d a b s) := hm ▸ issueCell_mem _ _ _ (fun _ _ => by simp)

@[simp] theorem execPeor_mem (d : BitVec 7) (a : BitVec 7) (b : BitVec 7) (s : State) {m : List Host.Cell} (hm : s.mem = m) :
    MemIs m (execPeor d a b s) := hm ▸ issueCell_mem _ _ _ (fun _ _ => by simp)

@[simp] theorem execPandn_mem (d : BitVec 7) (a : BitVec 7) (b : BitVec 7) (s : State) {m : List Host.Cell} (hm : s.mem = m) :
    MemIs m (execPandn d a b s) := hm ▸ issueCell_mem _ _ _ (fun _ _ => by simp)

@[simp] theorem execVabs_mem (d : BitVec 7) (a : BitVec 7) (s : State) {m : List Host.Cell} (hm : s.mem = m) :
    MemIs m (execVabs d a s) := hm ▸ issueCell_mem _ _ _ (fun _ _ => by simp)

@[simp] theorem execVsel_mem (d : BitVec 7) (p : BitVec 7) (a : BitVec 7) (s : State) {m : List Host.Cell} (hm : s.mem = m) :
    MemIs m (execVsel d p a s) := hm ▸ issueCell_mem _ _ _ (fun _ _ => by simp)

@[simp] theorem execVrng_mem (d : BitVec 7) (g : BitVec 2) (c : BitVec 7) (s : State) {m : List Host.Cell} (hm : s.mem = m) :
    MemIs m (execVrng d g c s) := hm ▸ issueCell_mem _ _ _ (fun _ _ => by simp)

@[simp] theorem execPnot_mem (d : BitVec 7) (a : BitVec 7) (s : State) {m : List Host.Cell} (hm : s.mem = m) :
    MemIs m (execPnot d a s) := hm ▸ issueCell_mem _ _ _ (fun _ _ => by simp)

@[simp] theorem execPall_mem (d : BitVec 7) (s : State) {m : List Host.Cell} (hm : s.mem = m) :
    MemIs m (execPall d s) := hm ▸ issueCell_mem _ _ _ (fun _ _ => by simp)

@[simp] theorem execPnone_mem (d : BitVec 7) (s : State) {m : List Host.Cell} (hm : s.mem = m) :
    MemIs m (execPnone d s) := hm ▸ issueCell_mem _ _ _ (fun _ _ => by simp)

/-! ### Vflt -/

@[simp] theorem cellF_mem (lat : Nat) (g : FloatFmt → Nat → Nat → Nat → Nat → Nat) (d : BitVec 7) (a : BitVec 7) (b : BitVec 7) (r : Run) (s : State) :
    (cellF lat g d a b r s).mem = s.mem := (rfl)

@[simp] theorem cellFr_mem (lat : Nat) (h : Nat → Fp → Fp → Fp → Val) (d : BitVec 7) (a : BitVec 7) (b : BitVec 7) (r : Run) (s : State) :
    (cellFr lat h d a b r s).mem = s.mem := (rfl)

@[simp] theorem cellFcmp_mem (h : Fp → Fp → Bool) (d : BitVec 7) (a : BitVec 7) (b : BitVec 7) (r : Run) (s : State) :
    (cellFcmp h d a b r s).mem = s.mem := (rfl)

@[simp] theorem cellVfadd_mem (d : BitVec 7) (a : BitVec 7) (b : BitVec 7) (r : Run) (s : State) :
    (cellVfadd d a b r s).mem = s.mem := (rfl)

@[simp] theorem cellVfsub_mem (d : BitVec 7) (a : BitVec 7) (b : BitVec 7) (r : Run) (s : State) :
    (cellVfsub d a b r s).mem = s.mem := (rfl)

@[simp] theorem cellVfmul_mem (d : BitVec 7) (a : BitVec 7) (b : BitVec 7) (r : Run) (s : State) :
    (cellVfmul d a b r s).mem = s.mem := (rfl)

@[simp] theorem cellVfma_mem (d : BitVec 7) (a : BitVec 7) (b : BitVec 7) (r : Run) (s : State) :
    (cellVfma d a b r s).mem = s.mem := (rfl)

@[simp] theorem cellVfnma_mem (d : BitVec 7) (a : BitVec 7) (b : BitVec 7) (r : Run) (s : State) :
    (cellVfnma d a b r s).mem = s.mem := (rfl)

@[simp] theorem cellVfmin_mem (d : BitVec 7) (a : BitVec 7) (b : BitVec 7) (r : Run) (s : State) :
    (cellVfmin d a b r s).mem = s.mem := (rfl)

@[simp] theorem cellVfmax_mem (d : BitVec 7) (a : BitVec 7) (b : BitVec 7) (r : Run) (s : State) :
    (cellVfmax d a b r s).mem = s.mem := (rfl)

@[simp] theorem cellVfabs_mem (d : BitVec 7) (a : BitVec 7) (r : Run) (s : State) :
    (cellVfabs d a r s).mem = s.mem := (rfl)

@[simp] theorem cellVfneg_mem (d : BitVec 7) (a : BitVec 7) (r : Run) (s : State) :
    (cellVfneg d a r s).mem = s.mem := (rfl)

@[simp] theorem cellVfcmpeq_mem (d : BitVec 7) (a : BitVec 7) (b : BitVec 7) (r : Run) (s : State) :
    (cellVfcmpeq d a b r s).mem = s.mem := (rfl)

@[simp] theorem cellVfcmplt_mem (d : BitVec 7) (a : BitVec 7) (b : BitVec 7) (r : Run) (s : State) :
    (cellVfcmplt d a b r s).mem = s.mem := (rfl)

@[simp] theorem cellVfcmple_mem (d : BitVec 7) (a : BitVec 7) (b : BitVec 7) (r : Run) (s : State) :
    (cellVfcmple d a b r s).mem = s.mem := (rfl)

@[simp] theorem cellVfrcp_mem (d : BitVec 7) (a : BitVec 7) (r : Run) (s : State) :
    (cellVfrcp d a r s).mem = s.mem := (rfl)

@[simp] theorem cellVfrsq_mem (d : BitVec 7) (a : BitVec 7) (r : Run) (s : State) :
    (cellVfrsq d a r s).mem = s.mem := (rfl)

@[simp] theorem cellVfexp2_mem (d : BitVec 7) (a : BitVec 7) (r : Run) (s : State) :
    (cellVfexp2 d a r s).mem = s.mem := (rfl)

@[simp] theorem cellVflog2_mem (d : BitVec 7) (a : BitVec 7) (r : Run) (s : State) :
    (cellVflog2 d a r s).mem = s.mem := (rfl)

@[simp] theorem cellVfsqrt_mem (d : BitVec 7) (a : BitVec 7) (r : Run) (s : State) :
    (cellVfsqrt d a r s).mem = s.mem := (rfl)

@[simp] theorem execVfadd_mem (d : BitVec 7) (a : BitVec 7) (b : BitVec 7) (s : State) {m : List Host.Cell} (hm : s.mem = m) :
    MemIs m (execVfadd d a b s) := hm ▸ issueCell_mem _ _ _ (fun _ _ => by simp)

@[simp] theorem execVfsub_mem (d : BitVec 7) (a : BitVec 7) (b : BitVec 7) (s : State) {m : List Host.Cell} (hm : s.mem = m) :
    MemIs m (execVfsub d a b s) := hm ▸ issueCell_mem _ _ _ (fun _ _ => by simp)

@[simp] theorem execVfmul_mem (d : BitVec 7) (a : BitVec 7) (b : BitVec 7) (s : State) {m : List Host.Cell} (hm : s.mem = m) :
    MemIs m (execVfmul d a b s) := hm ▸ issueCell_mem _ _ _ (fun _ _ => by simp)

@[simp] theorem execVfma_mem (d : BitVec 7) (a : BitVec 7) (b : BitVec 7) (s : State) {m : List Host.Cell} (hm : s.mem = m) :
    MemIs m (execVfma d a b s) := hm ▸ issueCell_mem _ _ _ (fun _ _ => by simp)

@[simp] theorem execVfnma_mem (d : BitVec 7) (a : BitVec 7) (b : BitVec 7) (s : State) {m : List Host.Cell} (hm : s.mem = m) :
    MemIs m (execVfnma d a b s) := hm ▸ issueCell_mem _ _ _ (fun _ _ => by simp)

@[simp] theorem execVfmin_mem (d : BitVec 7) (a : BitVec 7) (b : BitVec 7) (s : State) {m : List Host.Cell} (hm : s.mem = m) :
    MemIs m (execVfmin d a b s) := hm ▸ issueCell_mem _ _ _ (fun _ _ => by simp)

@[simp] theorem execVfmax_mem (d : BitVec 7) (a : BitVec 7) (b : BitVec 7) (s : State) {m : List Host.Cell} (hm : s.mem = m) :
    MemIs m (execVfmax d a b s) := hm ▸ issueCell_mem _ _ _ (fun _ _ => by simp)

@[simp] theorem execVfabs_mem (d : BitVec 7) (a : BitVec 7) (s : State) {m : List Host.Cell} (hm : s.mem = m) :
    MemIs m (execVfabs d a s) := hm ▸ issueCell_mem _ _ _ (fun _ _ => by simp)

@[simp] theorem execVfneg_mem (d : BitVec 7) (a : BitVec 7) (s : State) {m : List Host.Cell} (hm : s.mem = m) :
    MemIs m (execVfneg d a s) := hm ▸ issueCell_mem _ _ _ (fun _ _ => by simp)

@[simp] theorem execVfcmpeq_mem (d : BitVec 7) (a : BitVec 7) (b : BitVec 7) (s : State) {m : List Host.Cell} (hm : s.mem = m) :
    MemIs m (execVfcmpeq d a b s) := hm ▸ issueCell_mem _ _ _ (fun _ _ => by simp)

@[simp] theorem execVfcmplt_mem (d : BitVec 7) (a : BitVec 7) (b : BitVec 7) (s : State) {m : List Host.Cell} (hm : s.mem = m) :
    MemIs m (execVfcmplt d a b s) := hm ▸ issueCell_mem _ _ _ (fun _ _ => by simp)

@[simp] theorem execVfcmple_mem (d : BitVec 7) (a : BitVec 7) (b : BitVec 7) (s : State) {m : List Host.Cell} (hm : s.mem = m) :
    MemIs m (execVfcmple d a b s) := hm ▸ issueCell_mem _ _ _ (fun _ _ => by simp)

@[simp] theorem execVfrcp_mem (d : BitVec 7) (a : BitVec 7) (s : State) {m : List Host.Cell} (hm : s.mem = m) :
    MemIs m (execVfrcp d a s) := hm ▸ issueCell_mem _ _ _ (fun _ _ => by simp)

@[simp] theorem execVfrsq_mem (d : BitVec 7) (a : BitVec 7) (s : State) {m : List Host.Cell} (hm : s.mem = m) :
    MemIs m (execVfrsq d a s) := hm ▸ issueCell_mem _ _ _ (fun _ _ => by simp)

@[simp] theorem execVfexp2_mem (d : BitVec 7) (a : BitVec 7) (s : State) {m : List Host.Cell} (hm : s.mem = m) :
    MemIs m (execVfexp2 d a s) := hm ▸ issueCell_mem _ _ _ (fun _ _ => by simp)

@[simp] theorem execVflog2_mem (d : BitVec 7) (a : BitVec 7) (s : State) {m : List Host.Cell} (hm : s.mem = m) :
    MemIs m (execVflog2 d a s) := hm ▸ issueCell_mem _ _ _ (fun _ _ => by simp)

@[simp] theorem execVfsqrt_mem (d : BitVec 7) (a : BitVec 7) (s : State) {m : List Host.Cell} (hm : s.mem = m) :
    MemIs m (execVfsqrt d a s) := hm ▸ issueCell_mem _ _ _ (fun _ _ => by simp)

/-! ### Vcvt -/

@[simp] theorem Run.landPois_mem (r : Run) (lat : Nat) (any : Bool) (s : State) :
    (Run.landPois r lat any s).mem = s.mem := by simp [Run.landPois]

@[simp] theorem cellCvt_mem (sat : Bool) (f : BitVec 4) (d : BitVec 7) (a : BitVec 7) (rm : BitVec 3) (c : BitVec 4) (r : Run) (s : State) :
    (cellCvt sat f d a rm c r s).mem = s.mem := by
  unfold cellCvt; (try dsimp only); repeat' (first | with_reducible rfl | assumption | (simp; done) | (simp [*]; done) | (intro _) | rw [foldl_mem] | (apply issue_mem) | (apply issueBoth_mem) | (apply issueCell_mem) | split | simp)

@[simp] theorem cellVcvt_mem (f : BitVec 4) (d : BitVec 7) (a : BitVec 7) (rm : BitVec 3) (c : BitVec 4) (r : Run) (s : State) :
    (cellVcvt f d a rm c r s).mem = s.mem := by simp [cellVcvt]

@[simp] theorem cellVcvts_mem (f : BitVec 4) (d : BitVec 7) (a : BitVec 7) (rm : BitVec 3) (c : BitVec 4) (r : Run) (s : State) :
    (cellVcvts f d a rm c r s).mem = s.mem := by simp [cellVcvts]

@[simp] theorem cellVquant_mem (d : BitVec 7) (a : BitVec 7) (rm : BitVec 3) (n : BitVec 4) (r : Run) (s : State) :
    (cellVquant d a rm n r s).mem = s.mem := by simp [cellVquant]

@[simp] theorem cellVdeq_mem (d : BitVec 7) (a : BitVec 7) (rm : BitVec 3) (n : BitVec 4) (r : Run) (s : State) :
    (cellVdeq d a rm n r s).mem = s.mem := by
  unfold cellVdeq; (try dsimp only); repeat' (first | with_reducible rfl | assumption | (simp; done) | (simp [*]; done) | (intro _) | rw [foldl_mem] | (apply issue_mem) | (apply issueBoth_mem) | (apply issueCell_mem) | split | simp)

@[simp] theorem execVcvt_mem (f : BitVec 4) (d : BitVec 7) (a : BitVec 7) (rm : BitVec 3) (c : BitVec 4) (s : State) {m : List Host.Cell} (hm : s.mem = m) :
    MemIs m (execVcvt f d a rm c s) := hm ▸ issueCell_mem _ _ _ (fun _ _ => by simp)

@[simp] theorem execVcvts_mem (f : BitVec 4) (d : BitVec 7) (a : BitVec 7) (rm : BitVec 3) (c : BitVec 4) (s : State) {m : List Host.Cell} (hm : s.mem = m) :
    MemIs m (execVcvts f d a rm c s) := hm ▸ issueCell_mem _ _ _ (fun _ _ => by simp)

@[simp] theorem execVquant_mem (d : BitVec 7) (a : BitVec 7) (rm : BitVec 3) (n : BitVec 4) (s : State) {m : List Host.Cell} (hm : s.mem = m) :
    MemIs m (execVquant d a rm n s) := hm ▸ issueCell_mem _ _ _ (fun _ _ => by simp)

@[simp] theorem execVdeq_mem (d : BitVec 7) (a : BitVec 7) (rm : BitVec 3) (n : BitVec 4) (s : State) {m : List Host.Cell} (hm : s.mem = m) :
    MemIs m (execVdeq d a rm n s) := hm ▸ issueCell_mem _ _ _ (fun _ _ => by simp)

/-! ### Net -/

@[simp] theorem Run.landLoad_mem (r : Run) (n : Nat) (act : Row) (v : Lanes) (s : State) :
    (Run.landLoad r n act v s).mem = s.mem := (rfl)

@[simp] theorem Run.landLoadPois_mem (r : Run) (lat : Nat) (act : Row) (pois : Row) (s : State) :
    (Run.landLoadPois r lat act pois s).mem = s.mem := by simp [Run.landLoadPois]

@[simp] theorem loadThrough_mem (d : BitVec 7) (entry : Option Nat) (em : BitVec 4) (xa : BitVec 3) (r : Run) (s : State) :
    (loadThrough d entry em xa r s).mem = s.mem := by unfold loadThrough; repeat' (first | (simp; done) | split)

@[simp] theorem storeThrough_mem (v : BitVec 7) (entry : Option Nat) (em : BitVec 4) (xa : BitVec 3) (r : Run) (s : State) :
    (storeThrough v entry em xa r s).mem = s.mem := by unfold storeThrough; repeat' (first | (simp; done) | split)

@[simp] theorem cellVld_mem (d : BitVec 7) (le : BitVec 6) (em : BitVec 4) (xa : BitVec 3) (r : Run) (s : State) :
    (cellVld d le em xa r s).mem = s.mem := by simp [cellVld]

@[simp] theorem cellVldStraight_mem (d : BitVec 7) (em : BitVec 4) (xa : BitVec 3) (r : Run) (s : State) :
    (cellVldStraight d em xa r s).mem = s.mem := by simp [cellVldStraight]

@[simp] theorem cellVst_mem (v : BitVec 7) (le : BitVec 6) (em : BitVec 4) (xa : BitVec 3) (r : Run) (s : State) :
    (cellVst v le em xa r s).mem = s.mem := by simp [cellVst]

@[simp] theorem cellVstStraight_mem (v : BitVec 7) (em : BitVec 4) (xa : BitVec 3) (r : Run) (s : State) :
    (cellVstStraight v em xa r s).mem = s.mem := by simp [cellVstStraight]

@[simp] theorem cellVldx_mem (d : BitVec 7) (xe : BitVec 5) (em : BitVec 4) (xa : BitVec 3) (r : Run) (s : State) :
    (cellVldx d xe em xa r s).mem = s.mem := by simp [cellVldx]

@[simp] theorem cellVstx_mem (v : BitVec 7) (xe : BitVec 5) (em : BitVec 4) (xa : BitVec 3) (r : Run) (s : State) :
    (cellVstx v xe em xa r s).mem = s.mem := by simp [cellVstx]

@[simp] theorem cellVldDec_mem (d : BitVec 7) (xa : BitVec 3) (r : Run) (s : State) :
    (cellVldDec d xa r s).mem = s.mem := by simp [cellVldDec]

@[simp] theorem cellVstEnc_mem (v : BitVec 7) (xa : BitVec 3) (r : Run) (s : State) :
    (cellVstEnc v xa r s).mem = s.mem := by
  unfold cellVstEnc; (try dsimp only); repeat' (first | with_reducible rfl | assumption | (simp; done) | (simp [*]; done) | (intro _) | rw [foldl_mem] | (apply issue_mem) | (apply issueBoth_mem) | (apply issueCell_mem) | split | simp)

@[simp] theorem cellBcopy_mem (rs : Bool) (rl : BitVec 6) (ws : Bool) (wl : BitVec 6) (xd xs : BitVec 3) (r : Run) (s : State) :
    (cellBcopy rs rl ws wl xd xs r s).mem = s.mem := by
  unfold cellBcopy
  extract_lets a b le we
  clear_value a b le we
  split
  · simp
  · split
    · extract_lets lanes ls
      clear_value lanes ls
      split
      · simp
      · rename_i scales _ _ outs words wen t u _
        have h1 : t.mem = s.mem := by simp [t]
        have h2 : u.mem = s.mem := by
          rw [← h1]; exact foldl_mem _ (by intro v e; split <;> simp) _ _
        clear_value u
        split <;> simp [h2]
    · simp

@[simp] theorem cellVperm_mem (d : BitVec 7) (a : BitVec 7) (le : BitVec 6) (r : Run) (s : State) :
    (cellVperm d a le r s).mem = s.mem := by unfold cellVperm; repeat' (first | (simp; done) | split)

@[simp] theorem Run.landLast_mem (r : Run) (entry lat num : Nat) (l : Last) (s : State) :
    (Run.landLast r entry lat num l s).mem = s.mem := (rfl)

@[simp] theorem cellLlast_mem (le : BitVec 6) (n : BitVec 14) (r : Run) (s : State) :
    (cellLlast le n r s).mem = s.mem := (rfl)

@[simp] theorem cellEsend_mem (dm : BitVec 4) (a : BitVec 7) (lg : BitVec 5) (r : Run) (s : State) :
    (cellEsend dm a lg r s).mem = s.mem := by
  unfold cellEsend; (try dsimp only); repeat' (first | with_reducible rfl | assumption | (simp; done) | (simp [*]; done) | (intro _) | rw [foldl_mem] | (apply issue_mem) | (apply issueBoth_mem) | (apply issueCell_mem) | split | simp)

@[simp] theorem cellErecv_mem (d : BitVec 7) (dir : BitVec 2) (lg : BitVec 5) (r : Run) (s : State) :
    (cellErecv d dir lg r s).mem = s.mem := (rfl)

@[simp] theorem cellHalo_mem (dm : BitVec 4) (xa : BitVec 3) (r : Run) (s : State) :
    (cellHalo dm xa r s).mem = s.mem := by simp [cellHalo]

@[simp] theorem haloSend_mem (lay : Nat) (k : Nat) (h : Halo) (s : State) :
    (haloSend lay k h s).mem = s.mem := by
  unfold haloSend; (try dsimp only); repeat' (first | with_reducible rfl | assumption | (simp; done) | (simp [*]; done) | (intro _) | rw [foldl_mem] | (apply issue_mem) | (apply issueBoth_mem) | (apply issueCell_mem) | split | simp)

@[simp] theorem landHalo_mem (lay : Nat) (k : Nat) (dir : Nat) (i : Nat) (p : Pend) (s : State) :
    (landHalo lay k dir i p s).mem = s.mem := by unfold landHalo; repeat' (first | (simp; done) | split)

@[simp] theorem execVld_mem (d : BitVec 7) (le : BitVec 6) (em : BitVec 4) (xa : BitVec 3) (s : State) {m : List Host.Cell} (hm : s.mem = m) :
    MemIs m (execVld d le em xa s) := hm ▸ issueCell_mem _ _ _ (fun _ _ => by simp)

@[simp] theorem execVldStraight_mem (d : BitVec 7) (em : BitVec 4) (xa : BitVec 3) (s : State) {m : List Host.Cell} (hm : s.mem = m) :
    MemIs m (execVldStraight d em xa s) := hm ▸ issueCell_mem _ _ _ (fun _ _ => by simp)

@[simp] theorem execVldDec_mem (d : BitVec 7) (xa : BitVec 3) (s : State) {m : List Host.Cell} (hm : s.mem = m) :
    MemIs m (execVldDec d xa s) := hm ▸ issueCell_mem _ _ _ (fun _ _ => by simp)

@[simp] theorem execVst_mem (d : BitVec 7) (le : BitVec 6) (em : BitVec 4) (xa : BitVec 3) (s : State) {m : List Host.Cell} (hm : s.mem = m) :
    MemIs m (execVst d le em xa s) := hm ▸ issueCell_mem _ _ _ (fun _ _ => by simp)

@[simp] theorem execVstStraight_mem (d : BitVec 7) (em : BitVec 4) (xa : BitVec 3) (s : State) {m : List Host.Cell} (hm : s.mem = m) :
    MemIs m (execVstStraight d em xa s) := hm ▸ issueCell_mem _ _ _ (fun _ _ => by simp)

@[simp] theorem execVstEnc_mem (d : BitVec 7) (xa : BitVec 3) (s : State) {m : List Host.Cell} (hm : s.mem = m) :
    MemIs m (execVstEnc d xa s) := hm ▸ issueCell_mem _ _ _ (fun _ _ => by simp)

@[simp] theorem execVldx_mem (d : BitVec 7) (xe : BitVec 5) (em : BitVec 4) (xa : BitVec 3) (s : State) {m : List Host.Cell} (hm : s.mem = m) :
    MemIs m (execVldx d xe em xa s) := hm ▸ issueCell_mem _ _ _ (fun _ _ => by simp)

@[simp] theorem execVstx_mem (d : BitVec 7) (xe : BitVec 5) (em : BitVec 4) (xa : BitVec 3) (s : State) {m : List Host.Cell} (hm : s.mem = m) :
    MemIs m (execVstx d xe em xa s) := hm ▸ issueCell_mem _ _ _ (fun _ _ => by simp)

@[simp] theorem execBcopy_mem (rs : Bool) (rl : BitVec 6) (ws : Bool) (wl : BitVec 6) (xd : BitVec 3) (xs : BitVec 3) (s : State) {m : List Host.Cell} (hm : s.mem = m) :
    MemIs m (execBcopy rs rl ws wl xd xs s) := hm ▸ issueCell_mem _ _ _ (fun _ _ => by simp)

@[simp] theorem execVperm_mem (d : BitVec 7) (a : BitVec 7) (le : BitVec 6) (s : State) {m : List Host.Cell} (hm : s.mem = m) :
    MemIs m (execVperm d a le s) := hm ▸ issueCell_mem _ _ _ (fun _ _ => by simp)

@[simp] theorem execLlast_mem (le : BitVec 6) (n : BitVec 14) (s : State) {m : List Host.Cell} (hm : s.mem = m) :
    MemIs m (execLlast le n s) := hm ▸ issueCell_mem _ _ _ (fun _ _ => by simp)

@[simp] theorem execEsend_mem (dm : BitVec 4) (a : BitVec 7) (lg : BitVec 5) (s : State) {m : List Host.Cell} (hm : s.mem = m) :
    MemIs m (execEsend dm a lg s) := hm ▸ issueCell_mem _ _ _ (fun _ _ => by simp)

@[simp] theorem execErecv_mem (d : BitVec 7) (dir : BitVec 2) (lg : BitVec 5) (s : State) {m : List Host.Cell} (hm : s.mem = m) :
    MemIs m (execErecv d dir lg s) := hm ▸ issueCell_mem _ _ _ (fun _ _ => by simp)

@[simp] theorem execHalo_mem (dm : BitVec 4) (xa : BitVec 3) (s : State) {m : List Host.Cell} (hm : s.mem = m) :
    MemIs m (execHalo dm xa s) := hm ▸ issueCell_mem _ _ _ (fun _ _ => by simp)

/-! ### Scan -/

@[simp] theorem cellScan_mem (d : BitVec 7) (a : BitVec 7) (lr : BitVec 3) (op : BitVec 2) (ty : BitVec 2) (r : Run) (s : State) :
    (cellScan d a lr op ty r s).mem = s.mem := (rfl)

@[simp] theorem cellSegscan_mem (d : BitVec 7) (a : BitVec 7) (hp : BitVec 3) (op : BitVec 2) (ty : BitVec 2) (r : Run) (s : State) :
    (cellSegscan d a hp op ty r s).mem = s.mem := (rfl)

@[simp] theorem cellReduce_mem (d : BitVec 7) (a : BitVec 7) (lr : BitVec 3) (op : BitVec 2) (ty : BitVec 2) (r : Run) (s : State) :
    (cellReduce d a lr op ty r s).mem = s.mem := (rfl)

@[simp] theorem cellTopk_mem (d : BitVec 7) (a : BitVec 7) (xk : BitVec 4) (dir : Bool) (ty : BitVec 2) (r : Run) (s : State) :
    (cellTopk d a xk dir ty r s).mem = s.mem := (rfl)

@[simp] theorem cellSort_mem (d : BitVec 7) (a : BitVec 7) (g : BitVec 3) (dir : Bool) (ty : BitVec 2) (r : Run) (s : State) :
    (cellSort d a g dir ty r s).mem = s.mem := (rfl)

@[simp] theorem cellCompact_mem (d : BitVec 7) (a : BitVec 7) (xc : BitVec 5) (r : Run) (s : State) :
    (cellCompact d a xc r s).mem = s.mem := (rfl)

@[simp] theorem cellHist_mem (d : BitVec 7) (a : BitVec 7) (acc : Bool) (r : Run) (s : State) :
    (cellHist d a acc r s).mem = s.mem := by simp [cellHist]

@[simp] theorem cellAwl_mem (scatter : Bool) (le : BitVec 6) (a : BitVec 7) (pen : Bool) (pp : BitVec 4) (r : Run) (s : State) :
    (cellAwl scatter le a pen pp r s).mem = s.mem := by simp [cellAwl]

@[simp] theorem cellAwlGather_mem (le : BitVec 6) (a : BitVec 7) (pen : Bool) (pp : BitVec 4) (r : Run) (s : State) :
    (cellAwlGather le a pen pp r s).mem = s.mem := by simp [cellAwlGather]

@[simp] theorem cellAwlScatter_mem (le : BitVec 6) (a : BitVec 7) (pen : Bool) (pp : BitVec 4) (r : Run) (s : State) :
    (cellAwlScatter le a pen pp r s).mem = s.mem := by simp [cellAwlScatter]

@[simp] theorem execScan_mem (d : BitVec 7) (a : BitVec 7) (lr : BitVec 3) (op : BitVec 2) (ty : BitVec 2) (s : State) {w0 : List Host.Cell} (hm : s.mem = w0) :
    MemIs w0 (execScan d a lr op ty s) := hm ▸ issueCell_mem _ _ _ (fun _ _ => by simp)

@[simp] theorem execSegscan_mem (d : BitVec 7) (a : BitVec 7) (hp : BitVec 3) (op : BitVec 2) (ty : BitVec 2) (s : State) {w0 : List Host.Cell} (hm : s.mem = w0) :
    MemIs w0 (execSegscan d a hp op ty s) := hm ▸ issueCell_mem _ _ _ (fun _ _ => by simp)

@[simp] theorem execReduce_mem (d : BitVec 7) (a : BitVec 7) (lr : BitVec 3) (op : BitVec 2) (ty : BitVec 2) (s : State) {w0 : List Host.Cell} (hm : s.mem = w0) :
    MemIs w0 (execReduce d a lr op ty s) := hm ▸ issueCell_mem _ _ _ (fun _ _ => by simp)

@[simp] theorem execTopk_mem (d : BitVec 7) (a : BitVec 7) (xk : BitVec 4) (dir : Bool) (ty : BitVec 2) (s : State) {w0 : List Host.Cell} (hm : s.mem = w0) :
    MemIs w0 (execTopk d a xk dir ty s) := hm ▸ issueCell_mem _ _ _ (fun _ _ => by simp)

@[simp] theorem execSort_mem (d : BitVec 7) (a : BitVec 7) (g : BitVec 3) (dir : Bool) (ty : BitVec 2) (s : State) {w0 : List Host.Cell} (hm : s.mem = w0) :
    MemIs w0 (execSort d a g dir ty s) := hm ▸ issueCell_mem _ _ _ (fun _ _ => by simp)

@[simp] theorem execCompact_mem (d : BitVec 7) (a : BitVec 7) (xc : BitVec 5) (s : State) {w0 : List Host.Cell} (hm : s.mem = w0) :
    MemIs w0 (execCompact d a xc s) := hm ▸ issueCell_mem _ _ _ (fun _ _ => by simp)

@[simp] theorem execHist_mem (d : BitVec 7) (a : BitVec 7) (acc : Bool) (s : State) {w0 : List Host.Cell} (hm : s.mem = w0) :
    MemIs w0 (execHist d a acc s) := hm ▸ issueCell_mem _ _ _ (fun _ _ => by simp)

@[simp] theorem execAwlGather_mem (le : BitVec 6) (a : BitVec 7) (pen : Bool) (pp : BitVec 4) (s : State) {w0 : List Host.Cell} (hm : s.mem = w0) :
    MemIs w0 (execAwlGather le a pen pp s) := hm ▸ issueCell_mem _ _ _ (fun _ _ => by simp)

@[simp] theorem execAwlScatter_mem (le : BitVec 6) (a : BitVec 7) (pen : Bool) (pp : BitVec 4) (s : State) {w0 : List Host.Cell} (hm : s.mem = w0) :
    MemIs w0 (execAwlScatter le a pen pp s) := hm ▸ issueCell_mem _ _ _ (fun _ _ => by simp)

/-! ### Matrix -/

@[simp] theorem cellMpar_mem (m : BitVec 7) (a : BitVec 7) (r : Run) (s : State) :
    (cellMpar m a r s).mem = s.mem := (rfl)

@[simp] theorem cellMsel_mem (pl : BitVec 2) (r : Run) (s : State) :
    (cellMsel pl r s).mem = s.mem := (rfl)

theorem loadLine_mem (entry : Option Nat) (xa : BitVec 3) (limit : Nat) (k : Nat → Lanes → State → State) (r : Run)
    (s : State) (h : ∀ a l t, (k a l t).mem = t.mem) : (loadLine entry xa limit k r s).mem = s.mem := by
  unfold loadLine; dsimp only; repeat' (first | (simp [h]; done) | split)

@[simp] theorem cellMldw_mem (pl : BitVec 2) (fmt : BitVec 3) (str : Bool) (le : BitVec 6) (xa : BitVec 3) (r : Run) (s : State) :
    (cellMldw pl fmt str le xa r s).mem = s.mem := by
  unfold cellMldw; (try dsimp only); repeat' (first | with_reducible rfl | assumption | (simp; done) | (simp [*]; done) | (intro _) | rw [foldl_mem] | (apply issue_mem) | (apply issueBoth_mem) | (apply issueCell_mem) | rw [loadLine_mem] | split | simp)

@[simp] theorem cellMldwScl_mem (pl : BitVec 2) (str : Bool) (le : BitVec 6) (xa : BitVec 3) (r : Run) (s : State) :
    (cellMldwScl pl str le xa r s).mem = s.mem := by
  unfold cellMldwScl; (try dsimp only); repeat' (first | with_reducible rfl | assumption | (simp; done) | (simp [*]; done) | (intro _) | rw [foldl_mem] | (apply issue_mem) | (apply issueBoth_mem) | (apply issueCell_mem) | rw [loadLine_mem] | split | simp)

@[simp] theorem cellMcall_mem (n : BitVec 5) (bc : BitVec 14) (r : Run) (s : State) :
    (cellMcall n bc r s).mem = s.mem := (rfl)

@[simp] theorem State.setRoutine_mem (s : State) (q : Routine) :
    (State.setRoutine s q).mem = s.mem := (rfl)

@[simp] theorem routineFault_mem (q : Routine) (cause : Cause) (sub : Nat) (s : State) :
    (routineFault q cause sub s).mem = s.mem := by simp [routineFault]

@[simp] theorem noteUncorr_mem (lay : Nat) (s : State) : (noteUncorr lay s).mem = s.mem := (rfl)

@[simp] theorem weightFault_mem (q : Routine) (row : Nat) (s : State) : (weightFault q row s).mem = s.mem := by
  unfold weightFault; (try dsimp only); repeat' (first | with_reducible rfl | assumption | (simp; done) | (simp [*]; done) | (intro _) | rw [foldl_mem] | (apply issue_mem) | (apply issueBoth_mem) | (apply issueCell_mem) | split | simp)

theorem microWord_mem (endm : Bool) (k : Routine → State → State) (s : State) (h : ∀ q t, (k q t).mem = t.mem) :
    MemIs s.mem (microWord endm k s) := by
  unfold microWord; repeat' (first | (simp [h]; done) | split)

@[simp] theorem execEndm_mem (s : State) {w0 : List Host.Cell} (hm : s.mem = w0) :
    MemIs w0 (execEndm s) := by
  subst hm; unfold execEndm; (try dsimp only); repeat' (first | with_reducible rfl | assumption | (simp; done) | (simp [*]; done) | (intro _) | rw [foldl_mem] | (apply issue_mem) | (apply issueBoth_mem) | (apply issueCell_mem) | (apply microWord_mem) | split | simp)

@[simp] theorem rowinConflicts_mem (s : State) :
    (rowinConflicts s).mem = s.mem := by
  unfold rowinConflicts; (try dsimp only); repeat' (first | with_reducible rfl | assumption | (simp; done) | (simp [*]; done) | (intro _) | rw [foldl_mem] | (apply issue_mem) | (apply issueBoth_mem) | (apply issueCell_mem) | split | simp)

@[simp] theorem execRowin_mem (s : State) {w0 : List Host.Cell} (hm : s.mem = w0) :
    MemIs w0 (execRowin s) := by
  subst hm; unfold execRowin; (try dsimp only); repeat' (first | with_reducible rfl | assumption | (simp; done) | (simp [*]; done) | (intro _) | rw [foldl_mem] | (apply issue_mem) | (apply issueBoth_mem) | (apply issueCell_mem) | (apply microWord_mem) | split | simp)

@[simp] theorem execStep_mem (s : State) {w0 : List Host.Cell} (hm : s.mem = w0) :
    MemIs w0 (execStep s) := by
  subst hm; unfold execStep; (try dsimp only); repeat' (first | with_reducible rfl | assumption | (simp; done) | (simp [*]; done) | (intro _) | rw [foldl_mem] | (apply issue_mem) | (apply issueBoth_mem) | (apply issueCell_mem) | (apply microWord_mem) | split | simp)

@[simp] theorem execAccum_mem (lag : Bool) (s : State) {w0 : List Host.Cell} (hm : s.mem = w0) :
    MemIs w0 (execAccum lag s) := by
  subst hm; unfold execAccum; (try dsimp only); repeat' (first | with_reducible rfl | assumption | (simp; done) | (simp [*]; done) | (intro _) | rw [foldl_mem] | (apply issue_mem) | (apply issueBoth_mem) | (apply issueCell_mem) | (apply microWord_mem) | split | simp)

@[simp] theorem execPlane_mem (p : BitVec 2) (s : State) {w0 : List Host.Cell} (hm : s.mem = w0) :
    MemIs w0 (execPlane p s) := by
  subst hm; unfold execPlane; (try dsimp only); repeat' (first | with_reducible rfl | assumption | (simp; done) | (simp [*]; done) | (intro _) | rw [foldl_mem] | (apply issue_mem) | (apply issueBoth_mem) | (apply issueCell_mem) | (apply microWord_mem) | split | simp)

@[simp] theorem execLoopm_mem (len : BitVec 4) (csrc : BitVec 2) (n : BitVec 24) (s : State) {w0 : List Host.Cell} (hm : s.mem = w0) :
    MemIs w0 (execLoopm len csrc n s) := by
  subst hm; unfold execLoopm; (try dsimp only); repeat' (first | with_reducible rfl | assumption | (simp; done) | (simp [*]; done) | (intro _) | rw [foldl_mem] | (apply issue_mem) | (apply issueBoth_mem) | (apply issueCell_mem) | (apply microWord_mem) | split | simp)

@[simp] theorem execWaitin_mem (n : BitVec 12) (s : State) {w0 : List Host.Cell} (hm : s.mem = w0) :
    MemIs w0 (execWaitin n s) := by
  subst hm; unfold execWaitin; (try dsimp only); repeat' (first | with_reducible rfl | assumption | (simp; done) | (simp [*]; done) | (intro _) | rw [foldl_mem] | (apply issue_mem) | (apply issueBoth_mem) | (apply issueCell_mem) | (apply microWord_mem) | split | simp)

@[simp] theorem execRstc_mem (s : State) {w0 : List Host.Cell} (hm : s.mem = w0) :
    MemIs w0 (execRstc s) := by
  subst hm; unfold execRstc; (try dsimp only); repeat' (first | with_reducible rfl | assumption | (simp; done) | (simp [*]; done) | (intro _) | rw [foldl_mem] | (apply issue_mem) | (apply issueBoth_mem) | (apply issueCell_mem) | (apply microWord_mem) | split | simp)

@[simp] theorem execAbas_mem (d : BitVec 9) (s : State) {w0 : List Host.Cell} (hm : s.mem = w0) :
    MemIs w0 (execAbas d s) := by
  subst hm; unfold execAbas; (try dsimp only); repeat' (first | with_reducible rfl | assumption | (simp; done) | (simp [*]; done) | (intro _) | rw [foldl_mem] | (apply issue_mem) | (apply issueBoth_mem) | (apply issueCell_mem) | (apply microWord_mem) | split | simp)

@[simp] theorem execTadd_mem (d : BitVec 7) (s : State) {w0 : List Host.Cell} (hm : s.mem = w0) :
    MemIs w0 (execTadd d s) := by
  subst hm; unfold execTadd; (try dsimp only); repeat' (first | with_reducible rfl | assumption | (simp; done) | (simp [*]; done) | (intro _) | rw [foldl_mem] | (apply issue_mem) | (apply issueBoth_mem) | (apply issueCell_mem) | (apply microWord_mem) | split | simp)

@[simp] theorem execMpar_mem (m : BitVec 7) (a : BitVec 7) (s : State) {w0 : List Host.Cell} (hm : s.mem = w0) :
    MemIs w0 (execMpar m a s) := hm ▸ issueCell_mem _ _ _ (fun _ _ => by simp)

@[simp] theorem execMcall_mem (n : BitVec 5) (bc : BitVec 14) (s : State) {w0 : List Host.Cell} (hm : s.mem = w0) :
    MemIs w0 (execMcall n bc s) := hm ▸ issueBoth_mem _ _ _ _ (fun _ _ => by simp) (fun _ _ => by simp)

@[simp] theorem execMldw_mem (pl : BitVec 2) (fmt : BitVec 3) (str : Bool) (le : BitVec 6) (xa : BitVec 3) (s : State) {w0 : List Host.Cell} (hm : s.mem = w0) :
    MemIs w0 (execMldw pl fmt str le xa s) := hm ▸ issueCell_mem _ _ _ (fun _ _ => by simp)

@[simp] theorem execMldwScl_mem (pl : BitVec 2) (str : Bool) (le : BitVec 6) (xa : BitVec 3) (s : State) {w0 : List Host.Cell} (hm : s.mem = w0) :
    MemIs w0 (execMldwScl pl str le xa s) := hm ▸ issueCell_mem _ _ _ (fun _ _ => by simp)

@[simp] theorem execMsel_mem (pl : BitVec 2) (s : State) {w0 : List Host.Cell} (hm : s.mem = w0) :
    MemIs w0 (execMsel pl s) := hm ▸ issueCell_mem _ _ _ (fun _ _ => by simp)

/-! ### Acc -/

@[simp] theorem amovFrom_mem (clr : Bool) (d : BitVec 7) (t : BitVec 6) (xen : Bool) (xt : BitVec 3) (r : Run) (s : State) :
    (amovFrom clr d t xen xt r s).mem = s.mem := by unfold amovFrom; repeat' (first | (simp; done) | split)

@[simp] theorem cellAmov_mem (d : BitVec 7) (t : BitVec 6) (xen : Bool) (xt : BitVec 3) (r : Run) (s : State) :
    (cellAmov d t xen xt r s).mem = s.mem := by simp [cellAmov]

@[simp] theorem cellAmovClr_mem (d : BitVec 7) (t : BitVec 6) (xen : Bool) (xt : BitVec 3) (r : Run) (s : State) :
    (cellAmovClr d t xen xt r s).mem = s.mem := by simp [cellAmovClr]

@[simp] theorem cellAmovTo_mem (d : BitVec 7) (t : BitVec 6) (xen : Bool) (xt : BitVec 3) (r : Run) (s : State) :
    (cellAmovTo d t xen xt r s).mem = s.mem := by unfold cellAmovTo; repeat' (first | (simp; done) | split)

@[simp] theorem cellAclr_mem (t : BitVec 6) (cnt : BitVec 6) (r : Run) (s : State) :
    (cellAclr t cnt r s).mem = s.mem := by
  unfold cellAclr; (try dsimp only); repeat' (first | with_reducible rfl | assumption | (simp; done) | (simp [*]; done) | (intro _) | rw [foldl_mem] | (apply issue_mem) | (apply issueBoth_mem) | (apply issueCell_mem) | split | simp)

@[simp] theorem cellAtopk_mem (wstr : Bool) (le : BitVec 6) (t : BitVec 6) (xk : BitVec 4) (xd : BitVec 3) (r : Run) (s : State) :
    (cellAtopk wstr le t xk xd r s).mem = s.mem := by
  unfold cellAtopk; (try dsimp only); repeat' (first | with_reducible rfl | assumption | (simp; done) | (simp [*]; done) | (intro _) | rw [foldl_mem] | (apply issue_mem) | (apply issueBoth_mem) | (apply issueCell_mem) | split | simp)

@[simp] theorem execAmov_mem (d : BitVec 7) (t : BitVec 6) (xen : Bool) (xt : BitVec 3) (s : State) {w0 : List Host.Cell} (hm : s.mem = w0) :
    MemIs w0 (execAmov d t xen xt s) := hm ▸ issueCell_mem _ _ _ (fun _ _ => by simp)

@[simp] theorem execAmovClr_mem (d : BitVec 7) (t : BitVec 6) (xen : Bool) (xt : BitVec 3) (s : State) {w0 : List Host.Cell} (hm : s.mem = w0) :
    MemIs w0 (execAmovClr d t xen xt s) := hm ▸ issueCell_mem _ _ _ (fun _ _ => by simp)

@[simp] theorem execAmovTo_mem (d : BitVec 7) (t : BitVec 6) (xen : Bool) (xt : BitVec 3) (s : State) {w0 : List Host.Cell} (hm : s.mem = w0) :
    MemIs w0 (execAmovTo d t xen xt s) := hm ▸ issueCell_mem _ _ _ (fun _ _ => by simp)

@[simp] theorem execAclr_mem (t : BitVec 6) (cnt : BitVec 6) (s : State) {w0 : List Host.Cell} (hm : s.mem = w0) :
    MemIs w0 (execAclr t cnt s) := hm ▸ issueCell_mem _ _ _ (fun _ _ => by simp)

@[simp] theorem execAtopk_mem (wstr : Bool) (le : BitVec 6) (t : BitVec 6) (xk : BitVec 4) (xd : BitVec 3) (s : State) {w0 : List Host.Cell} (hm : s.mem = w0) :
    MemIs w0 (execAtopk wstr le t xk xd s) := hm ▸ issueCell_mem _ _ _ (fun _ _ => by simp)

/-! ### Copy -/

theorem copyCell_mem (xa : BitVec 3) (xm : BitVec 5) (ln : BitVec 2) (f : Nat → Nat → Nat → State → State) (r : Run)
    (s : State) (h : ∀ a b c t, (f a b c t).mem = t.mem) : (copyCell xa xm ln f r s).mem = s.mem := by
  unfold copyCell; dsimp only; split
  · simp
  · exact foldl_mem _ (fun _ _ => h _ _ _ _) _ _

@[simp] theorem sendLoad_mem (due : Option Nat) (ctr : Option Nat) (r : Run) (k : Nat) (row : Nat) (off : Nat) (s : State) :
    (sendLoad due ctr r k row off s).mem = s.mem := (rfl)

@[simp] theorem holdStore_mem (nt : Bool) (ctr : Option Nat) (r : Run) (k : Nat) (row : Nat) (off : Nat) (s : State) :
    (holdStore nt ctr r k row off s).mem = s.mem := (rfl)

@[simp] theorem cellTld_mem (_g : BitVec 4) (xa : BitVec 3) (xm : BitVec 5) (ln : BitVec 2) (lat : BitVec 7) (r : Run) (s : State) :
    (cellTld _g xa xm ln lat r s).mem = s.mem := by
  unfold cellTld; (try dsimp only); repeat' (first | with_reducible rfl | assumption | (simp; done) | (simp [*]; done) | (intro _) | rw [foldl_mem] | (apply issue_mem) | (apply issueBoth_mem) | (apply issueCell_mem) | rw [copyCell_mem] | split | simp)

@[simp] theorem cellTst_mem (_g : BitVec 4) (xa : BitVec 3) (xm : BitVec 5) (ln : BitVec 2) (r : Run) (s : State) :
    (cellTst _g xa xm ln r s).mem = s.mem := by
  unfold cellTst; (try dsimp only); repeat' (first | with_reducible rfl | assumption | (simp; done) | (simp [*]; done) | (intro _) | rw [foldl_mem] | (apply issue_mem) | (apply issueBoth_mem) | (apply issueCell_mem) | rw [copyCell_mem] | split | simp)

@[simp] theorem cellAld_mem (_g : BitVec 4) (xa : BitVec 3) (xm : BitVec 5) (ln : BitVec 2) (n : BitVec 5) (r : Run) (s : State) :
    (cellAld _g xa xm ln n r s).mem = s.mem := by
  unfold cellAld; (try dsimp only); repeat' (first | with_reducible rfl | assumption | (simp; done) | (simp [*]; done) | (intro _) | rw [foldl_mem] | (apply issue_mem) | (apply issueBoth_mem) | (apply issueCell_mem) | rw [copyCell_mem] | split | simp)

@[simp] theorem cellAst_mem (_g : BitVec 4) (xa : BitVec 3) (xm : BitVec 5) (ln : BitVec 2) (n : BitVec 5) (r : Run) (s : State) :
    (cellAst _g xa xm ln n r s).mem = s.mem := by
  unfold cellAst; (try dsimp only); repeat' (first | with_reducible rfl | assumption | (simp; done) | (simp [*]; done) | (intro _) | rw [foldl_mem] | (apply issue_mem) | (apply issueBoth_mem) | (apply issueCell_mem) | rw [copyCell_mem] | split | simp)

@[simp] theorem cellNtst_mem (_g : BitVec 4) (xa : BitVec 3) (xm : BitVec 5) (ln : BitVec 2) (r : Run) (s : State) :
    (cellNtst _g xa xm ln r s).mem = s.mem := by
  unfold cellNtst; (try dsimp only); repeat' (first | with_reducible rfl | assumption | (simp; done) | (simp [*]; done) | (intro _) | rw [foldl_mem] | (apply issue_mem) | (apply issueBoth_mem) | (apply issueCell_mem) | rw [copyCell_mem] | split | simp)

@[simp] theorem addOut_mem (eff : Nat) (n : Nat) (s : State) :
    (addOut eff n s).mem = s.mem := (rfl)

@[simp] theorem execTld_mem (g : BitVec 4) (xa : BitVec 3) (xm : BitVec 5) (ln : BitVec 2) (lat : BitVec 7) (s : State) {w0 : List Host.Cell} (hm : s.mem = w0) :
    MemIs w0 (execTld g xa xm ln lat s) := hm ▸ issueCell_mem _ _ _ (fun _ _ => by simp)

@[simp] theorem execTst_mem (g : BitVec 4) (xa : BitVec 3) (xm : BitVec 5) (ln : BitVec 2) (s : State) {w0 : List Host.Cell} (hm : s.mem = w0) :
    MemIs w0 (execTst g xa xm ln s) := hm ▸ issueBoth_mem _ _ _ _ (fun _ _ => by simp) (fun _ _ => by simp)

@[simp] theorem execAld_mem (g : BitVec 4) (xa : BitVec 3) (xm : BitVec 5) (ln : BitVec 2) (n : BitVec 5) (s : State) {w0 : List Host.Cell} (hm : s.mem = w0) :
    MemIs w0 (execAld g xa xm ln n s) := hm ▸ issueBoth_mem _ _ _ _ (fun _ _ => by simp) (fun _ _ => by simp)

@[simp] theorem execAst_mem (g : BitVec 4) (xa : BitVec 3) (xm : BitVec 5) (ln : BitVec 2) (n : BitVec 5) (s : State) {w0 : List Host.Cell} (hm : s.mem = w0) :
    MemIs w0 (execAst g xa xm ln n s) := hm ▸ issueBoth_mem _ _ _ _ (fun _ _ => by simp) (fun _ _ => by simp)

@[simp] theorem execNtst_mem (g : BitVec 4) (xa : BitVec 3) (xm : BitVec 5) (ln : BitVec 2) (s : State) {w0 : List Host.Cell} (hm : s.mem = w0) :
    MemIs w0 (execNtst g xa xm ln s) := hm ▸ issueBoth_mem _ _ _ _ (fun _ _ => by simp) (fun _ _ => by simp)

@[simp] theorem execDrain_mem (n : BitVec 5) (s : State) {w0 : List Host.Cell} (hm : s.mem = w0) :
    MemIs w0 (execDrain n s) := hm ▸ issue_mem _ _ _ (fun _ => by simp)

@[simp] theorem atomicCell_mem (op : Nat) (ty : Nat) (cas : Bool) (returns : Bool) (ctr : Option Nat) (xm : BitVec 3) (d : BitVec 7) (r : Run) (s : State) :
    (atomicCell op ty cas returns ctr xm d r s).mem = s.mem := by simp [atomicCell]

@[simp] theorem cellAmo_mem (_g : BitVec 4) (xm : BitVec 3) (d : BitVec 7) (op : BitVec 3) (ty : BitVec 2) (n : BitVec 2) (r : Run) (s : State) :
    (cellAmo _g xm d op ty n r s).mem = s.mem := by simp [cellAmo]

@[simp] theorem cellCas_mem (_g : BitVec 4) (xm : BitVec 3) (d : BitVec 7) (n : BitVec 2) (r : Run) (s : State) :
    (cellCas _g xm d n r s).mem = s.mem := by simp [cellCas]

@[simp] theorem cellRed_mem (_g : BitVec 4) (xm : BitVec 3) (d : BitVec 7) (op : BitVec 3) (ty : BitVec 2) (r : Run) (s : State) :
    (cellRed _g xm d op ty r s).mem = s.mem := by simp [cellRed]

@[simp] theorem execAmo_mem (g : BitVec 4) (xm : BitVec 3) (d : BitVec 7) (op : BitVec 3) (ty : BitVec 2) (n : BitVec 2) (s : State) {w0 : List Host.Cell} (hm : s.mem = w0) :
    MemIs w0 (execAmo g xm d op ty n s) := hm ▸ issueBoth_mem _ _ _ _ (fun _ _ => by simp) (fun _ _ => by simp)

@[simp] theorem execCas_mem (g : BitVec 4) (xm : BitVec 3) (d : BitVec 7) (n : BitVec 2) (s : State) {w0 : List Host.Cell} (hm : s.mem = w0) :
    MemIs w0 (execCas g xm d n s) := hm ▸ issueBoth_mem _ _ _ _ (fun _ _ => by simp) (fun _ _ => by simp)

@[simp] theorem execRed_mem (g : BitVec 4) (xm : BitVec 3) (d : BitVec 7) (op : BitVec 3) (ty : BitVec 2) (s : State) {w0 : List Host.Cell} (hm : s.mem = w0) :
    MemIs w0 (execRed g xm d op ty s) := hm ▸ issueBoth_mem _ _ _ _ (fun _ _ => by simp) (fun _ _ => by simp)

@[simp] theorem cellSbst_mem (v : BitVec 7) (lg : BitVec 5) (cnt : BitVec 3) (xo : BitVec 3) (r : Run) (s : State) :
    (cellSbst v lg cnt xo r s).mem = s.mem := by simp [cellSbst]

@[simp] theorem cellSbld_mem (v : BitVec 7) (lg : BitVec 5) (cnt : BitVec 3) (xo : BitVec 3) (r : Run) (s : State) :
    (cellSbld v lg cnt xo r s).mem = s.mem := by simp [cellSbld]

@[simp] theorem execSbst_mem (v : BitVec 7) (lg : BitVec 5) (cnt : BitVec 3) (xo : BitVec 3) (s : State) {w0 : List Host.Cell} (hm : s.mem = w0) :
    MemIs w0 (execSbst v lg cnt xo s) := hm ▸ issueBoth_mem _ _ _ _ (fun _ _ => by simp) (fun _ _ => by simp)

@[simp] theorem execSbld_mem (v : BitVec 7) (lg : BitVec 5) (cnt : BitVec 3) (xo : BitVec 3) (s : State) {w0 : List Host.Cell} (hm : s.mem = w0) :
    MemIs w0 (execSbld v lg cnt xo s) := hm ▸ issueCell_mem _ _ _ (fun _ _ => by simp)

/-! ### Release -/

@[simp] theorem arriveFlag_mem (lay : Nat) (cls : Nat) (at_ : Nat) (set : Bool) (idx : BitVec 9) (v : DWord) (s : State) :
    (arriveFlag lay cls at_ set idx v s).mem = s.mem := (rfl)

@[simp] theorem sendFlag_mem (lay : Nat) (set : Bool) (homes : List (BitVec 21)) (v : DWord) (s : State) :
    (sendFlag lay set homes v s).mem = s.mem := by
  unfold sendFlag; (try dsimp only); repeat' (first | with_reducible rfl | assumption | (simp; done) | (simp [*]; done) | (intro _) | rw [foldl_mem] | (apply issue_mem) | (apply issueBoth_mem) | (apply issueCell_mem) | split | simp)

@[simp] theorem controllerFlag_mem (tower : Nat) (home : BitVec 21) (v : DWord) (s : State) :
    (controllerFlag tower home v s).mem = s.mem := by simp [controllerFlag]

@[simp] theorem dropReleased_mem (id : Nat) (s : State) :
    (dropReleased id s).mem = s.mem := (rfl)

@[simp] theorem setReleased_mem (e : Released) (s : State) :
    (setReleased e s).mem = s.mem := (rfl)

@[simp] theorem deliverFault_mem (lay : Nat) (f : FaultRec) (s : State) :
    (deliverFault lay f s).mem = s.mem := by simp [deliverFault]

@[simp] theorem openFault_mem (lay port ctx : Nat) (o : BitVec 24) (off : Nat) (write np : Bool) (base size : Nat)
    (asid : BitVec 12) (s : State) : (openFault lay port ctx o off write np base size asid s).2.mem = s.mem := by
  unfold openFault; dsimp only; repeat' (first | (simp; done) | split)

@[simp] theorem relabel_mem (key : Nat) (new : Nat) (s : State) :
    (relabel key new s).mem = s.mem := (rfl)

@[simp] theorem setSpois_mem (key : Nat) (s : State) :
    (setSpois key s).mem = s.mem := by simp [setSpois]

@[simp] theorem completeRec_mem (tower rec : Nat) (s : State) : (completeRec tower rec s).mem = s.mem := by
  unfold completeRec; split <;> simp

@[simp] theorem enterRing_mem (tower : Nat) (es : List Status) (s : State) : (enterRing tower es s).mem = s.mem := by
  unfold enterRing; rw [foldl_mem]; intro s r; simp

@[simp] theorem putStatus_mem (tower : Nat) (e : Status) (s : State) :
    (putStatus tower e s).mem = s.mem := by simp [putStatus]

@[simp] theorem appendRec_mem (tower q from_ : Nat) (a : Launch) (save : Option Cap) (s : State) :
    (appendRec tower q from_ a save s).mem = s.mem := by simp [appendRec]

@[simp] theorem pushReleased_mem (lay : Nat) (c : Nat) (id : Nat) (e : Effect) (s : State) :
    (pushReleased lay c id e s).mem = s.mem := (rfl)

@[simp] theorem releaseNew_mem (lay : Nat) (c : Nat) (e : Effect) (s : State) :
    (releaseNew lay c e s).mem = s.mem := (rfl)

@[simp] theorem retireUpdates_mem (lay : Nat) (c : Nat) (v : DWord) (s : State) :
    (retireUpdates lay c v s).mem = s.mem := by
  unfold retireUpdates; (try dsimp only); repeat' (first | with_reducible rfl | assumption | (simp; done) | (simp [*]; done) | (intro _) | rw [foldl_mem] | (apply issue_mem) | (apply issueBoth_mem) | (apply issueCell_mem) | split | simp)

@[simp] theorem endDiscard_mem (lay : Nat) (c : Nat) (s : State) :
    (endDiscard lay c s).mem = s.mem := by simp [endDiscard]

@[simp] theorem killTask_mem (lay : Nat) (c : Nat) (s : State) :
    (killTask lay c s).mem = s.mem := by simp [killTask]

@[simp] theorem noteRetired_mem (pa : Nat) (s : State) : (noteRetired pa s).mem = s.mem := (rfl)

@[simp] theorem countRetired_mem (tower : Nat) (o : BitVec 24) (off n : Nat) (asid : BitVec 12) (write : Bool) (s : State) : (countRetired tower o off n asid write s).mem = s.mem := by
  unfold countRetired; (try dsimp only); repeat' (first | with_reducible rfl | assumption | (simp; done) | (simp [*]; done) | (intro _) | rw [foldl_mem] | (apply issue_mem) | (apply issueBoth_mem) | (apply issueCell_mem) | split | simp)

@[simp] theorem dropPages_mem (e : Released) (s : State) : (dropPages e s).mem = s.mem := (rfl)

@[simp] theorem pgKill_mem (key : Nat) (off : Nat) (o : BitVec 24) (form : Option (DWord × Nat)) (s : State) :
    (pgKill key off o form s).mem = s.mem := by simp [pgKill]

theorem portRead_mem (e : Released) (o : BitVec 24) (off n : Nat) (k : List Byte → Bool → State → State) (s : State)
    (h : ∀ a b t, (k a b t).mem = t.mem) : (portRead e o off n k s).mem = s.mem := by
  unfold portRead; dsimp only; repeat' (first | (rw [h]; simp; done) | (rw [h, dropPages_mem, countRetired_mem]; (try split) <;> rfl) | (simp [h]; done) | split)

@[simp] theorem leaveTrapped_mem (lay : Nat) (c : Nat) (kill : Bool) (s : State) :
    (leaveTrapped lay c kill s).mem = s.mem := by simp [leaveTrapped]

@[simp] theorem release_mem (lay : Nat) (c : Nat) (region : Nat) (e : Nat × Effect) (s : State) :
    (release lay c region e s).mem = s.mem := by unfold release; repeat' (first | (simp; done) | split)

@[simp] theorem clearMarks_mem (lay : Nat) (c : Nat) (marks : List Nat) (s : State) :
    (clearMarks lay c marks s).mem = s.mem := by
  unfold clearMarks; (try dsimp only); repeat' (first | with_reducible rfl | assumption | (simp; done) | (simp [*]; done) | (intro _) | rw [foldl_mem] | (apply issue_mem) | (apply issueBoth_mem) | (apply issueCell_mem) | split | simp)

/-! ### Waits -/

@[simp] theorem dropTiming_mem (lay : Nat) (s : State) :
    (dropTiming lay s).mem = s.mem := by simp [dropTiming]

@[simp] theorem unfreeze_mem (lay c : Nat) (w : Wait) (s : State) : (unfreeze lay c w s).mem = s.mem := (rfl)

@[simp] theorem switchAway_mem (lay : Nat) (h : Nat × Wait) (s : State) : (switchAway lay h s).mem = s.mem := (rfl)

@[simp] theorem execWaitPass_mem (lay : Nat) (s : State) {m : List Host.Cell} (hm : s.mem = m) :
    MemIs m (execWaitPass lay s) :=
  hm ▸ (State.updLayer_mem _ _ _).trans (foldl_mem _ (fun _ _ => unfreeze_mem _ _ _ _) _ _)

@[simp] theorem execFreezeSwitch_mem (lay : Nat) (s : State) {m : List Host.Cell} (hm : s.mem = m) :
    MemIs m (execFreezeSwitch lay s) := by
  subst hm; unfold execFreezeSwitch; (try dsimp only); repeat' (first | with_reducible rfl | assumption | (simp; done) | (simp [*]; done) | (intro _) | rw [foldl_mem] | (apply issue_mem) | (apply issueBoth_mem) | (apply issueCell_mem) | split | simp)

@[simp] theorem execWaitSatisfied_mem (lay : Nat) (ctx : Nat) (s : State) {m : List Host.Cell} (hm : s.mem = m) :
    MemIs m (execWaitSatisfied lay ctx s) := by
  subst hm; unfold execWaitSatisfied; (try dsimp only); repeat' (first | with_reducible rfl | assumption | (simp; done) | (simp [*]; done) | (intro _) | rw [foldl_mem] | (apply issue_mem) | (apply issueBoth_mem) | (apply issueCell_mem) | split | simp)

@[simp] theorem execResumeHoldEnd_mem (lay : Nat) (ctx : Nat) (s : State) {m : List Host.Cell} (hm : s.mem = m) :
    MemIs m (execResumeHoldEnd lay ctx s) := by
  subst hm; unfold execResumeHoldEnd; (try dsimp only); repeat' (first | with_reducible rfl | assumption | (simp; done) | (simp [*]; done) | (intro _) | rw [foldl_mem] | (apply issue_mem) | (apply issueBoth_mem) | (apply issueCell_mem) | split | simp)

@[simp] theorem execWatchdog_mem (lay : Nat) (ctx : Nat) (s : State) {m : List Host.Cell} (hm : s.mem = m) :
    MemIs m (execWatchdog lay ctx s) := by
  subst hm; unfold execWatchdog; (try dsimp only); repeat' (first | with_reducible rfl | assumption | (simp; done) | (simp [*]; done) | (intro _) | rw [foldl_mem] | (apply issue_mem) | (apply issueBoth_mem) | (apply issueCell_mem) | split | simp)

@[simp] theorem execPriorityAgeing_mem (lay : Nat) (ctx : Nat) (s : State) {m : List Host.Cell} (hm : s.mem = m) :
    MemIs m (execPriorityAgeing lay ctx s) := by
  subst hm; unfold execPriorityAgeing; (try dsimp only); repeat' (first | with_reducible rfl | assumption | (simp; done) | (simp [*]; done) | (intro _) | rw [foldl_mem] | (apply issue_mem) | (apply issueBoth_mem) | (apply issueCell_mem) | split | simp)

@[simp] theorem execStarvationSwitch_mem (lay : Nat) (ctx : Nat) (s : State) {m : List Host.Cell} (hm : s.mem = m) :
    MemIs m (execStarvationSwitch lay ctx s) := by
  subst hm; unfold execStarvationSwitch; (try dsimp only); repeat' (first | with_reducible rfl | assumption | (simp; done) | (simp [*]; done) | (intro _) | rw [foldl_mem] | (apply issue_mem) | (apply issueBoth_mem) | (apply issueCell_mem) | split | simp)

@[simp] theorem freezeOn_mem (lay c : Nat) (w : Wait) (s : State) : (freezeOn lay c w s).mem = s.mem := (rfl)

@[simp] theorem execLate_mem (lay : Nat) (row : Nat) (s : State) {m : List Host.Cell} (hm : s.mem = m) :
    MemIs m (execLate lay row s) := by subst hm; unfold execLate; repeat' (first | (simp; done) | split)

@[simp] theorem raiseLates_mem (lay : Nat) (strict : Bool) (s : State) : (raiseLates lay strict s).mem = s.mem := by
  refine foldl_mem _ (fun u q => ?_) _ _
  have h := execLate_mem lay q.id u rfl
  cases hx : execLate lay q.id u <;> simp_all

@[simp] theorem execHeldTrapEffect_mem (lay : Nat) (ctx : Nat) (s : State) {m : List Host.Cell} (hm : s.mem = m) :
    MemIs m (execHeldTrapEffect lay ctx s) := by
  subst hm; unfold execHeldTrapEffect; (try dsimp only); repeat' (first | with_reducible rfl | assumption | (simp; done) | (simp [*]; done) | (intro _) | rw [foldl_mem] | (apply issue_mem) | (apply issueBoth_mem) | (apply issueCell_mem) | split | simp)

@[simp] theorem writeV_mem (lay : Nat) (p : Pend) (s : State) :
    (writeV lay p s).mem = s.mem := by unfold writeV; repeat' (first | (simp; done) | split)

@[simp] theorem landReg_mem (lay : Nat) (p : Pend) (s : State) :
    (landReg lay p s).mem = s.mem := by unfold landReg; repeat' (first | (simp; done) | split)

@[simp] theorem landRegs_mem (lay : Nat) (s : State) :
    (landRegs lay s).mem = s.mem := by
  unfold landRegs; (try dsimp only); repeat' (first | with_reducible rfl | assumption | (simp; done) | (simp [*]; done) | (intro _) | rw [foldl_mem] | (apply issue_mem) | (apply issueBoth_mem) | (apply issueCell_mem) | split | simp)

@[simp] theorem execLaggingHit_mem (lay : Nat) (s : State) {m : List Host.Cell} (hm : s.mem = m) :
    MemIs m (execLaggingHit lay s) := by
  subst hm; unfold execLaggingHit; (try dsimp only); repeat' (first | with_reducible rfl | assumption | (simp; done) | (simp [*]; done) | (intro _) | rw [foldl_mem] | (apply issue_mem) | (apply issueBoth_mem) | (apply issueCell_mem) | split | simp)

/-! ### Front -/

@[simp] theorem cellExec_mem (i : Instr) (r : Run) (s : State) :
    (cellExec i r s).mem = s.mem := by unfold cellExec; repeat' (first | (simp; done) | split)

@[simp] theorem microExec_mem (i : Instr) (s : State) {m : List Host.Cell} (hm : s.mem = m) : MemIs m (microExec i s) := by
  cases i
  case endm => exact execEndm_mem s hm
  case rowin => exact execRowin_mem s hm
  case step => exact execStep_mem s hm
  case accum lag => exact execAccum_mem lag s hm
  case plane p => exact execPlane_mem p s hm
  case loopm len csrc n => exact execLoopm_mem len csrc n s hm
  case waitin n => exact execWaitin_mem n s hm
  case rstc => exact execRstc_mem s hm
  case abas d => exact execAbas_mem d s hm
  case tadd d => exact execTadd_mem d s hm
  all_goals exact hm

@[simp] theorem runCells_mem (lay : Nat) (s : State) :
    (runCells lay s).mem = s.mem := by
  unfold runCells; (try dsimp only); repeat' (first | with_reducible rfl | assumption | (simp; done) | (simp [*]; done) | (intro _) | rw [foldl_mem] | (apply issue_mem) | (apply issueBoth_mem) | (apply issueCell_mem) | split | simp)

theorem Res.state_mem (s : State) (r : Res) (h : MemIs s.mem r) : (Res.state s r).mem = s.mem := by
  cases r <;> simp_all [Res.state]
@[simp] theorem debugWord_mem (k : Nat) (i : Instr) (s : State) : (debugWord k i s).mem = s.mem := by
  unfold debugWord; dsimp only; repeat' (first | rfl | (simp; done) | split)

@[simp] theorem runRoutine_mem (k : Nat) (s : State) : (runRoutine k s).mem = s.mem := by
  unfold runRoutine; dsimp only
  generalize hu : ({ s with cell := k } : State) = u
  have hm : u.mem = s.mem := by rw [← hu]
  clear hu
  rw [← hm]
  split
  · repeat' split
    all_goals first | rfl | (simp; done) | exact (Res.state_mem _ _ (microExec_mem _ _ rfl)).trans (debugWord_mem _ _ _)
  · rfl

@[simp] theorem runFirstWord_mem (lay : Nat) (s : State) :
    (runFirstWord lay s).mem = s.mem := by unfold runFirstWord; repeat' (first | (simp; done) | split)

@[simp] theorem debugCells_mem (lay : Nat) (fresh : Bool) (s : State) : (debugCells lay fresh s).mem = s.mem := by
  unfold debugCells
  refine foldl_mem _ (fun s f => ?_) _ _
  split
  · rfl
  · refine foldl_mem _ (fun s k => ?_) _ _
    split
    · refine foldl_mem _ (fun s x => ?_) _ _
      split <;> simp
    · rfl

@[simp] theorem landReturns_mem (lay : Nat) (s : State) :
    (landReturns lay s).mem = s.mem := by
  unfold landReturns; (try dsimp only); repeat' (first | with_reducible rfl | assumption | (simp; done) | (simp [*]; done) | (intro _) | rw [foldl_mem] | (apply issue_mem) | (apply issueBoth_mem) | (apply issueCell_mem) | split | simp)

@[simp] theorem sendHalos_mem (lay : Nat) (fresh : Bool) (s : State) :
    (sendHalos lay fresh s).mem = s.mem := by
  unfold sendHalos; (try dsimp only); repeat' (first | with_reducible rfl | assumption | (simp; done) | (simp [*]; done) | (intro _) | rw [foldl_mem] | (apply issue_mem) | (apply issueBoth_mem) | (apply issueCell_mem) | split | simp)

/-! ### Issue -/

@[simp] theorem select_mem (lay : Nat) (s : State) :
    (select lay s).mem = s.mem := by
  unfold select; (try dsimp only); repeat' (first | with_reducible rfl | assumption | (simp; done) | (simp [*]; done) | (intro _) | rw [foldl_mem] | (apply issue_mem) | (apply issueBoth_mem) | (apply issueCell_mem) | split | simp)

@[simp] theorem Cand.view_mem (c : Cand) (s : State) :
    (Cand.view c s).mem = s.mem := (rfl)

@[simp] theorem parkFetch_mem (lay : Nat) (c : Nat) (off : Nat) (s : State) :
    (parkFetch lay c off s).mem = s.mem := by
  unfold parkFetch; (try dsimp only); repeat' (first | with_reducible rfl | assumption | (simp; done) | (simp [*]; done) | (intro _) | rw [foldl_mem] | (apply issue_mem) | (apply issueBoth_mem) | (apply issueCell_mem) | split | simp)

@[simp] theorem noIssue_mem (lay : Nat) (s : State) :
    (noIssue lay s).mem = s.mem := (rfl)

@[simp] theorem openBundle_mem (s : State) :
    (openBundle s).mem = s.mem := (rfl)

@[simp] theorem fillCode_mem (lay : Nat) (x : Ctx) (s : State) : (fillCode lay x s).mem = s.mem := by
  unfold fillCode; (try dsimp only); repeat' (first | (simp; done) | split)

@[simp] theorem holdLine_mem (lay : Nat) (e : Option (BitVec 24) × Nat) (s : State) : (holdLine lay e s).mem = s.mem := by
  unfold holdLine; (try dsimp only); repeat' (first | (simp; done) | split)

@[simp] theorem holdCode_mem (lay : Nat) (x : Ctx) (n : Nat) (s : State) : (holdCode lay x n s).mem = s.mem :=
  foldl_mem _ (fun _ _ => holdLine_mem _ _ _) _ _

@[simp] theorem loadLatch_mem (lay : Nat) (c : Nat) (ws : List Word) (s : State) :
    (loadLatch lay c ws s).mem = s.mem := (rfl)

@[simp] theorem afterSlot_mem (i : Instr) (s : State) :
    (afterSlot i s).mem = s.mem := by simp [afterSlot]

@[simp] theorem badSlot_mem (e : Reject) (s : State) :
    (badSlot e s).mem = s.mem := by simp [badSlot]

@[simp] theorem endBundle_mem (s : State) :
    (endBundle s).mem = s.mem := by simp [endBundle]

/-! ### StepAdvance -/

@[simp] theorem landEntry_mem (lay : Nat) (k : Nat) (d : Landing) (s : State) :
    (landEntry lay k d s).mem = s.mem := by simp [landEntry]

@[simp] theorem landEntries_mem (lay : Nat) (k : Nat) (due : Landing → Bool) (s : State) :
    (landEntries lay k due s).mem = s.mem := by
  unfold landEntries; (try dsimp only); repeat' (first | with_reducible rfl | assumption | (simp; done) | (simp [*]; done) | (intro _) | rw [foldl_mem] | (apply issue_mem) | (apply issueBoth_mem) | (apply issueCell_mem) | split | simp)

@[simp] theorem takeHeld_mem (lay : Nat) (s : State) : (takeHeld lay s).mem = s.mem := by
  unfold takeHeld
  refine foldl_mem _ (fun u q => ?_) _ _
  dsimp only; split <;> rfl

@[simp] theorem phaseTwo_mem (lay : Nat) (s : State) :
    (phaseTwo lay s).mem = s.mem := by
  unfold phaseTwo; (try dsimp only); repeat' (first | with_reducible rfl | assumption | (simp; done) | (simp [*]; done) | (intro _) | rw [foldl_mem] | (apply issue_mem) | (apply issueBoth_mem) | (apply issueCell_mem) | split | simp)

@[simp] theorem execTimedLanding_mem (lay : Nat) (cell : Nat) (row : Nat) (s : State) {w0 : List Host.Cell} (hm : s.mem = w0) :
    MemIs w0 (execTimedLanding lay cell row s) := by subst hm; simp [execTimedLanding]

@[simp] theorem planeTrap_mem (lay : Nat) (p : Pend) (s : State) :
    (planeTrap lay p s).mem = s.mem := by simp [planeTrap]

@[simp] theorem landThree_mem (lay : Nat) (p : Pend) (s : State) :
    (landThree lay p s).mem = s.mem := by unfold landThree; repeat' (first | (simp; done) | split)

@[simp] theorem phaseThree_mem (lay : Nat) (s : State) :
    (phaseThree lay s).mem = s.mem := by
  unfold phaseThree; (try dsimp only); repeat' (first | with_reducible rfl | assumption | (simp; done) | (simp [*]; done) | (intro _) | rw [foldl_mem] | (apply issue_mem) | (apply issueBoth_mem) | (apply issueCell_mem) | split | simp)

@[simp] theorem settleOuts_mem (lay : Nat) (s : State) :
    (settleOuts lay s).mem = s.mem := by
  unfold settleOuts; (try dsimp only); repeat' (first | with_reducible rfl | assumption | (simp; done) | (simp [*]; done) | (intro _) | rw [foldl_mem] | (apply issue_mem) | (apply issueBoth_mem) | (apply issueCell_mem) | split | simp)

@[simp] theorem frozenLandings_mem (lay : Nat) (s : State) :
    (frozenLandings lay s).mem = s.mem := by
  unfold frozenLandings; (try dsimp only); repeat' (first | with_reducible rfl | assumption | (simp; done) | (simp [*]; done) | (intro _) | rw [foldl_mem] | (apply issue_mem) | (apply issueBoth_mem) | (apply issueCell_mem) | split | simp)

@[simp] theorem clearDone_mem (lay : Nat) (s : State) :
    (clearDone lay s).mem = s.mem := by
  unfold clearDone; (try dsimp only); repeat' (first | with_reducible rfl | assumption | (simp; done) | (simp [*]; done) | (intro _) | rw [foldl_mem] | (apply issue_mem) | (apply issueBoth_mem) | (apply issueCell_mem) | split | simp)

@[simp] theorem rowinFresh_mem (lay : Nat) (s : State) : (rowinFresh lay s).mem = s.mem := by
  unfold rowinFresh
  extract_lets u
  show _ = u.mem
  clear_value u
  split
  · split
    · refine foldl_mem _ (fun t f => ?_) _ _
      split
      · refine foldl_mem _ (fun t x => ?_) _ _
        split <;> simp
      · rfl
    · rfl
  · rfl

@[simp] theorem stepBack_mem (lay : Nat) (s : State) :
    (stepBack lay s).mem = s.mem := by
  unfold stepBack; (try dsimp only); repeat' (first | with_reducible rfl | assumption | (simp; done) | (simp [*]; done) | (intro _) | rw [foldl_mem] | (apply issue_mem) | (apply issueBoth_mem) | (apply issueCell_mem) | split | simp)

@[simp] theorem sendRows_mem (lay c : Nat) (n : BitVec 5) (ahead s : State) : (sendRows lay c n ahead s).mem = s.mem := by
  unfold sendRows
  extract_lets l mine effs new s1
  have h1 : s1.mem = s.mem := foldl_mem _ (fun u q => pushReq_mem _ _) _ _
  clear_value s1
  split
  · rfl
  · rw [State.updLayer_mem, h1]

@[simp] theorem sendAhead_mem (lay c : Nat) (n : BitVec 5) (s : State) : (sendAhead lay c n s).mem = s.mem :=
  sendRows_mem _ _ _ _ _

/-! ### Ports -/

@[simp] theorem setReq_mem (q : Req) (s : State) :
    (setReq q s).mem = s.mem := (rfl)

@[simp] theorem dropReq_mem (id : Nat) (s : State) :
    (dropReq id s).mem = s.mem := (rfl)

@[simp] theorem countTel_mem (tower : Nat) (key : Nat) (s : State) :
    (countTel tower key s).mem = s.mem := (rfl)

@[simp] theorem fillCaches_mem (q : Req) (l : Leaf) (s : State) :
    (fillCaches q l s).mem = s.mem := by unfold fillCaches; repeat' (first | (simp; done) | split)

@[simp] theorem laneDone_mem (q : Req) (c : Nat) (old : Word) (skip : Bool) (s : State) :
    (laneDone q c old skip s).mem = s.mem := by unfold laneDone; repeat' (first | (simp; done) | split)

@[simp] theorem poisonBehind_mem (q : Req) (s : State) : (poisonBehind q s).mem = s.mem := (rfl)

@[simp] theorem killReq_mem (q : Req) (s : State) :
    (killReq q s).mem = s.mem := by
  unfold killReq; (try dsimp only); repeat' (first | with_reducible rfl | assumption | (simp; done) | (simp [*]; done) | (intro _) | rw [foldl_mem] | (apply issue_mem) | (apply issueBoth_mem) | (apply issueCell_mem) | split | simp)

@[simp] theorem portFault_mem (q : Req) (pol : Nat) (np : Bool) (base : Nat) (size : Nat) (s : State) :
    (portFault q pol np base size s).mem = s.mem := by unfold portFault; repeat' (first | (simp; done) | split)

@[simp] theorem portLeaf_mem (q : Req) (l : Leaf) (s : State) :
    (portLeaf q l s).mem = s.mem := by unfold portLeaf; repeat' (first | (simp; done) | split)

@[simp] theorem portRemote_mem (q : Req) (s : State) :
    (portRemote q s).mem = s.mem := by
  unfold portRemote; (try dsimp only); repeat' (first | with_reducible rfl | assumption | (simp; done) | (simp [*]; done) | (intro _) | rw [foldl_mem] | (apply issue_mem) | (apply issueBoth_mem) | (apply issueCell_mem) | split | simp)

@[simp] theorem askWalk_mem (q : Req) (s : State) : (askWalk q s).mem = s.mem := by
  unfold askWalk; split
  · dsimp only; split <;> rfl
  · rfl

@[simp] theorem askPage_mem (lay : Nat) (o : BitVec 24) (off : Nat) (asid : BitVec 12) (write : Bool) (s : State) :
    (askPage lay o off asid write s).mem = s.mem := by
  unfold askPage; simp only [ite_mem, pushReq_mem, ite_self]

@[simp] theorem dropAsked_mem (o : BitVec 24) (asid : BitVec 12) (s : State) : (dropAsked o asid s).mem = s.mem := (rfl)

@[simp] theorem portWalk_mem (q : Req) (s : State) {m : List Host.Cell} (hm : s.mem = m) :
    MemIs m (portWalk q s) := by subst hm; unfold portWalk; repeat' (first | (simp; done) | split)

@[simp] theorem execTranslationWalk_mem (req : Nat) (s : State) {m : List Host.Cell} (hm : s.mem = m) :
    MemIs m (execTranslationWalk req s) := by subst hm; unfold execTranslationWalk; repeat' (first | (simp; done) | split)

@[simp] theorem hostEntry_mem (stale : Bool) (entry : DWord) (level : Nat) (q : Req) (s : State) :
    (hostEntry stale entry level q s).mem = s.mem := by simp [hostEntry]

@[simp] theorem execHostWalkReply_mem (req : Nat) (entry : DWord) (level : Nat) (s : State) {m : List Host.Cell} (hm : s.mem = m) :
    MemIs m (execHostWalkReply req entry level s) := by
  subst hm; unfold execHostWalkReply; (try dsimp only); repeat' (first | with_reducible rfl | assumption | (simp; done) | (simp [*]; done) | (intro _) | rw [foldl_mem] | (apply issue_mem) | (apply issueBoth_mem) | (apply issueCell_mem) | split | simp)

@[simp] theorem closeFault_mem (lay : Nat) (fid : Nat) (s : State) :
    (closeFault lay fid s).mem = s.mem := by simp [closeFault]

@[simp] theorem execFservWrite_mem (lay : Nat) (fid : BitVec 16) (s : State) {m : List Host.Cell} (hm : s.mem = m) :
    MemIs m (execFservWrite lay fid s) := by subst hm; simp [execFservWrite]

@[simp] theorem execHostFaultServiced_mem (lay : Nat) (fid : BitVec 16) (s : State) {m : List Host.Cell} (hm : s.mem = m) :
    MemIs m (execHostFaultServiced lay fid s) := by subst hm; simp [execHostFaultServiced]

@[simp] theorem invalidate_mem (hit : BitVec 24 → Nat → Leaf → Bool) (s : State) :
    (invalidate hit s).mem = s.mem := (rfl)

@[simp] theorem execTinvAll_mem (s : State) {m : List Host.Cell} (hm : s.mem = m) :
    MemIs m (execTinvAll s) := by subst hm; simp [execTinvAll]

@[simp] theorem execTinvObject_mem (obj : BitVec 24) (s : State) {m : List Host.Cell} (hm : s.mem = m) :
    MemIs m (execTinvObject obj s) := by subst hm; simp [execTinvObject]

@[simp] theorem execTinvPage_mem (obj : BitVec 24) (vpn : BitVec 24) (s : State) {m : List Host.Cell} (hm : s.mem = m) :
    MemIs m (execTinvPage obj vpn s) := by subst hm; simp [execTinvPage]

@[simp] theorem execTinvComplete_mem (s : State) {m : List Host.Cell} (hm : s.mem = m) :
    MemIs m (execTinvComplete s) := by subst hm; simp [execTinvComplete]

@[simp] theorem remoteCap_mem (q : Req) (s : State) : (remoteCap q s).2.mem = s.mem := by
  unfold remoteCap; (try dsimp only); repeat' (first | (simp [State.choose]; done) | split)

@[simp] theorem loadData_mem (q : Req) (l : Leaf) (s : State) : (loadData q l s).2.mem = s.mem := by
  unfold loadData; repeat' (first | (simp; done) | split)

@[simp] theorem performLoad_mem (q : Req) (s : State) :
    (performLoad q s).mem = s.mem := by unfold performLoad; repeat' (first | (simp; done) | split)

@[simp] theorem execLoadPerform_mem (req : Nat) (s : State) {m : List Host.Cell} (hm : s.mem = m) :
    MemIs m (execLoadPerform req s) := by subst hm; unfold execLoadPerform; repeat' (first | (simp; done) | split)

@[simp] theorem setTag_mem (g : Nat) (b : Bool) (s : State) :
    (setTag g b s).mem = s.mem := (rfl)

@[simp] theorem storeOver_mem (q : Req) (s : State) :
    (storeOver q s).mem = s.mem := by simp [storeOver]

@[simp] theorem reportPois_mem (q : Req) (s : State) :
    (reportPois q s).mem = s.mem := by simp [reportPois]

@[simp] theorem execAtomicReply_mem (req : Nat) (s : State) {m : List Host.Cell} (hm : s.mem = m) :
    MemIs m (execAtomicReply req s) := by subst hm; unfold execAtomicReply; repeat' (first | (simp; done) | split)

@[simp] theorem execCldDataArrival_mem (req : Nat) (s : State) {m : List Host.Cell} (hm : s.mem = m) :
    MemIs m (execCldDataArrival req s) := by subst hm; unfold execCldDataArrival; repeat' (first | (simp; done) | split)

@[simp] theorem execCopyRowArrival_mem (req : Nat) (s : State) {m : List Host.Cell} (hm : s.mem = m) :
    MemIs m (execCopyRowArrival req s) := by subst hm; unfold execCopyRowArrival; repeat' (first | (simp; done) | split)

@[simp] theorem offerRow_mem (q : Req) (s : State) :
    (offerRow q s).mem = s.mem := by unfold offerRow; repeat' (first | (simp; done) | split)

@[simp] theorem execRemoteRequest_mem (obj : BitVec 24) (off : BitVec 40) (asid : BitVec 12) (ask : RemoteAsk) (tag : Nat) (s : State) {m : List Host.Cell} (hm : s.mem = m) :
    MemIs m (execRemoteRequest obj off asid ask tag s) := by subst hm; simp [execRemoteRequest]

/-! ### Bus -/

@[simp] theorem applyFlag_mem (lay : Nat) (u : FlagUpd) (s : State) :
    (applyFlag lay u s).mem = s.mem := by simp [applyFlag]

@[simp] theorem applyUpdates_mem (lay : Nat) (s : State) :
    (applyUpdates lay s).mem = s.mem := by
  unfold applyUpdates; (try dsimp only); repeat' (first | with_reducible rfl | assumption | (simp; done) | (simp [*]; done) | (intro _) | rw [foldl_mem] | (apply issue_mem) | (apply issueBoth_mem) | (apply issueCell_mem) | split | simp)

@[simp] theorem execFlagUpdateApply_mem (lay : Nat) (arrives : Option (Bool × BitVec 9 × DWord)) (s : State) {m : List Host.Cell} (hm : s.mem = m) :
    MemIs m (execFlagUpdateApply lay arrives s) := by subst hm; unfold execFlagUpdateApply; cases arrives <;> simp

@[simp] theorem execFlrstWrite_mem (lay : Nat) (idx : BitVec 9) (s : State) {m : List Host.Cell} (hm : s.mem = m) :
    MemIs m (execFlrstWrite lay idx s) := by subst hm; simp [execFlrstWrite]

@[simp] theorem pushSlot_mem (tower : Nat) (b : BusSlot) (s : State) : (pushSlot tower b s).mem = s.mem := (rfl)

@[simp] theorem countRetry_mem (tower col : Nat) (s : State) : (countRetry tower col s).mem = s.mem := by
  unfold countRetry; (try dsimp only); repeat' (first | with_reducible rfl | assumption | (simp; done) | (simp [*]; done) | (intro _) | rw [foldl_mem] | (apply issue_mem) | (apply issueBoth_mem) | (apply issueCell_mem) | split | simp)

@[simp] theorem sendAgain_mem (tower : Nat) (b : BusSlot) (bad : BitVec 64) (badFlags : Bool) (s : State) : (sendAgain tower b bad badFlags s).mem = s.mem := by
  unfold sendAgain; (try dsimp only); repeat' (first | with_reducible rfl | assumption | (simp; done) | (simp [*]; done) | (intro _) | rw [foldl_mem] | (apply issue_mem) | (apply issueBoth_mem) | (apply issueCell_mem) | split | simp)

@[simp] theorem assertRetry_mem (tower : Nat) (bad : BitVec 64) (badFlags : Bool) (s : State) :
    (assertRetry tower bad badFlags s).mem = s.mem := by
  unfold assertRetry; dsimp only; split
  · rfl
  · split
    · rfl
    · refine (foldl_mem _ (fun u k => ?_) _ _).trans ((sendAgain_mem _ _ _ _ _).trans rfl)
      split <;> simp

@[simp] theorem layerSlot_mem (tower : Nat) (lay : Nat) (c : Nat) (s : State) :
    (layerSlot tower lay c s).mem = s.mem := by simp [layerSlot]

@[simp] theorem baseSlot_mem (tower : Nat) (c : Nat) (s : State) :
    (baseSlot tower c s).mem = s.mem := by unfold baseSlot; repeat' (first | (simp; done) | split)

@[simp] theorem frameStart_mem (tower : Nat) (s : State) :
    (frameStart tower s).mem = s.mem := by simp [frameStart]

@[simp] theorem execStackBusSlot_mem (tower : Nat) (s : State) {m : List Host.Cell} (hm : s.mem = m) :
    MemIs m (execStackBusSlot tower s) := by
  subst hm; unfold execStackBusSlot; (try dsimp only); repeat' (first | with_reducible rfl | assumption | (simp; done) | (simp [*]; done) | (intro _) | rw [foldl_mem] | (apply issue_mem) | (apply issueBoth_mem) | (apply issueCell_mem) | split | simp)

@[simp] theorem applyBeat_mem (tower : Nat) (b : Beat) (s : State) :
    (applyBeat tower b s).mem = s.mem := by
  unfold applyBeat; (try dsimp only); repeat' (first | with_reducible rfl | assumption | (simp; done) | (simp [*]; done) | (intro _) | rw [foldl_mem] | (apply issue_mem) | (apply issueBoth_mem) | (apply issueCell_mem) | split | simp)

@[simp] theorem State.setEyelet_mem (s : State) (lay : Nat) (e : Nat) (y : Eyelet) :
    (State.setEyelet s lay e y).mem = s.mem := by simp [State.setEyelet]

@[simp] theorem useSlot_mem (tower port : Nat) (s : State) : (useSlot tower port s).mem = s.mem := (rfl)

@[simp] theorem execEyeletWordSend_mem (lay : Nat) (e : Nat) (s : State) {m : List Host.Cell} (hm : s.mem = m) :
    MemIs m (execEyeletWordSend lay e s) := by
  subst hm; unfold execEyeletWordSend; dsimp only; split
  · split
    · simp only [MemIs_next, ite_mem, State.updTower_mem, useSlot_mem, State.updLayer_mem, ite_self]
    · rfl
  · rfl

@[simp] theorem execEyeletWordArrival_mem (lay : Nat) (e : Nat) (w : EyeletWord) (s : State) {m : List Host.Cell} (hm : s.mem = m) :
    MemIs m (execEyeletWordArrival lay e w s) := by
  subst hm; unfold execEyeletWordArrival; (try dsimp only); repeat' (first | with_reducible rfl | assumption | (simp; done) | (simp [*]; done) | (intro _) | rw [foldl_mem] | (apply issue_mem) | (apply issueBoth_mem) | (apply issueCell_mem) | split | simp)

@[simp] theorem execEyeletCredit_mem (lay : Nat) (e : Nat) (s : State) {m : List Host.Cell} (hm : s.mem = m) :
    MemIs m (execEyeletCredit lay e s) := by
  subst hm; unfold execEyeletCredit; (try dsimp only); repeat' (first | with_reducible rfl | assumption | (simp; done) | (simp [*]; done) | (intro _) | rw [foldl_mem] | (apply issue_mem) | (apply issueBoth_mem) | (apply issueCell_mem) | split | simp)

@[simp] theorem execSotWrite_mem (tower : Nat) (n : Nat) (owners : DWord) (s : State) {m : List Host.Cell} (hm : s.mem = m) :
    MemIs m (execSotWrite tower n owners s) := by subst hm; simp [execSotWrite]

/-! ### Fabric -/

@[simp] theorem State.setLink_mem (s : State) (t : Nat) (f : Nat) (l : Link) :
    (State.setLink s t f l).mem = s.mem := (rfl)

@[simp] theorem State.updLink_mem (s : State) (t : Nat) (f : Nat) (g : Link → Link) :
    (State.updLink s t f g).mem = s.mem := (rfl)

@[simp] theorem alarm_mem (n : Nat) (s : State) :
    (alarm n s).mem = s.mem := (rfl)

@[simp] theorem readPlan_mem (s : State) {m : List Host.Cell} (hm : s.mem = m) :
    MemIs m (readPlan s) := by
  subst hm; unfold readPlan; (try dsimp only); repeat' (first | with_reducible rfl | assumption | (simp; done) | (simp [*]; done) | (intro _) | rw [foldl_mem] | (apply issue_mem) | (apply issueBoth_mem) | (apply issueCell_mem) | split | simp)

@[simp] theorem execPlctlArm_mem (nent : BitVec 12) (nbase : BitVec 28) (logp : BitVec 5) (s : State) {m : List Host.Cell} (hm : s.mem = m) :
    MemIs m (execPlctlArm nent nbase logp s) := by subst hm; unfold execPlctlArm; repeat' (first | (simp; done) | split)

@[simp] theorem execPlanSwitch_mem (s : State) {m : List Host.Cell} (hm : s.mem = m) :
    MemIs m (execPlanSwitch s) := by subst hm; unfold execPlanSwitch; repeat' (first | (simp; done) | split)

@[simp] theorem missSend_mem (e : Released) (x : Transfer) (s : State) :
    (missSend e x s).mem = s.mem := by simp [missSend]

@[simp] theorem execSendReady_mem (eff : Nat) (s : State) {m : List Host.Cell} (hm : s.mem = m) :
    MemIs m (execSendReady eff s) := by
  subst hm; unfold execSendReady; (try dsimp only); repeat' (first | with_reducible rfl | assumption | (simp; done) | (simp [*]; done) | (intro _) | rw [foldl_mem] | (apply issue_mem) | (apply issueBoth_mem) | (apply issueCell_mem) | rw [portRead_mem] | split | simp)

@[simp] theorem joinLink_mem (tower link : Nat) (fs : List Flit) (s : State) : (joinLink tower link fs s).mem = s.mem := (rfl)

@[simp] theorem sendFlits_mem (tower link : Nat) (s : State) : (sendFlits tower link s).mem = s.mem := (rfl)

@[simp] theorem sendLocal_mem (e : Released) (x : Transfer) (s : State) :
    (sendLocal e x s).mem = s.mem := (rfl)

@[simp] theorem sendRemote_mem (e : Released) (x : Transfer) (d : Nat) (s : State) :
    (sendRemote e x d s).mem = s.mem := by
  unfold sendRemote; (try dsimp only); repeat' (first | with_reducible rfl | assumption | (simp; done) | (simp [*]; done) | (intro _) | rw [foldl_mem] | (apply issue_mem) | (apply issueBoth_mem) | (apply issueCell_mem) | split | simp)

@[simp] theorem execSendDepart_mem (eff : Nat) (s : State) {m : List Host.Cell} (hm : s.mem = m) :
    MemIs m (execSendDepart eff s) := by subst hm; unfold execSendDepart; repeat' (first | (simp; done) | split)

@[simp] theorem countBytes_mem (f : Flit) (n : Nat) (pois : Bool) (s : State) :
    (countBytes f n pois s).mem = s.mem := (rfl)

@[simp] theorem endTransfer_mem (link : Nat) (f : Flit) (s : State) :
    (endTransfer link f s).mem = s.mem := by unfold endTransfer; repeat' (first | (simp; done) | split)

@[simp] theorem linkDown_mem (tower : Nat) (f : Nat) (s : State) :
    (linkDown tower f s).mem = s.mem := by
  unfold linkDown; (try dsimp only); repeat' (first | with_reducible rfl | assumption | (simp; done) | (simp [*]; done) | (intro _) | rw [foldl_mem] | (apply issue_mem) | (apply issueBoth_mem) | (apply issueCell_mem) | split | simp)

@[simp] theorem loseLane_mem (tower link lane : Nat) (s : State) : (loseLane tower link lane s).mem = s.mem := by
  unfold loseLane; (try dsimp only); repeat' (first | with_reducible rfl | assumption | (simp; done) | (simp [*]; done) | (intro _) | rw [foldl_mem] | (apply issue_mem) | (apply issueBoth_mem) | (apply issueCell_mem) | split | simp)

@[simp] theorem failCheck_mem (tower link : Nat) (f : Flit) (s : State) : (failCheck tower link f s).mem = s.mem := by
  unfold failCheck; (try dsimp only); repeat' (first | with_reducible rfl | assumption | (simp; done) | (simp [*]; done) | (intro _) | rw [foldl_mem] | (apply issue_mem) | (apply issueBoth_mem) | (apply issueCell_mem) | split | simp)

@[simp] theorem forward_mem (hop : Nat × Nat) (rest : List (Nat × Nat)) (optical : Bool) (f : Flit) (s : State) : (forward hop rest optical f s).mem = s.mem := by
  unfold forward; (try dsimp only); repeat' (first | with_reducible rfl | assumption | (simp; done) | (simp [*]; done) | (intro _) | rw [foldl_mem] | (apply issue_mem) | (apply issueBoth_mem) | (apply issueCell_mem) | split | simp)

@[simp] theorem bufferFlit_mem (tower link : Nat) (f : Flit) (s : State) : (bufferFlit tower link f s).mem = s.mem := by
  unfold bufferFlit; (try dsimp only); repeat' (first | with_reducible rfl | assumption | (simp; done) | (simp [*]; done) | (intro _) | rw [foldl_mem] | (apply issue_mem) | (apply issueBoth_mem) | (apply issueCell_mem) | split | simp)

@[simp] theorem acceptFlit_mem (tower link : Nat) (f : Flit) (s : State) : (acceptFlit tower link f s).mem = s.mem := by
  unfold acceptFlit; (try dsimp only); repeat' (first | with_reducible rfl | assumption | (simp; done) | (simp [*]; done) | (intro _) | rw [foldl_mem] | (apply issue_mem) | (apply issueBoth_mem) | (apply issueCell_mem) | split | simp)

@[simp] theorem execFlitReplay_mem (tower : Nat) (link : Nat) (q : BitVec 48) (s : State) {m : List Host.Cell} (hm : s.mem = m) :
    MemIs m (execFlitReplay tower link q s) := by subst hm; simp [execFlitReplay]

@[simp] theorem execFlitAck_mem (tower : Nat) (link : Nat) (q : BitVec 48) (s : State) {m : List Host.Cell} (hm : s.mem = m) :
    MemIs m (execFlitAck tower link q s) := by subst hm; simp [execFlitAck]

@[simp] theorem execKeyInstall_mem (tower : Nat) (link : Nat) (key : BitVec 256) (s : State) {m : List Host.Cell} (hm : s.mem = m) :
    MemIs m (execKeyInstall tower link key s) := by subst hm; simp [execKeyInstall]

@[simp] theorem execKeyRolloverComplete_mem (tower : Nat) (link : Nat) (s : State) {m : List Host.Cell} (hm : s.mem = m) :
    MemIs m (execKeyRolloverComplete tower link s) := by subst hm; simp [execKeyRolloverComplete]

@[simp] theorem execKeyPhaseExhausted_mem (tower : Nat) (link : Nat) (s : State) {m : List Host.Cell} (hm : s.mem = m) :
    MemIs m (execKeyPhaseExhausted tower link s) := by subst hm; simp [execKeyPhaseExhausted]

@[simp] theorem execLaneFailure_mem (tower : Nat) (link : Nat) (lane : Nat) (s : State) {m : List Host.Cell} (hm : s.mem = m) :
    MemIs m (execLaneFailure tower link lane s) := by
  subst hm; unfold execLaneFailure; (try dsimp only); repeat' (first | with_reducible rfl | assumption | (simp; done) | (simp [*]; done) | (intro _) | rw [foldl_mem] | (apply issue_mem) | (apply issueBoth_mem) | (apply issueCell_mem) | split | simp)

@[simp] theorem execLinkEnable_mem (tower : Nat) (link : Nat) (s : State) {m : List Host.Cell} (hm : s.mem = m) :
    MemIs m (execLinkEnable tower link s) := by subst hm; simp [execLinkEnable]

@[simp] theorem execLanesLock_mem (tower : Nat) (link : Nat) (lanes : BitVec 16) (s : State) {m : List Host.Cell} (hm : s.mem = m) :
    MemIs m (execLanesLock tower link lanes s) := by subst hm; simp [execLanesLock]

@[simp] theorem execTrainTimeout_mem (tower : Nat) (link : Nat) (s : State) {m : List Host.Cell} (hm : s.mem = m) :
    MemIs m (execTrainTimeout tower link s) := by subst hm; simp [execTrainTimeout]

@[simp] theorem quarantine_mem (t : Nat) (f : Nat) (s : State) :
    (quarantine t f s).mem = s.mem := (rfl)

@[simp] theorem execIdentify_mem (tower : Nat) (link : Nat) (dom : BitVec 6) (pkg : BitVec 8) (count : BitVec 32) (proof : IdentityProof) (s : State) {m : List Host.Cell} (hm : s.mem = m) :
    MemIs m (execIdentify tower link dom pkg count proof s) := by
  subst hm; unfold execIdentify; (try dsimp only); repeat' (first | with_reducible rfl | assumption | (simp; done) | (simp [*]; done) | (intro _) | rw [foldl_mem] | (apply issue_mem) | (apply issueBoth_mem) | (apply issueCell_mem) | split | simp)

@[simp] theorem execQuarantineRelease_mem (tower : Nat) (link : Nat) (s : State) {m : List Host.Cell} (hm : s.mem = m) :
    MemIs m (execQuarantineRelease tower link s) := by subst hm; simp [execQuarantineRelease]

@[simp] theorem execLinkDisable_mem (tower : Nat) (link : Nat) (s : State) {m : List Host.Cell} (hm : s.mem = m) :
    MemIs m (execLinkDisable tower link s) := by subst hm; simp [execLinkDisable]

@[simp] theorem execLstatClear_mem (tower : Nat) (link : Nat) (asym : BitVec 8) (s : State) {m : List Host.Cell} (hm : s.mem = m) :
    MemIs m (execLstatClear tower link asym s) := by subst hm; simp [execLstatClear]

@[simp] theorem servo_mem (off16 : Int) (s : State) :
    (servo off16 s).mem = s.mem := by unfold servo slew; dsimp only; repeat' (first | rfl | split)

@[simp] theorem execHostServoReply_mem (correction : ServoReply) (s : State) {m : List Host.Cell} (hm : s.mem = m) :
    MemIs m (execHostServoReply correction s) := by subst hm; unfold execHostServoReply; repeat' (first | (simp; done) | split)

@[simp] theorem execStaleTimeout_mem (tower : Nat) (link : Nat) (s : State) {m : List Host.Cell} (hm : s.mem = m) :
    MemIs m (execStaleTimeout tower link s) := by subst hm; simp [execStaleTimeout]

@[simp] theorem execSlotTableLoad_mem (tower : Nat) (port : Nat) (slot : Nat) (owner : Option Nat) (s : State) {m : List Host.Cell} (hm : s.mem = m) :
    MemIs m (execSlotTableLoad tower port slot owner s) := by subst hm; simp [execSlotTableLoad]

@[simp] theorem sendCredit_mem (tower port : Nat) (peer : BitVec 16) (s : State) : (sendCredit tower port peer s).mem = s.mem := by
  unfold sendCredit; (try dsimp only); repeat' (first | with_reducible rfl | assumption | (simp; done) | (simp [*]; done) | (intro _) | rw [foldl_mem] | (apply issue_mem) | (apply issueBoth_mem) | (apply issueCell_mem) | split | simp)

@[simp] theorem sendShort_mem (tower port : Nat) (s : State) : (sendShort tower port s).mem = s.mem := by
  unfold sendShort; (try dsimp only); repeat' (first | with_reducible rfl | assumption | (simp; done) | (simp [*]; done) | (intro _) | rw [foldl_mem] | (apply issue_mem) | (apply issueBoth_mem) | (apply issueCell_mem) | split | simp)

/-! ### Save -/

@[simp] theorem restoreCell_mem (lay : Nat) (c : Nat) (h : Share) (d : Desc) (b : List Byte) (k : Nat) (s : State) :
    (restoreCell lay c h d b k s).mem = s.mem := (rfl)

@[simp] theorem restoreCache_mem (lay : Nat) (x : Ctx) (b : List Byte) (k : Nat) (s : State) :
    (restoreCache lay x b k s).mem = s.mem := (rfl)

@[simp] theorem restoreBanks_mem (lay : Nat) (h : Share) (d : Desc) (b : List Byte) (k : Nat) (s : State) :
    (restoreBanks lay h d b k s).mem = s.mem := (rfl)

@[simp] theorem restoreAcc_mem (lay : Nat) (h : Share) (d : Desc) (b : List Byte) (k : Nat) (s : State) :
    (restoreAcc lay h d b k s).mem = s.mem := (rfl)

@[simp] theorem restorePlanes_mem (lay : Nat) (h : Share) (d : Desc) (b : List Byte) (k : Nat) (s : State) :
    (restorePlanes lay h d b k s).mem = s.mem := by
  unfold restorePlanes; (try dsimp only); repeat' (first | with_reducible rfl | assumption | (simp; done) | (simp [*]; done) | (intro _) | rw [foldl_mem] | (apply issue_mem) | (apply issueBoth_mem) | (apply issueCell_mem) | split | simp)

@[simp] theorem restoreParked_mem (lay : Nat) (c : Nat) (srid : Nat) (b : List Byte) (s : State) :
    (restoreParked lay c srid b s).mem = s.mem := by
  unfold restoreParked; (try dsimp only); repeat' (first | with_reducible rfl | assumption | (simp; done) | (simp [*]; done) | (intro _) | rw [foldl_mem] | (apply issue_mem) | (apply issueBoth_mem) | (apply issueCell_mem) | split | simp)

@[simp] theorem restoreReturns_mem (lay : Nat) (c : Nat) (b : List Byte) (s : State) :
    (restoreReturns lay c b s).mem = s.mem := by
  unfold restoreReturns; (try dsimp only); repeat' (first | with_reducible rfl | assumption | (simp; done) | (simp [*]; done) | (intro _) | rw [foldl_mem] | (apply issue_mem) | (apply issueBoth_mem) | (apply issueCell_mem) | split | simp)

@[simp] theorem relink_mem (lay : Nat) (c : Nat) (old : Nat) (b : List Byte) (s : State) :
    (relink lay c old b s).mem = s.mem := (rfl)

@[simp] theorem restoreTask_mem (lay : Nat) (c : Nat) (b : List Byte) (asid : BitVec 12) (s : State) :
    (restoreTask lay c b asid s).mem = s.mem := by
  unfold restoreTask; (try dsimp only); repeat' (first | with_reducible rfl | assumption | (simp; done) | (simp [*]; done) | (intro _) | rw [foldl_mem] | (apply issue_mem) | (apply issueBoth_mem) | (apply issueCell_mem) | split | simp)

/-! ### Launch -/

@[simp] theorem drainStatus_mem (s : State) :
    (drainStatus s).mem = s.mem := by
  unfold drainStatus; (try dsimp only); repeat' (first | with_reducible rfl | assumption | (simp; done) | (simp [*]; done) | (intro _) | rw [foldl_mem] | (apply issue_mem) | (apply issueBoth_mem) | (apply issueCell_mem) | split | simp)

@[simp] theorem execStatusRingFree_mem (n : Nat) (s : State) {w0 : List Host.Cell} (hm : s.mem = w0) :
    MemIs w0 (execStatusRingFree n s) := by subst hm; simp [execStatusRingFree]

@[simp] theorem execStavouxLinkFailure_mem (s : State) {w0 : List Host.Cell} (hm : s.mem = w0) :
    MemIs w0 (execStavouxLinkFailure s) := by subst hm; simp [execStavouxLinkFailure]

@[simp] theorem execStavouxLinkRetrain_mem (s : State) {w0 : List Host.Cell} (hm : s.mem = w0) :
    MemIs w0 (execStavouxLinkRetrain s) := by subst hm; simp [execStavouxLinkRetrain]

@[simp] theorem sendMsg_mem (tower : Nat) (pkg : BitVec 8) (dest : Nat) (m : ShortMsg) (s : State) :
    (sendMsg tower pkg dest m s).mem = s.mem := by simp [sendMsg]

@[simp] theorem gangMsg_mem (kind : Nat) (tower : Nat) (a : Launch) (s : State) :
    (gangMsg kind tower a s).mem = s.mem := by simp [gangMsg]

@[simp] theorem endRecord_mem (tower : Nat) (event : Nat) (cause : Nat) (a : Launch) (s : State) :
    (endRecord tower event cause a s).mem = s.mem := by simp [endRecord]

@[simp] theorem takeFrame_mem (header : BitVec 128) (record : BitVec 512) (save : Option Cap) (s : State) :
    (takeFrame header record save s).mem = s.mem := by simp [takeFrame]

@[simp] theorem execLaunchFrame_mem (header : BitVec 128) (record : BitVec 512) (s : State) {w0 : List Host.Cell} (hm : s.mem = w0) :
    MemIs w0 (execLaunchFrame header record s) := by subst hm; simp [execLaunchFrame]

@[simp] theorem execRestoreFrame_mem (header : BitVec 128) (record : BitVec 512) (save : Cap) (s : State) {w0 : List Host.Cell} (hm : s.mem = w0) :
    MemIs w0 (execRestoreFrame header record save s) := by subst hm; simp [execRestoreFrame]

@[simp] theorem popHead_mem (tower : Nat) (q : Nat) (s : State) :
    (popHead tower q s).mem = s.mem := (rfl)

@[simp] theorem setHead_mem (tower : Nat) (q : Nat) (r : LRec) (s : State) :
    (setHead tower q r s).mem = s.mem := (rfl)

@[simp] theorem clearShare_mem (lay : Nat) (c : Nat) (h : Share) (s : State) :
    (clearShare lay c h s).mem = s.mem := by
  unfold clearShare; (try dsimp only); repeat' (first | with_reducible rfl | assumption | (simp; done) | (simp [*]; done) | (intro _) | rw [foldl_mem] | (apply issue_mem) | (apply issueBoth_mem) | (apply issueCell_mem) | split | simp)

@[simp] theorem placeTask_mem (tower : Nat) (r : LRec) (p : Place) (b : List Byte) (saved : Option (List Byte)) (s : State) :
    (placeTask tower r p b saved s).mem = s.mem := by
  unfold placeTask
  cases saved with
  | none => dsimp only; rw [State.updTower_mem, State.setCtx_mem, State.updLayer_mem, clearShare_mem]
  | some w => dsimp only; rw [State.updTower_mem, restoreTask_mem, State.setCtx_mem, State.updLayer_mem, clearShare_mem]

@[simp] theorem updRunning_mem (tower : Nat) (id : Nat) (f : LRec → LRec) (s : State) :
    (updRunning tower id f s).mem = s.mem := (rfl)

@[simp] theorem startTask_mem (lay : Nat) (c : Nat) (s : State) :
    (startTask lay c s).mem = s.mem := by unfold startTask; repeat' (first | (simp; done) | split)

@[simp] theorem execPlacementComplete_mem (lay : Nat) (ctx : Nat) (s : State) {w0 : List Host.Cell} (hm : s.mem = w0) :
    MemIs w0 (execPlacementComplete lay ctx s) := by
  subst hm; unfold execPlacementComplete; (try dsimp only); repeat' (first | with_reducible rfl | assumption | (simp; done) | (simp [*]; done) | (intro _) | rw [foldl_mem] | (apply issue_mem) | (apply issueBoth_mem) | (apply issueCell_mem) | split | simp)

@[simp] theorem evalHead_mem (tower q fuel : Nat) : ∀ s : State, (evalHead tower q fuel s).mem = s.mem := by
  induction fuel with
  | zero => intro s; rfl
  | succ n ih =>
    intro s
    unfold evalHead
    split
    · rfl
    · split
      · rw [ih]; simp
      · split
        · rw [ih]; simp
        · simp

@[simp] theorem takeChoice_mem (tower : Nat) (c : Choice) (p : Place) (s : State) :
    (takeChoice tower c p s).mem = s.mem := by
  unfold takeChoice; (try dsimp only); repeat' (first | with_reducible rfl | assumption | (simp; done) | (simp [*]; done) | (intro _) | rw [foldl_mem] | (apply issue_mem) | (apply issueBoth_mem) | (apply issueCell_mem) | split | simp)

@[simp] theorem doneAsking_mem (s : State) (r : LRec) : (doneAsking s r).mem = s.mem := by
  unfold doneAsking; dsimp only; split <;> rfl

@[simp] theorem askPages_mem (tower : Nat) (s : State) : (askPages tower s).mem = s.mem :=
  foldl_mem _ (fun _ _ => askPage_mem _ _ _ _ _ _) _ _

@[simp] theorem evalHeads_mem (tower : Nat) (s : State) : (evalHeads tower s).mem = s.mem :=
  foldl_mem _ (fun _ _ => evalHead_mem _ _ _ _) _ _

@[simp] theorem execSchedulerSelect_mem (tower : Nat) (s : State) {w0 : List Host.Cell} (hm : s.mem = w0) :
    MemIs w0 (execSchedulerSelect tower s) := by
  have h : (askPages tower (evalHeads tower s)).mem = w0 := by simp [hm]
  unfold execSchedulerSelect
  generalize askPages tower (evalHeads tower s) = u at h
  dsimp only; split
  · exact h
  · split
    · split
      · split
        · exact h
        · exact (doneAsking_mem _ _).trans ((takeChoice_mem _ _ _ _).trans h)
      · exact h
    · exact h

@[simp] theorem execHeadAgeing_mem (tower : Nat) (queue : Nat) (s : State) {w0 : List Host.Cell} (hm : s.mem = w0) :
    MemIs w0 (execHeadAgeing tower queue s) := by subst hm; unfold execHeadAgeing; repeat' (first | (simp; done) | split)

@[simp] theorem execHostPlaceReply_mem (tower : Nat) (assign : Option (Nat × List (List Nat))) (s : State) {w0 : List Host.Cell} (hm : s.mem = w0) :
    MemIs w0 (execHostPlaceReply tower assign s) := by
  subst hm; unfold execHostPlaceReply; (try dsimp only); repeat' (first | with_reducible rfl | assumption | (simp; done) | (simp [*]; done) | (intro _) | rw [foldl_mem] | (apply issue_mem) | (apply issueBoth_mem) | (apply issueCell_mem) | split | simp)

@[simp] theorem vacate_mem (lay : Nat) (c : Nat) (s : State) :
    (vacate lay c s).mem = s.mem := (rfl)

@[simp] theorem execGangReady_mem (gid : BitVec 16) (gmi : Nat) (gcnt : Nat) (from_ : Nat) (s : State) {w0 : List Host.Cell} (hm : s.mem = w0) :
    MemIs w0 (execGangReady gid gmi gcnt from_ s) := by
  subst hm; unfold execGangReady; (try dsimp only); repeat' (first | with_reducible rfl | assumption | (simp; done) | (simp [*]; done) | (intro _) | rw [foldl_mem] | (apply issue_mem) | (apply issueBoth_mem) | (apply issueCell_mem) | split | simp)

@[simp] theorem execGangStart_mem (tower : Nat) (gid : BitVec 16) (tick : DWord) (s : State) {w0 : List Host.Cell} (hm : s.mem = w0) :
    MemIs w0 (execGangStart tower gid tick s) := by
  subst hm; unfold execGangStart; (try dsimp only); repeat' (first | with_reducible rfl | assumption | (simp; done) | (simp [*]; done) | (intro _) | rw [foldl_mem] | (apply issue_mem) | (apply issueBoth_mem) | (apply issueCell_mem) | split | simp)

@[simp] theorem execGangStartTick_mem (lay : Nat) (ctx : Nat) (s : State) {w0 : List Host.Cell} (hm : s.mem = w0) :
    MemIs w0 (execGangStartTick lay ctx s) := by
  subst hm; unfold execGangStartTick; (try dsimp only); repeat' (first | with_reducible rfl | assumption | (simp; done) | (simp [*]; done) | (intro _) | rw [foldl_mem] | (apply issue_mem) | (apply issueBoth_mem) | (apply issueCell_mem) | split | simp)

@[simp] theorem execGangTimeout_mem (gid : BitVec 16) (s : State) {w0 : List Host.Cell} (hm : s.mem = w0) :
    MemIs w0 (execGangTimeout gid s) := by
  subst hm; unfold execGangTimeout
  generalize gangTicks s 0 = n
  split
  · split
    · exact (MemIs_next _ _).2 rfl
    · split
      · exact (MemIs_next _ _).2 rfl
      · rw [MemIs_next]; exact foldl_mem _ (fun _ _ => sendMsg_mem _ _ _ _ _) _ _
  · exact (MemIs_next _ _).2 rfl

@[simp] theorem execGangAbort_mem (tower : Nat) (gid : BitVec 16) (s : State) {w0 : List Host.Cell} (hm : s.mem = w0) :
    MemIs w0 (execGangAbort tower gid s) := by
  subst hm; unfold execGangAbort; (try dsimp only); repeat' (first | with_reducible rfl | assumption | (simp; done) | (simp [*]; done) | (intro _) | rw [foldl_mem] | (apply issue_mem) | (apply issueBoth_mem) | (apply issueCell_mem) | split | simp)

@[simp] theorem failMembers_mem (tower : Nat) (gid : BitVec 16) (s : State) :
    (failMembers tower gid s).mem = s.mem := by
  unfold failMembers; (try dsimp only); repeat' (first | with_reducible rfl | assumption | (simp; done) | (simp [*]; done) | (intro _) | rw [foldl_mem] | (apply issue_mem) | (apply issueBoth_mem) | (apply issueCell_mem) | split | simp)

@[simp] theorem failGang_mem (gid : BitVec 16) (gcnt : Nat) (s : State) : (failGang gid gcnt s).mem = s.mem := by
  unfold failGang; split
  · rfl
  · exact foldl_mem _ (fun _ _ => sendMsg_mem _ _ _ _ _) _ _

@[simp] theorem execGangFail_mem (gid : BitVec 16) (s : State) {w0 : List Host.Cell} (hm : s.mem = w0) :
    MemIs w0 (execGangFail gid s) := by subst hm; simp [execGangFail]

@[simp] theorem deliverMsg_mem (tower : Nat) (m : ShortMsg) (s : State) {w : List Host.Cell} (hm : s.mem = w) :
    MemIs w (deliverMsg tower m s) := by
  subst hm
  unfold deliverMsg
  split
  · exact foldl_mem _ (by intro t h; simp) _ _
  · exact execEyeletWordArrival_mem _ _ _ _ rfl
  · simp
  · split <;> simp
  · simp

@[simp] theorem execShortNetworkSlot_mem (tower port : Nat) (s : State) {w0 : List Host.Cell} (hm : s.mem = w0) :
    MemIs w0 (execShortNetworkSlot tower port s) := by
  subst hm; unfold execShortNetworkSlot
  split
  · exact sendShort_mem _ _ _
  · split
    · exact deliverMsg_mem _ _ _ (State.updTower_mem _ _ _)
    · rfl

@[simp] theorem placeSupervisor_mem (lay : Nat) (s : State) : (placeSupervisor lay s).mem = s.mem := by
  unfold placeSupervisor
  split
  · rfl
  · extract_lets share
    clear_value share
    split
    · rfl
    · rw [State.setCtx_mem, State.updLayer_mem, clearShare_mem, State.setCtx_mem]

/-! ### Retire -/

@[simp] theorem leaveContext_mem (lay : Nat) (c : Nat) (new : Nat) (s : State) :
    (leaveContext lay c new s).mem = s.mem := by simp [leaveContext]

@[simp] theorem leaveForGood_mem (lay : Nat) (c : Nat) (s : State) :
    (leaveForGood lay c s).mem = s.mem := by simp [leaveForGood]

@[simp] theorem execTaskRetire_mem (lay : Nat) (ctx : Nat) (s : State) {m : List Host.Cell} (hm : s.mem = m) :
    MemIs m (execTaskRetire lay ctx s) := by
  subst hm; unfold execTaskRetire; (try dsimp only); repeat' (first | with_reducible rfl | assumption | (simp; done) | (simp [*]; done) | (intro _) | rw [foldl_mem] | (apply issue_mem) | (apply issueBoth_mem) | (apply issueCell_mem) | split | simp)

@[simp] theorem execKillRelease_mem (lay : Nat) (ctx : Nat) (s : State) {m : List Host.Cell} (hm : s.mem = m) :
    MemIs m (execKillRelease lay ctx s) := by
  subst hm; unfold execKillRelease; (try dsimp only); repeat' (first | with_reducible rfl | assumption | (simp; done) | (simp [*]; done) | (intro _) | rw [foldl_mem] | (apply issue_mem) | (apply issueBoth_mem) | (apply issueCell_mem) | split | simp)

@[simp] theorem deliverTrap_mem (lay : Nat) (c : Nat) (ws : List DWord) (s : State) :
    (deliverTrap lay c ws s).mem = s.mem := by simp [deliverTrap]

@[simp] theorem recordTrap_mem (lay : Nat) (c : Nat) (t : TrapInfo) (s : State) :
    (recordTrap lay c t s).mem = s.mem := by simp [recordTrap]

@[simp] theorem execTrapRecordWrite_mem (lay : Nat) (ctx : Nat) (s : State) {m : List Host.Cell} (hm : s.mem = m) :
    MemIs m (execTrapRecordWrite lay ctx s) := by
  subst hm; unfold execTrapRecordWrite; (try dsimp only); repeat' (first | with_reducible rfl | assumption | (simp; done) | (simp [*]; done) | (intro _) | rw [foldl_mem] | (apply issue_mem) | (apply issueBoth_mem) | (apply issueCell_mem) | split | simp)

@[simp] theorem dropHostTrap_mem (lay : Nat) (c : Nat) (s : State) :
    (dropHostTrap lay c s).mem = s.mem := (rfl)

@[simp] theorem execHostTrapResume_mem (lay : Nat) (ctx : Nat) (s : State) {m : List Host.Cell} (hm : s.mem = m) :
    MemIs m (execHostTrapResume lay ctx s) := by subst hm; unfold execHostTrapResume; repeat' (first | (simp; done) | split)

@[simp] theorem redeliverFaults_mem (lay : Nat) (s : State) :
    (redeliverFaults lay s).mem = s.mem := by
  unfold redeliverFaults; (try dsimp only); repeat' (first | with_reducible rfl | assumption | (simp; done) | (simp [*]; done) | (intro _) | rw [foldl_mem] | (apply issue_mem) | (apply issueBoth_mem) | (apply issueCell_mem) | split | simp)

@[simp] theorem execHostTrapKill_mem (lay : Nat) (ctx : Nat) (s : State) {m : List Host.Cell} (hm : s.mem = m) :
    MemIs m (execHostTrapKill lay ctx s) := by
  subst hm; unfold execHostTrapKill; (try dsimp only); repeat' (first | with_reducible rfl | assumption | (simp; done) | (simp [*]; done) | (intro _) | rw [foldl_mem] | (apply issue_mem) | (apply issueBoth_mem) | (apply issueCell_mem) | split | simp)

@[simp] theorem writePreq_mem (lay : Nat) (w : DWord) (s : State) :
    (writePreq lay w s).mem = s.mem := by simp [writePreq]

@[simp] theorem execPreqSave_mem (lay : Nat) (ctx : Nat) (gsel : Nat) (s : State) {m : List Host.Cell} (hm : s.mem = m) :
    MemIs m (execPreqSave lay ctx gsel s) := by subst hm; simp [execPreqSave]

@[simp] theorem execPreqKill_mem (lay : Nat) (ctx : Nat) (s : State) {m : List Host.Cell} (hm : s.mem = m) :
    MemIs m (execPreqKill lay ctx s) := by subst hm; simp [execPreqKill]

@[simp] theorem endPreq_mem (lay : Nat) (res : BitVec 2) (s : State) :
    (endPreq lay res s).mem = s.mem := (rfl)

@[simp] theorem execHostPreemptRecord_mem (lay : Nat) (ctx : Nat) (kill : Bool) (area : Cap) (s : State) {m : List Host.Cell} (hm : s.mem = m) :
    MemIs m (execHostPreemptRecord lay ctx kill area s) := by subst hm; unfold execHostPreemptRecord; repeat' (first | (simp; done) | split)

@[simp] theorem beginPreempt_mem (lay : Nat) (c : Nat) (s : State) :
    (beginPreempt lay c s).mem = s.mem := (rfl)

@[simp] theorem withdrawParked_mem (key : Nat) (s : State) : (withdrawParked key s).mem = s.mem := (rfl)

@[simp] theorem execPreemptEffect_mem (lay : Nat) (ctx : Nat) (s : State) {m : List Host.Cell} (hm : s.mem = m) :
    MemIs m (execPreemptEffect lay ctx s) := by
  subst hm; unfold execPreemptEffect; (try dsimp only); repeat' (first | with_reducible rfl | assumption | (simp; done) | (simp [*]; done) | (intro _) | rw [foldl_mem] | (apply issue_mem) | (apply issueBoth_mem) | (apply issueCell_mem) | split | simp)

@[simp] theorem refuseSave_mem (lay : Nat) (c : Nat) (s : State) :
    (refuseSave lay c s).mem = s.mem := (rfl)

@[simp] theorem finishSave_mem (lay : Nat) (c : Nat) (srid : Nat) (area : Cap) (s : State) :
    (finishSave lay c srid area s).mem = s.mem := by simp [finishSave]

@[simp] theorem sweepGone_mem (s : State) :
    (sweepGone s).mem = s.mem := (rfl)

/-! ### Power -/

@[simp] theorem tickTransition_mem (lay : Nat) (s : State) :
    (tickTransition lay s).mem = s.mem := by
  unfold tickTransition; (try dsimp only); repeat' (first | with_reducible rfl | assumption | (simp; done) | (simp [*]; done) | (intro _) | rw [foldl_mem] | (apply issue_mem) | (apply issueBoth_mem) | (apply issueCell_mem) | split | simp)

@[simp] theorem enterOff_mem (lay : Nat) (s : State) :
    (enterOff lay s).mem = s.mem := by
  unfold enterOff; (try dsimp only); repeat' (first | with_reducible rfl | assumption | (simp; done) | (simp [*]; done) | (intro _) | rw [foldl_mem] | (apply issue_mem) | (apply issueBoth_mem) | (apply issueCell_mem) | split | simp)

@[simp] theorem takeBack_mem (lay : Nat) (s : State) :
    (takeBack lay s).mem = s.mem := by
  unfold takeBack; (try dsimp only); repeat' (first | with_reducible rfl | assumption | (simp; done) | (simp [*]; done) | (intro _) | rw [foldl_mem] | (apply issue_mem) | (apply issueBoth_mem) | (apply issueCell_mem) | split | simp)

@[simp] theorem execDivChange_mem (tower : Nat) (s : State) {m : List Host.Cell} (hm : s.mem = m) :
    MemIs m (execDivChange tower s) := by
  subst hm; unfold execDivChange; (try dsimp only); repeat' (first | with_reducible rfl | assumption | (simp; done) | (simp [*]; done) | (intro _) | rw [foldl_mem] | (apply issue_mem) | (apply issueBoth_mem) | (apply issueCell_mem) | split | simp)

@[simp] theorem execPowerCheck_mem (watts : BitVec 16) (s : State) {m : List Host.Cell} (hm : s.mem = m) :
    MemIs m (execPowerCheck watts s) := by
  subst hm; unfold execPowerCheck; (try dsimp only); repeat' (first | with_reducible rfl | assumption | (simp; done) | (simp [*]; done) | (intro _) | rw [foldl_mem] | (apply issue_mem) | (apply issueBoth_mem) | (apply issueCell_mem) | split | simp)

@[simp] theorem execJunctionHot_mem (tower : Nat) (tj : BitVec 8) (s : State) {m : List Host.Cell} (hm : s.mem = m) :
    MemIs m (execJunctionHot tower tj s) := by subst hm; simp [execJunctionHot]

@[simp] theorem execJunctionCooled_mem (tower : Nat) (tj : BitVec 8) (s : State) {m : List Host.Cell} (hm : s.mem = m) :
    MemIs m (execJunctionCooled tower tj s) := by subst hm; simp [execJunctionCooled]

@[simp] theorem dropQueues_mem (lay : Nat) (s : State) :
    (dropQueues lay s).mem = s.mem := (rfl)

@[simp] theorem killAll_mem (lay : Nat) (s : State) :
    (killAll lay s).mem = s.mem := by
  unfold killAll; (try dsimp only); repeat' (first | with_reducible rfl | assumption | (simp; done) | (simp [*]; done) | (intro _) | rw [foldl_mem] | (apply issue_mem) | (apply issueBoth_mem) | (apply issueCell_mem) | split | simp)

/-! ### Reliab -/

@[simp] theorem errorRecord_mem (code : Nat) (kind : Nat) (tower : Nat) (phys : Nat) (cell : Nat) (ctx : Nat) (loc : DWord) (s : State) :
    (errorRecord code kind tower phys cell ctx loc s).mem = s.mem := (rfl)

@[simp] theorem failTask_mem (lay : Nat) (c : Nat) (phys : Nat) (s : State) :
    (failTask lay c phys s).mem = s.mem := by simp [failTask]

@[simp] theorem salvageFlags_mem (lay : Nat) (s : State) :
    (salvageFlags lay s).mem = s.mem := by
  unfold salvageFlags; (try dsimp only); repeat' (first | with_reducible rfl | assumption | (simp; done) | (simp [*]; done) | (intro _) | rw [foldl_mem] | (apply issue_mem) | (apply issueBoth_mem) | (apply issueCell_mem) | split | simp)

@[simp] theorem useSpare_mem (tower : Nat) (logical : Nat) (phys : Nat) (s : State) :
    (useSpare tower logical phys s).mem = s.mem := (rfl)

@[simp] theorem becomeAbsent_mem (tower logical : Nat) (s : State) : (becomeAbsent tower logical s).mem = s.mem := (rfl)

@[simp] theorem execHostSpareReply_mem (tower : Nat) (logical : Nat) (s : State) {m : List Host.Cell} (hm : s.mem = m) :
    MemIs m (execHostSpareReply tower logical s) := by subst hm; unfold execHostSpareReply; repeat' (first | (simp; done) | split)

@[simp] theorem reloadLast_mem (lay cell ctx entry : Nat) (s : State) : (reloadLast lay cell ctx entry s).mem = s.mem := by
  unfold reloadLast; (try dsimp only); repeat' (first | with_reducible rfl | assumption | (simp; done) | (simp [*]; done) | (intro _) | rw [foldl_mem] | (apply issue_mem) | (apply issueBoth_mem) | (apply issueCell_mem) | split | simp)

@[simp] theorem spoilRow_mem (lay cell row : Nat) (s : State) : (spoilRow lay cell row s).mem = s.mem := (rfl)

@[simp] theorem raiseUncorr_mem (lay ctx code cell loc : Nat) (s : State) : (raiseUncorr lay ctx code cell loc s).mem = s.mem := by
  unfold raiseUncorr; (try dsimp only); repeat' (first | with_reducible rfl | assumption | (simp; done) | (simp [*]; done) | (intro _) | rw [foldl_mem] | (apply issue_mem) | (apply issueBoth_mem) | (apply issueCell_mem) | split | simp)

@[simp] theorem freezeOnce_mem (lay : Nat) (s : State) :
    (freezeOnce lay s).mem = s.mem := by unfold freezeOnce; split <;> simp

@[simp] theorem refetchMirror_mem (lay : Nat) (cell : Nat) (loc : Nat) (s : State) :
    (refetchMirror lay cell loc s).mem = s.mem := (rfl)

@[simp] theorem rewriteKeeper_mem (tower : Nat) (loc : Nat) (s : State) :
    (rewriteKeeper tower loc s).mem = s.mem := (rfl)

@[simp] theorem poisonReads_mem (loc : Nat) (s : State) :
    (poisonReads loc s).mem = s.mem := (rfl)

@[simp] theorem execColumnRetryExcess_mem (tower : Nat) (col : Nat) (s : State) {m : List Host.Cell} (hm : s.mem = m) :
    MemIs m (execColumnRetryExcess tower col s) := by subst hm; unfold execColumnRetryExcess; repeat' (first | (simp; done) | split)

@[simp] theorem execTelemetryReadClear_mem (tower : Nat) (s : State) {m : List Host.Cell} (hm : s.mem = m) :
    MemIs m (execTelemetryReadClear tower s) := by subst hm; simp [execTelemetryReadClear]

/-! ### Boot -/

@[simp] theorem execKcapInstall_mem (key : SealedKey) (s : State) {w0 : List Host.Cell} (hm : s.mem = w0) :
    MemIs w0 (execKcapInstall key s) := by subst hm; unfold execKcapInstall; repeat' (first | (simp; done) | split)

@[simp] theorem releaseLayer_mem (lay : Nat) (s : State) :
    (releaseLayer lay s).mem = s.mem := by simp [releaseLayer]

@[simp] theorem execSupervisorInstall_mem (image : SupImage) (s : State) {w0 : List Host.Cell} (hm : s.mem = w0) :
    MemIs w0 (execSupervisorInstall image s) := by
  subst hm; unfold execSupervisorInstall; dsimp only
  split
  · split
    · exact (foldl_mem _ (fun t l => releaseLayer_mem l t) _ _).trans rfl
    · exact alarm_mem _ _
  · split <;> exact rfl

@[simp] theorem execAttestationRequest_mem (nonce : BitVec 256) (s : State) {w0 : List Host.Cell} (hm : s.mem = w0) :
    MemIs w0 (execAttestationRequest nonce s) := by subst hm; simp [execAttestationRequest]

/-! ### Cycle -/

theorem maybe_mem (f : State → Res) (s : State) (h : ∀ t, MemIs t.mem (f t)) {w0 : List Host.Cell} (hm : s.mem = w0) :
    MemIs w0 (maybe f s) := by
  subst hm; unfold maybe; dsimp only; split
  · exact h _
  · simp

theorem pureRes_mem (f : State → State) (s : State) (h : ∀ t, (f t).mem = t.mem) {w0 : List Host.Cell} (hm : s.mem = w0) :
    MemIs w0 (pureRes f s) := by subst hm; exact h s

@[simp] theorem frameEnd_mem (tower : Nat) (s : State) {w0 : List Host.Cell} (hm : s.mem = w0) :
    MemIs w0 (frameEnd tower s) := by
  subst hm; unfold frameEnd; (try dsimp only); repeat' (first | with_reducible rfl | assumption | (simp; done) | (simp [*]; done) | (intro _) | rw [foldl_mem] | (apply issue_mem) | (apply issueBoth_mem) | (apply issueCell_mem) | rw [inTurn_cons] | rw [waitHere_mem] | rw [loadLine_mem] | (apply microWord_mem) | rw [copyCell_mem] | rw [portRead_mem] | (apply maybe_mem) | (apply pureRes_mem) | (apply andThen_mem) | (apply forAll_mem) | split | simp)

@[simp] theorem shortWork_mem (tower : Nat) (s : State) {w0 : List Host.Cell} (hm : s.mem = w0) :
    MemIs w0 (shortWork tower s) := by
  subst hm; unfold shortWork; dsimp only
  rw [inTurn_cons]
  refine andThen_mem _ _ _ (forAll_mem _ (fun lay t => forAll_mem _ (fun e u => ?_) _ _ rfl) _ _ rfl) (fun t ht => ?_)
  · split
    · exact rfl
    · exact maybe_mem _ _ (fun v => execEyeletWordSend_mem _ _ _ rfl) rfl
  · rw [inTurn_cons]
    refine andThen_mem _ _ _ ?_ (fun u hu => hu)
    split
    · exact ht
    · refine forAll_mem _ (fun p u => ?_) _ _ ht
      split
      · exact execShortNetworkSlot_mem _ _ _ rfl
      · exact maybe_mem _ _ (fun v => execShortNetworkSlot_mem _ _ _ rfl) rfl

@[simp] theorem sendWork_mem (s : State) {w0 : List Host.Cell} (hm : s.mem = w0) :
    MemIs w0 (sendWork s) := by
  subst hm; unfold sendWork; (try dsimp only); repeat' (first | with_reducible rfl | assumption | (simp; done) | (simp [*]; done) | (intro _) | rw [foldl_mem] | (apply issue_mem) | (apply issueBoth_mem) | (apply issueCell_mem) | rw [inTurn_cons] | rw [waitHere_mem] | rw [loadLine_mem] | (apply microWord_mem) | rw [copyCell_mem] | rw [portRead_mem] | (apply maybe_mem) | (apply pureRes_mem) | (apply andThen_mem) | (apply forAll_mem) | split | simp)

@[simp] theorem planWork_mem (s : State) {w0 : List Host.Cell} (hm : s.mem = w0) :
    MemIs w0 (planWork s) := by
  subst hm; unfold planWork; (try dsimp only); repeat' (first | with_reducible rfl | assumption | (simp; done) | (simp [*]; done) | (intro _) | rw [foldl_mem] | (apply issue_mem) | (apply issueBoth_mem) | (apply issueCell_mem) | rw [inTurn_cons] | rw [waitHere_mem] | rw [loadLine_mem] | (apply microWord_mem) | rw [copyCell_mem] | rw [portRead_mem] | (apply maybe_mem) | (apply pureRes_mem) | (apply andThen_mem) | (apply forAll_mem) | split | simp)

@[simp] theorem layerWaits_mem (lay : Nat) (s : State) {w0 : List Host.Cell} (hm : s.mem = w0) :
    MemIs w0 (layerWaits lay s) := by
  subst hm; unfold layerWaits; (try dsimp only); repeat' (first | with_reducible rfl | assumption | (simp; done) | (simp [*]; done) | (intro _) | rw [foldl_mem] | (apply issue_mem) | (apply issueBoth_mem) | (apply issueCell_mem) | rw [inTurn_cons] | rw [waitHere_mem] | rw [loadLine_mem] | (apply microWord_mem) | rw [copyCell_mem] | rw [portRead_mem] | (apply maybe_mem) | (apply pureRes_mem) | (apply andThen_mem) | (apply forAll_mem) | split | simp)

@[simp] theorem placements_mem (tower : Nat) (s : State) {w0 : List Host.Cell} (hm : s.mem = w0) :
    MemIs w0 (placements tower s) := by
  subst hm; unfold placements; (try dsimp only); repeat' (first | with_reducible rfl | assumption | (simp; done) | (simp [*]; done) | (intro _) | rw [foldl_mem] | (apply issue_mem) | (apply issueBoth_mem) | (apply issueCell_mem) | rw [inTurn_cons] | rw [waitHere_mem] | rw [loadLine_mem] | (apply microWord_mem) | rw [copyCell_mem] | rw [portRead_mem] | (apply maybe_mem) | (apply pureRes_mem) | (apply andThen_mem) | (apply forAll_mem) | split | simp)

@[simp] theorem scheduler_mem (tower : Nat) (s : State) {w0 : List Host.Cell} (hm : s.mem = w0) :
    MemIs w0 (scheduler tower s) := by
  unfold scheduler
  with_reducible refine inTurn_cons_mem (fun t ht => ?_) (fun t ht => ?_) s hm
  · with_reducible exact pureRes_mem _ _ (fun u => evalHeads_mem tower u) ht
  · with_reducible refine inTurn_cons_mem (fun t ht => ?_) (fun t ht => ?_) t ht
    · with_reducible exact forAll_mem _ (fun q u => execHeadAgeing_mem tower q u rfl) _ _ ht
    · with_reducible refine inTurn_cons_mem (fun t ht => ?_) (fun t ht => ?_) t ht
      · with_reducible exact execSchedulerSelect_mem tower t ht
      · with_reducible refine inTurn_cons_mem (fun t ht => ?_) (fun t ht => ?_) t ht
        · with_reducible exact placements_mem tower t ht
        · simp [ht]

@[simp] theorem evalWaits_mem (s : State) {w0 : List Host.Cell} (hm : s.mem = w0) : MemIs w0 (evalWaits s) := by
  unfold evalWaits
  with_reducible refine inTurn_cons_mem (fun t ht => ?_) (fun t ht => ?_) s hm
  · with_reducible exact forAll_mem _ (fun l u => layerWaits_mem l u rfl) _ _ ht
  · with_reducible refine inTurn_cons_mem (fun t ht => ?_) (fun t ht => ?_) t ht
    · with_reducible exact forAll_mem _ (fun l u => scheduler_mem l u rfl) _ _ ht
    · with_reducible refine inTurn_cons_mem (fun t ht => ?_) (fun t ht => ?_) t ht
      · with_reducible exact forAll_mem _ (fun g u => execGangTimeout_mem g u rfl) _ _ ht
      · with_reducible refine inTurn_cons_mem (fun t ht => ?_) (fun t ht => ?_) t ht
        · refine pureRes_mem _ _ ?_ ht; intro u; rfl
        · simp [ht]

@[simp] theorem stopLayer_mem (lay : Nat) (s : State) : (stopLayer lay s).mem = s.mem := by
  unfold stopLayer; dsimp only
  rw [State.updLayer_mem]
  exact foldl_mem _ (fun u c => killTask_mem lay c u) _ _

@[simp] theorem execJunctionCritical_mem (tower : Nat) (tj : BitVec 8) (s : State) {w0 : List Host.Cell} (hm : s.mem = w0) :
    MemIs w0 (execJunctionCritical tower tj s) := by
  subst hm; unfold execJunctionCritical; dsimp only; split
  · exact State.updTower_mem _ _ _
  · exact (alarm_mem _ _).trans ((foldl_mem _ (fun u n => stopLayer_mem _ u) _ _).trans (State.updTower_mem _ _ _))

@[simp] theorem passStall_mem (lay : Nat) (s : State) : (passStall lay s).mem = s.mem := by
  unfold passStall; split <;> rfl

@[simp] theorem countCtx_mem (key : Nat) (s : State) :
    (countCtx key s).mem = s.mem := by simp [countCtx]

@[simp] theorem slewed_mem (d : Nat) (s : State) : (slewed d s).2.mem = s.mem := by
  unfold slewed; dsimp only; split <;> rfl

@[simp] theorem finishCycle_mem (s : State) : (finishCycle s).mem = s.mem := by
  have h : ∀ u : State, (u.choose.2.choose.2).mem = u.mem := fun u => rfl
  unfold finishCycle; dsimp only
  refine (foldl_mem _ (fun u t => State.updTower_mem u t _) _ _).trans ?_
  rw [slewed_mem, h, foldl_mem _ (fun u l => tickTransition_mem l u), foldl_mem _ (fun u k => countCtx_mem k u)]

@[simp] theorem placeWord_mem (s : State) (w : Word) :
    (placeWord s w).mem = s.mem := by simp [placeWord]

/-! ### Step -/

@[simp] theorem State.withFetchWord_mem (s : State) (nbits : Nat) (w : Nat) :
    (State.withFetchWord s nbits w).mem = s.mem := by simp [State.withFetchWord]

end Sys2Proof.Machine
end

