-- ==== Sys2Proof/Laws/MemWf.lean ====
section
/-!
SUPPORT. Memory stays canonical: one lemma, named after it with _wf, for each operation and meaning that may store to HBM.
-/

namespace Sys2Proof.Machine

/-- A meaning's answer, if it is a next state, has canonical memory. -/
def WfIs (r : Res) : Prop :=
  match r with
  | .next t => Memory.wf t.mem = true
  | .fault _ => True
  | .refused _ => True

@[simp] theorem WfIs_next (t : State) : WfIs (.next t) ↔ Memory.wf t.mem = true := Iff.rfl
@[simp] theorem WfIs_fault (e : Fault) : WfIs (.fault e) ↔ True := Iff.rfl
@[simp] theorem WfIs_refused (e : Refusal) : WfIs (.refused e) ↔ True := Iff.rfl

/-- A meaning that leaves memory alone keeps it canonical. -/
theorem WfIs_of_MemIs {m : List Host.Cell} {r : Res} (hm : Memory.wf m = true) (h : MemIs m r) : WfIs r := by
  cases r <;> simp_all

theorem foldl_wf {β : Type} (f : State → β → State) (h : ∀ s x, Memory.wf s.mem = true → Memory.wf (f s x).mem = true)
    (l : List β) : ∀ s, Memory.wf s.mem = true → Memory.wf (l.foldl f s).mem = true := by
  induction l with
  | nil => intro s hs; exact hs
  | cons a r ih => intro s hs; exact ih _ (h s a hs)

theorem andThen_wf {r : Res} {f : State → Res} (hr : WfIs r) (hf : ∀ t, Memory.wf t.mem = true → WfIs (f t)) :
    WfIs (andThen r f) := by
  cases r <;> simp_all [andThen]

theorem forAll_wf {β : Type} {f : β → State → Res} (h : ∀ x s, Memory.wf s.mem = true → WfIs (f x s)) (l : List β)
    {s : State} (hs : Memory.wf s.mem = true) : WfIs (forAll l f s) := by
  have : ∀ (l : List β) (r : Res), WfIs r → WfIs (l.foldl (fun r x => andThen r (f x)) r) := by
    intro l
    induction l with
    | nil => intro r hr; exact hr
    | cons a q ih => intro r hr; exact ih _ (andThen_wf hr (fun t ht => h a t ht))
  exact this l (.next s) hs

theorem inTurn_wf {fs : List (State → Res)} (h : ∀ f ∈ fs, ∀ t, Memory.wf t.mem = true → WfIs (f t)) :
    ∀ {s : State}, Memory.wf s.mem = true → WfIs (inTurn fs s) := by
  induction fs with
  | nil => intro s hs; exact hs
  | cons f q ih =>
    intro s hs
    rw [inTurn_cons]
    exact andThen_wf (h f (by simp) s hs) (fun t ht => ih (fun g hg => h g (by simp [hg])) ht)

theorem ite_wf {p : Prop} [Decidable p] {a b : Res} (ha : WfIs a) (hb : WfIs b) : WfIs (if p then a else b) := by
  split
  · exact ha
  · exact hb

theorem maybe_wf {f : State → Res} {s : State} (h : ∀ t, Memory.wf t.mem = true → WfIs (f t)) (hs : Memory.wf s.mem = true) :
    WfIs (maybe f s) := by
  unfold maybe; dsimp only; split
  · exact h _ hs
  · exact hs

theorem pureRes_wf {f : State → State} {s : State} (h : Memory.wf (f s).mem = true) : WfIs (pureRes f s) := h

theorem writeRuns_wf (tower : Nat) (o : BitVec 24) (asid : BitVec 12) : ∀ (rs : List (Nat × Nat)) (b : List Byte) (s t : State),
    Memory.wf s.mem = true → writeRuns tower o asid rs b s = some t → Memory.wf t.mem = true := by
  intro rs
  induction rs with
  | nil => intro b s t hs h; simp [writeRuns] at h; exact h ▸ hs
  | cons r rs ih =>
    intro b s t hs h
    unfold writeRuns at h
    split at h
    · exact ih _ _ _ (writeMem_wf _ _ _ hs) h
    · exact ih _ _ _ (by rw [noteRetired_mem]; exact hs) h
    · exact ih _ _ _ hs h
    · cases h

theorem writeObj_wf (tower : Nat) (o : BitVec 24) (off : Nat) (b : List Byte) (asid : BitVec 12) (s t : State)
    (hs : Memory.wf s.mem = true) (h : writeObj tower o off b asid s = some t) : Memory.wf t.mem = true :=
  writeRuns_wf _ _ _ _ _ _ _ hs h

@[simp] theorem recordDec_wf (v : Saved) (off n : Nat) (s : State) (hs : Memory.wf s.mem = true) :
    Memory.wf (recordDec v off n s).mem = true := by
  unfold recordDec; dsimp only
  split
  · rename_i h; exact writeObj_wf _ _ _ _ _ _ _ hs h
  · exact hs

@[simp] theorem itemEnd_wf (srid : Nat) (ctr : Option Nat) (s : State) (hs : Memory.wf s.mem = true) :
    Memory.wf (itemEnd srid ctr s).mem = true := by
  unfold itemEnd; (try dsimp only); repeat' (first | assumption | (simp [*]; done) | (simp_all; done) | (intro _) | (apply foldl_wf) | (apply recordDec_wf) | (apply WfIs_of_MemIs hs; (simp; done)) | (refine WfIs_of_MemIs (m := State.mem _) ?_ (by simp; done)) | split | rw [portRead_mem] | simp)

@[simp] theorem counterDown_wf (key : Nat) (n : Nat) (s : State) (hs : Memory.wf s.mem = true) :
    Memory.wf (counterDown key n s).mem = true := by
  unfold counterDown; (try dsimp only); repeat' (first | assumption | (simp [*]; done) | (simp_all; done) | (intro _) | (apply foldl_wf) | (apply recordDec_wf) | (apply WfIs_of_MemIs hs; (simp; done)) | (refine WfIs_of_MemIs (m := State.mem _) ?_ (by simp; done)) | split | rw [portRead_mem] | simp)

@[simp] theorem drainDown_wf (key : Nat) (n : Nat) (s : State) (hs : Memory.wf s.mem = true) :
    Memory.wf (drainDown key n s).mem = true := by
  unfold drainDown; (try dsimp only); repeat' (first | assumption | (simp [*]; done) | (simp_all; done) | (intro _) | (apply foldl_wf) | (apply itemEnd_wf) | (apply counterDown_wf) | (apply WfIs_of_MemIs hs; (simp; done)) | (refine WfIs_of_MemIs (m := State.mem _) ?_ (by simp; done)) | split | rw [portRead_mem] | simp)

theorem portRead_wf (e : Released) (o : BitVec 24) (off n : Nat) (k : List Byte → Bool → State → State) (s : State)
    (h : ∀ a b t, Memory.wf t.mem = true → Memory.wf (k a b t).mem = true) (hs : Memory.wf s.mem = true) :
    Memory.wf (portRead e o off n k s).mem = true := by
  unfold portRead
  split
  · exact hs
  · dsimp only
    split
    · refine h _ _ _ ?_
      rw [dropPages_mem, countRetired_mem]
      split
      · exact hs
      · exact hs
    · rw [pgKill_mem]; exact hs
    · rw [pushReq_mem]; exact hs
    · rw [pushReq_mem, openFault_mem]; exact hs

@[simp] theorem perform_wf (e : Released) (s : State) (hs : Memory.wf s.mem = true) :
    Memory.wf (perform e s).mem = true := by
  unfold perform; (try dsimp only); repeat' (first | assumption | (simp [*]; done) | (simp_all; done) | (intro _) | (apply foldl_wf) | (apply portRead_wf) | (apply counterDown_wf) | (apply drainDown_wf) | (apply WfIs_of_MemIs hs; (simp; done)) | (refine WfIs_of_MemIs (m := State.mem _) ?_ (by simp; done)) | split | rw [portRead_mem] | simp)

@[simp] theorem pump_wf (s : State) (hs : Memory.wf s.mem = true) :
    Memory.wf (pump s).mem = true := by
  unfold pump; (try dsimp only); repeat' (first | assumption | (simp [*]; done) | (simp_all; done) | (intro _) | (apply foldl_wf) | (apply perform_wf) | (apply WfIs_of_MemIs hs; (simp; done)) | (refine WfIs_of_MemIs (m := State.mem _) ?_ (by simp; done)) | split | rw [portRead_mem] | simp)

@[simp] theorem settleOne_wf (e : Released) (s : State) (hs : Memory.wf s.mem = true) :
    Memory.wf (settleOne e s).mem = true := by
  unfold settleOne; (try dsimp only); repeat' (first | assumption | (simp [*]; done) | (simp_all; done) | (intro _) | (apply foldl_wf) | (apply counterDown_wf) | (apply drainDown_wf) | (apply WfIs_of_MemIs hs; (simp; done)) | (refine WfIs_of_MemIs (m := State.mem _) ?_ (by simp; done)) | split | rw [portRead_mem] | simp)

@[simp] theorem settleReleased_wf (s : State) (hs : Memory.wf s.mem = true) :
    Memory.wf (settleReleased s).mem = true := foldl_wf _ (fun _ _ h => settleOne_wf _ _ h) _ _ hs

@[simp] theorem settleLayer_wf (lay : Nat) (s : State) (hs : Memory.wf s.mem = true) :
    Memory.wf (settleLayer lay s).mem = true := foldl_wf _ (fun _ _ h => settleOne_wf _ _ h) _ _ hs

@[simp] theorem execReleaseWaitEnd_wf (eff : Nat) (s : State) (hs : Memory.wf s.mem = true) :
    WfIs (execReleaseWaitEnd eff s) := by
  unfold execReleaseWaitEnd; (try dsimp only); repeat' (first | assumption | (simp [*]; done) | (simp_all; done) | (intro _) | (apply foldl_wf) | (apply perform_wf) | (apply WfIs_of_MemIs hs; (simp; done)) | (refine WfIs_of_MemIs (m := State.mem _) ?_ (by simp; done)) | split | rw [portRead_mem] | simp)

@[simp] theorem execEpushDeferred_wf (lay : Nat) (ctx : Nat) (s : State) (hs : Memory.wf s.mem = true) :
    WfIs (execEpushDeferred lay ctx s) := by
  unfold execEpushDeferred; (try dsimp only); repeat' (first | assumption | (simp [*]; done) | (simp_all; done) | (intro _) | (apply foldl_wf) | (apply perform_wf) | (apply pump_wf) | (apply WfIs_of_MemIs hs; (simp; done)) | (refine WfIs_of_MemIs (m := State.mem _) ?_ (by simp; done)) | split | rw [portRead_mem] | simp)

@[simp] theorem execTlaunchDeferredAppend_wf (lay : Nat) (ctx : Nat) (s : State) (hs : Memory.wf s.mem = true) :
    WfIs (execTlaunchDeferredAppend lay ctx s) := by
  unfold execTlaunchDeferredAppend; (try dsimp only); repeat' (first | assumption | (simp [*]; done) | (simp_all; done) | (intro _) | (apply foldl_wf) | (apply pump_wf) | (apply WfIs_of_MemIs hs; (simp; done)) | (refine WfIs_of_MemIs (m := State.mem _) ?_ (by simp; done)) | split | rw [portRead_mem] | simp)

@[simp] theorem commitOldest_wf (lay : Nat) (c : Nat) (s : State) (hs : Memory.wf s.mem = true) :
    Memory.wf (commitOldest lay c s).mem = true := by
  unfold commitOldest; (try dsimp only); repeat' (first | assumption | (simp [*]; done) | (simp_all; done) | (intro _) | (apply foldl_wf) | (apply pump_wf) | (apply WfIs_of_MemIs hs; (simp; done)) | (refine WfIs_of_MemIs (m := State.mem _) ?_ (by simp; done)) | split | rw [portRead_mem] | simp)

@[simp] theorem execRegionCommit_wf (lay : Nat) (ctx : Nat) (s : State) (hs : Memory.wf s.mem = true) :
    WfIs (execRegionCommit lay ctx s) := by
  unfold execRegionCommit; (try dsimp only); repeat' (first | assumption | (simp [*]; done) | (simp_all; done) | (intro _) | (apply foldl_wf) | (apply commitOldest_wf) | (apply WfIs_of_MemIs hs; (simp; done)) | (refine WfIs_of_MemIs (m := State.mem _) ?_ (by simp; done)) | split | rw [portRead_mem] | simp)

@[simp] theorem commitAll_wf (lay : Nat) (cs : List Nat) (s : State) (hs : Memory.wf s.mem = true) :
    Memory.wf (commitAll lay cs s).mem = true := by
  unfold commitAll
  refine settleLayer_wf _ _ ?_
  rw [settleOuts_mem]
  exact foldl_wf _ (fun t c ht => commitOldest_wf _ _ _ ht) _ _ hs

@[simp] theorem stepFront_wf (lay : Nat) (s : State) (hs : Memory.wf s.mem = true) :
    Memory.wf (stepFront lay s).mem = true := by
  unfold stepFront
  extract_lets s1 s2 s3 s4 s5
  have h5 : s5.mem = s.mem := by
    rw [debugCells_mem, sendHalos_mem, show s3.mem = s2.mem from foldl_mem _ (fun t k => runRoutine_mem k t) _ _,
      runCells_mem, landReturns_mem]
  clear_value s5
  exact commitAll_wf _ _ _ (by rw [State.updLayer_mem, h5]; exact hs)

@[simp] theorem stepFrontOnce_wf (lay : Nat) (s : State) (hs : Memory.wf s.mem = true) :
    Memory.wf (stepFrontOnce lay s).mem = true := by
  unfold stepFrontOnce
  extract_lets s1
  have h1 : Memory.wf s1.mem = true := hs
  clear_value s1
  split
  · exact h1
  · exact stepFront_wf _ _ h1

@[simp] theorem earlyCommit_wf (lay : Nat) (s : State) (hs : Memory.wf s.mem = true) :
    Memory.wf (earlyCommit lay s).mem = true := by
  unfold earlyCommit
  extract_lets s1 l full cs mine s3
  have h1 : Memory.wf s1.mem = true := hs
  have hf : Memory.wf full.mem = true := stepFront_wf _ _ h1
  have h3 : s3.mem = s1.mem := by
    refine foldl_mem _ (fun t f => ?_) _ _
    split
    · refine foldl_mem _ (fun u x => ?_) _ _
      split
      · exact cellExec_mem _ _ _
      · rfl
    · rfl
  clear_value s1 s3 full
  split
  · exact h1
  · split
    · exact hf
    · exact commitAll_wf _ _ _ (by rw [State.updLayer_mem, h3]; exact h1)

@[simp] theorem beforeIssue_wf (lay : Nat) (s : State) (hs : Memory.wf s.mem = true) :
    Memory.wf (beforeIssue lay s).mem = true := by
  unfold beforeIssue; split
  · exact earlyCommit_wf _ _ hs
  · exact stepFrontOnce_wf _ _ hs

@[simp] theorem tryBundle_wf (lay : Nat) (stopped : Bool) (s : State) (hs : Memory.wf s.mem = true) :
    Memory.wf (tryBundle lay stopped s).mem = true := by
  unfold tryBundle
  extract_lets s1
  have h1 : Memory.wf s1.mem = true := beforeIssue_wf _ _ hs
  clear_value s1
  split
  · rw [noIssue_mem, trapHere_mem]; exact stepFrontOnce_wf _ _ h1
  · rw [noIssue_mem]; exact stepFrontOnce_wf _ _ h1
  · rename_i w n _
    extract_lets s2 s3
    have h2 : s2.mem = s1.mem := freezeHere_mem _ _
    have h3 : s3.mem = s2.mem := by
      simp only [s3]; split
      · exact sendAhead_mem _ _ _ _
      · rfl
    clear_value s3 s2
    exact (congrArg (fun m => Memory.wf m) (h3.trans h2)).trans h1
  · rename_i s2 _ _
    have h2 : Memory.wf s2.mem = true := stepFrontOnce_wf lay s1 h1
    clear_value s2
    split
    · rw [noIssue_mem]; exact h2
    · split
      · rw [noIssue_mem, parkFetch_mem]; exact h2
      · rw [openBundle_mem]; exact h2

@[simp] theorem retiredCode_mem (lay : Nat) (x : Ctx) (off : Nat) (s : State) : (retiredCode lay x off s).mem = s.mem := by
  unfold retiredCode; split
  · split
    · exact noteRetired_mem _ _
    · rfl
  · rfl

@[simp] theorem fetchBundle_wf (lay c : Nat) (s : State) (hs : Memory.wf s.mem = true) :
    WfIs (fetchBundle lay c s) := by
  unfold fetchBundle
  extract_lets x
  split
  · extract_lets s1 stopped t src probe0 src2 probe
    have h1 : Memory.wf s1.mem = true := by rw [loadLatch_mem, holdCode_mem, fillCode_mem]; exact hs
    have hp : probe.mem = s1.mem := by
      simp only [probe]; split <;> rfl
    clear_value probe s1
    exact ite_wf (WfIs_of_MemIs h1 (execLaggingHit_mem _ _ hp)) (tryBundle_wf _ _ _ h1)
  · rw [WfIs_next, noIssue_mem, parkFetch_mem]; exact hs
  · rw [WfIs_next, noIssue_mem, pgKill_mem]; show Memory.wf (retiredCode _ _ _ _).mem = true; rw [retiredCode_mem]; exact hs
  · trivial
  · rw [WfIs_next, noIssue_mem, trapHere_mem, loadLatch_mem]; exact hs

@[simp] theorem faultOnly_wf (lay c : Nat) (s : State) (hs : Memory.wf s.mem = true) :
    Memory.wf (faultOnly lay c s).mem = true := by
  unfold faultOnly
  extract_lets x
  split
  · extract_lets s1
    have h1 : Memory.wf s1.mem = true := beforeIssue_wf _ _ (by rw [loadLatch_mem]; exact hs)
    clear_value s1
    split
    · rw [noIssue_mem, trapHere_mem]; exact stepFrontOnce_wf _ _ h1
    · rw [noIssue_mem]; exact stepFrontOnce_wf _ _ h1
  · rw [noIssue_mem]; exact hs

@[simp] theorem beginIssue_wf (lay : Nat) (s : State) (hs : Memory.wf s.mem = true) :
    WfIs (beginIssue lay s) := by
  unfold beginIssue
  extract_lets l s0 s1 s2 quiet rows hits idle
  split
  · show Memory.wf (passStall lay s).mem = true
    rw [passStall_mem]; exact hs
  · have h1 : Memory.wf s1.mem = true := by rw [dropTiming_mem]; exact hs
    have h2 : Memory.wf s2.mem = true := by
      simp only [s2]; split
      · exact h1
      · rw [select_mem]; exact h1
    have hi : WfIs idle := by
      simp only [idle]; split
      · rw [WfIs_next, noIssue_mem]; exact h2
      · exact WfIs_of_MemIs h2 (execLaggingHit_mem _ _ rfl)
    clear_value s2 idle rows
    split
    · rw [WfIs_next, foldl_mem _ (fun u h => takeTrap_mem _ _ _ u), raiseLates_mem]; exact h2
    · split
      · rw [WfIs_next, raiseLates_mem]; exact h2
      · split
        · split
          · exact WfIs_of_MemIs h2 (execLaggingHit_mem _ _ rfl)
          · split
            · exact hi
            · exact faultOnly_wf _ _ _ h2
        · split
          · exact hi
          · extract_lets x
            split
            · exact hi
            · split
              · exact hi
              · split
                · exact WfIs_of_MemIs h2 (execHeldTrapEffect_mem _ _ _ rfl)
                · split
                  · exact hi
                  · exact fetchBundle_wf _ _ _ h2

@[simp] theorem execStepAdvance_wf (lay : Nat) (s : State) (hs : Memory.wf s.mem = true) :
    WfIs (execStepAdvance lay s) := by
  unfold execStepAdvance
  dsimp only
  split
  · rw [WfIs_next, stepBack_mem]; exact stepFrontOnce_wf _ _ hs
  · exact hs

@[simp] theorem performStore_wf (q : Req) (s : State) (hs : Memory.wf s.mem = true) :
    Memory.wf (performStore q s).mem = true := by
  unfold performStore; (try dsimp only); repeat' (first | assumption | (simp [*]; done) | (simp_all; done) | (intro _) | (apply foldl_wf) | (apply WfIs_of_MemIs hs; (simp; done)) | (refine WfIs_of_MemIs (m := State.mem _) ?_ (by simp; done)) | split | rw [portRead_mem] | simp)

@[simp] theorem execStorePerform_wf (req : Nat) (s : State) (hs : Memory.wf s.mem = true) :
    WfIs (execStorePerform req s) := by
  unfold execStorePerform; (try dsimp only); repeat' (first | assumption | (simp [*]; done) | (simp_all; done) | (intro _) | (apply foldl_wf) | (apply settleReleased_wf) | (apply performStore_wf) | (apply WfIs_of_MemIs hs; (simp; done)) | (refine WfIs_of_MemIs (m := State.mem _) ?_ (by simp; done)) | split | rw [portRead_mem] | simp)

@[simp] theorem performLane_wf (q : Req) (s : State) (hs : Memory.wf s.mem = true) :
    Memory.wf (performLane q s).mem = true := by
  unfold performLane; (try dsimp only); repeat' (first | assumption | (simp [*]; done) | (simp_all; done) | (intro _) | (apply foldl_wf) | (apply WfIs_of_MemIs hs; (simp; done)) | (refine WfIs_of_MemIs (m := State.mem _) ?_ (by simp; done)) | split | rw [portRead_mem] | simp)

@[simp] theorem execAtomicPerform_wf (req : Nat) (s : State) (hs : Memory.wf s.mem = true) :
    WfIs (execAtomicPerform req s) := by
  unfold execAtomicPerform; (try dsimp only); repeat' (first | assumption | (simp [*]; done) | (simp_all; done) | (intro _) | (apply foldl_wf) | (apply settleReleased_wf) | (apply performLane_wf) | (apply WfIs_of_MemIs hs; (simp; done)) | (refine WfIs_of_MemIs (m := State.mem _) ?_ (by simp; done)) | split | rw [portRead_mem] | simp)

@[simp] theorem progressReq_wf (id : Nat) (s : State) (hs : Memory.wf s.mem = true) :
    WfIs (progressReq id s) := by
  unfold progressReq; (try dsimp only); repeat' (first | assumption | (simp [*]; done) | (simp_all; done) | (intro _) | (apply foldl_wf) | (apply execStorePerform_wf) | (apply execAtomicPerform_wf) | (apply WfIs_of_MemIs hs; (simp; done)) | (refine WfIs_of_MemIs (m := State.mem _) ?_ (by simp; done)) | split | rw [portRead_mem] | simp)

@[simp] theorem applySlot_mem (tower : Nat) (s : State) : (applySlot tower s).mem = s.mem := by
  unfold applySlot
  extract_lets now
  split
  · rfl
  · rename_i s0 _ b _
    have h0 : s0.mem = s.mem := State.updTower_mem _ _ _
    extract_lets s1 s2
    have h3 : s2.mem = s.mem := (foldl_mem (fun u x => applyBeat tower x u) (fun u x => applyBeat_mem _ _ _) _ s0).trans h0
    clear_value s2
    split
    · exact h3
    · exact (foldl_mem _ (fun u x => foldl_mem _ (fun v h => arriveFlag_mem _ _ _ _ _ _ _) _ _) _ _).trans h3

@[simp] theorem execStackBeatApply_wf (tower : Nat) (badCols : BitVec 64) (badFlags : Bool) (s : State) (hs : Memory.wf s.mem = true) :
    WfIs (execStackBeatApply tower badCols badFlags s) :=
  settleReleased_wf _ (by rw [applySlot_mem, assertRetry_mem]; exact hs)

theorem writePlaced_wf (ws : List (Nat × Where × List Byte)) (s : State) (hs : Memory.wf s.mem = true) :
    Memory.wf (writePlaced ws s).mem = true := by
  unfold writePlaced
  refine foldl_wf _ (fun s w h => ?_) ws s hs
  split
  · exact writeMem_wf _ _ _ h
  · exact h

@[simp] theorem ingressWrite_wf (tower : Nat) (link : Nat) (f : Flit) (s : State) (hs : Memory.wf s.mem = true) :
    Memory.wf (ingressWrite tower link f s).mem = true := by
  unfold ingressWrite
  extract_lets ws s1 s2 pois
  have h2 : Memory.wf s2.mem = true := writePlaced_wf _ _ (by
    rw [State.updLink_mem, show s1.mem = (dropAsked _ _ _).mem from rfl, dropAsked_mem, countRetired_mem]; exact hs)
  clear_value s2
  split
  · rw [askPage_mem]; exact hs
  · split
    · split
      · rw [pgKill_mem, dropReleased_mem]; exact h2
      · exact h2
    · rw [endTransfer_mem, countBytes_mem]; exact h2

@[simp] theorem execFlitArrival_wf (tower : Nat) (link : Nat) (arrives : Option Flit) (s : State) (hs : Memory.wf s.mem = true) :
    WfIs (execFlitArrival tower link arrives s) := by
  unfold execFlitArrival; (try dsimp only); repeat' (first | assumption | (simp [*]; done) | (simp_all; done) | (intro _) | (apply foldl_wf) | (apply ingressWrite_wf) | (apply WfIs_of_MemIs hs; (simp; done)) | (refine WfIs_of_MemIs (m := State.mem _) ?_ (by simp; done)) | split | rw [portRead_mem] | simp)

@[simp] theorem exchangeOver_wf (tower : Nat) (link : Nat) (s : State) (hs : Memory.wf s.mem = true) :
    Memory.wf (exchangeOver tower link s).mem = true := by
  unfold exchangeOver; (try dsimp only); repeat' (first | assumption | (simp [*]; done) | (simp_all; done) | (intro _) | (apply foldl_wf) | (apply settleReleased_wf) | (apply WfIs_of_MemIs hs; (simp; done)) | (refine WfIs_of_MemIs (m := State.mem _) ?_ (by simp; done)) | split | rw [portRead_mem] | simp)

@[simp] theorem execTimestampExchangeDone_wf (tower : Nat) (link : Nat) (t1 : DWord) (t2 : DWord) (t3 : DWord) (t4 : DWord) (s : State) (hs : Memory.wf s.mem = true) :
    WfIs (execTimestampExchangeDone tower link t1 t2 t3 t4 s) := by
  unfold execTimestampExchangeDone; (try dsimp only); repeat' (first | assumption | (simp [*]; done) | (simp_all; done) | (intro _) | (apply foldl_wf) | (apply exchangeOver_wf) | (apply WfIs_of_MemIs hs; (simp; done)) | (refine WfIs_of_MemIs (m := State.mem _) ?_ (by simp; done)) | split | rw [portRead_mem] | simp)

@[simp] theorem writeStores_wf (e : Released) (b : List Byte) (s : State) (hs : Memory.wf s.mem = true) :
    Memory.wf (writeStores e b s).mem = true := by
  unfold writeStores
  split
  · exact counterDown_wf _ _ _ hs
  · exact counterDown_wf _ _ _ hs
  · exact hs

@[simp] theorem execLastStoreLoadComplete_wf (eff : Nat) (s : State) (hs : Memory.wf s.mem = true) :
    WfIs (execLastStoreLoadComplete eff s) := by
  unfold execLastStoreLoadComplete
  split
  · rename_i e _
    extract_lets go
    have hgo : ∀ src off n, WfIs (go src off n) := by
      intro src off n
      simp only [go]
      split
      · refine portRead_wf _ _ _ _ _ _ (fun b p t ht => ?_) hs
        refine writeStores_wf _ _ _ ?_
        split
        · rw [setSpois_mem]; exact ht
        · exact ht
      · exact hs
    clear_value go
    split
    · exact hgo _ _ _
    · exact hgo _ _ _
    · exact hs
  · exact hs

@[simp] theorem writeArea_wf : ∀ (ps : List (Nat × Nat × Where)) (b : List Byte) (s : State),
    Memory.wf s.mem = true → Memory.wf (writeArea ps b s).mem = true := by
  intro ps
  induction ps with
  | nil => intro b s hs; exact hs
  | cons p ps ih =>
    intro b s hs
    unfold writeArea
    refine ih _ _ ?_
    split
    · exact writeMem_wf _ _ _ hs
    · exact hs

@[simp] theorem writeRecord_wf (lay c : Nat) (area : Cap) (d : Desc) (s : State) (hs : Memory.wf s.mem = true) :
    Memory.wf (writeRecord lay c area d s).mem = true := by
  unfold writeRecord
  extract_lets srid asid b o ps
  split
  · rw [refuseSave_mem]; exact hs
  · split
    · rw [openFault_mem]; exact hs
    · rw [askPage_mem]; exact hs
    · rw [finishSave_mem]; exact writeArea_wf _ _ _ (by rw [countRetired_mem]; exact hs)

@[simp] theorem execSaveRecordWrite_wf (lay ctx : Nat) (s : State) (hs : Memory.wf s.mem = true) :
    WfIs (execSaveRecordWrite lay ctx s) := by
  unfold execSaveRecordWrite
  extract_lets key
  split
  · split
    · exact hs
    · split
      · rw [WfIs_next, askPage_mem]; exact hs
      · exact writeRecord_wf _ _ _ _ _ hs
  · exact hs

theorem getD_wf {r : Option State} {s : State} (hr : ∀ t, r = some t → Memory.wf t.mem = true) (hs : Memory.wf s.mem = true) :
    Memory.wf (r.getD s).mem = true := by
  cases h : r with
  | none => exact hs
  | some t => exact hr t h

@[simp] theorem putReturn_wf (v : Saved) (q : Req) (s : State) (hs : Memory.wf s.mem = true) :
    Memory.wf (putReturn v q s).mem = true := by
  unfold putReturn
  extract_lets o base off len
  split
  · split
    · exact getD_wf (fun t h => writeObj_wf _ _ _ _ _ _ _ hs h) hs
    · exact hs
  · exact hs

@[simp] theorem execTaggedItemComplete_wf (req : Nat) (s : State) (hs : Memory.wf s.mem = true) :
    WfIs (execTaggedItemComplete req s) := by
  unfold execTaggedItemComplete; (try dsimp only); repeat' (first | assumption | (simp [*]; done) | (simp_all; done) | (intro _) | (apply foldl_wf) | (apply itemEnd_wf) | (apply putReturn_wf) | (apply WfIs_of_MemIs hs; (simp; done)) | (refine WfIs_of_MemIs (m := State.mem _) ?_ (by simp; done)) | split | rw [portRead_mem] | simp)

@[simp] theorem finishRequest_wf (lay : Nat) (p : PowerReq) (s : State) (hs : Memory.wf s.mem = true) :
    Memory.wf (finishRequest lay p s).mem = true := by
  unfold finishRequest; (try dsimp only); repeat' (first | assumption | (simp [*]; done) | (simp_all; done) | (intro _) | (apply foldl_wf) | (apply counterDown_wf) | (apply WfIs_of_MemIs hs; (simp; done)) | (refine WfIs_of_MemIs (m := State.mem _) ?_ (by simp; done)) | split | rw [portRead_mem] | simp)

@[simp] theorem execLayerTransitionStart_wf (lay : Nat) (s : State) (hs : Memory.wf s.mem = true) :
    WfIs (execLayerTransitionStart lay s) := by
  unfold execLayerTransitionStart; (try dsimp only); repeat' (first | assumption | (simp [*]; done) | (simp_all; done) | (intro _) | (apply foldl_wf) | (apply finishRequest_wf) | (apply WfIs_of_MemIs hs; (simp; done)) | (refine WfIs_of_MemIs (m := State.mem _) ?_ (by simp; done)) | split | rw [portRead_mem] | simp)

@[simp] theorem execLayerTransitionDone_wf (lay : Nat) (s : State) (hs : Memory.wf s.mem = true) :
    WfIs (execLayerTransitionDone lay s) := by
  unfold execLayerTransitionDone; (try dsimp only); repeat' (first | assumption | (simp [*]; done) | (simp_all; done) | (intro _) | (apply foldl_wf) | (apply finishRequest_wf) | (apply WfIs_of_MemIs hs; (simp; done)) | (refine WfIs_of_MemIs (m := State.mem _) ?_ (by simp; done)) | split | rw [portRead_mem] | simp)

@[simp] theorem execKeeperCopyDone_wf (lay : Nat) (s : State) (hs : Memory.wf s.mem = true) :
    WfIs (execKeeperCopyDone lay s) := by
  unfold execKeeperCopyDone; (try dsimp only); repeat' (first | assumption | (simp [*]; done) | (simp_all; done) | (intro _) | (apply foldl_wf) | (apply finishRequest_wf) | (apply WfIs_of_MemIs hs; (simp; done)) | (refine WfIs_of_MemIs (m := State.mem _) ?_ (by simp; done)) | split | rw [portRead_mem] | simp)

@[simp] theorem execJunctionCritical_wf (tower : Nat) (tj : BitVec 8) (s : State) (hs : Memory.wf s.mem = true) :
    WfIs (execJunctionCritical tower tj s) := WfIs_of_MemIs hs (execJunctionCritical_mem _ _ _ rfl)

@[simp] theorem failLayer_wf (tower phys : Nat) (s : State) (hs : Memory.wf s.mem = true) :
    Memory.wf (failLayer tower phys s).mem = true := by
  unfold failLayer
  extract_lets t s1 
  have h1 : Memory.wf s1.mem = true := by rw [show s1.mem = s.mem from errorRecord_mem _ _ _ _ _ _ _ _]; exact hs
  clear_value s1
  split
  · exact hs
  · split
    · exact h1
    · refine pump_wf _ ?_
      rw [killAll_mem, dropQueues_mem, State.updLayer_mem, foldl_mem _ (fun u c => failTask_mem _ _ _ _)]
      exact h1

@[simp] theorem layerOver_mem (lay : Nat) (s : State) : (layerOver lay s).mem = s.mem := by
  unfold layerOver
  split
  · rfl
  · extract_lets tower s1 s2 t
    have h1 : s1.mem = s.mem := by
      simp only [s1]; split
      · rfl
      · rw [enterOff_mem, salvageFlags_mem]
    have h2 : s2.mem = s.mem := h1
    clear_value s2
    split
    · rw [becomeAbsent_mem]; exact h2
    · split
      · exact h2
      · rw [useSpare_mem]; exact h2

@[simp] theorem wornOut_wf (lay : Nat) (s : State) (hs : Memory.wf s.mem = true) : Memory.wf (wornOut lay s).mem = true := by
  unfold wornOut; dsimp only; split
  · exact failLayer_wf _ _ _ hs
  · exact hs

@[simp] theorem execLayerFailure_wf (tower : Nat) (phys : Nat) (s : State) (hs : Memory.wf s.mem = true) :
    WfIs (execLayerFailure tower phys s) := by
  unfold execLayerFailure; (try dsimp only); repeat' (first | assumption | (simp [*]; done) | (simp_all; done) | (intro _) | (apply foldl_wf) | (apply failLayer_wf) | (apply WfIs_of_MemIs hs; (simp; done)) | (refine WfIs_of_MemIs (m := State.mem _) ?_ (by simp; done)) | split | rw [portRead_mem] | simp)

@[simp] theorem uncorrectableIn_wf (lay : Nat) (phys : Nat) (code : Nat) (cell : Nat) (ctx : Nat) (loc : Nat) (s : State) (hs : Memory.wf s.mem = true) :
    Memory.wf (uncorrectableIn lay phys code cell ctx loc s).mem = true := by
  unfold uncorrectableIn
  split
  · simpa using hs
  · split
    · simpa using hs
    · split
      · exact failLayer_wf _ _ _ hs
      · split
        · split <;> simpa using hs
        · split
          · exact wornOut_wf _ _ (by rw [raiseUncorr_mem]; exact hs)
          · exact hs

@[simp] theorem execSoftError_wf (code : Nat) (tower : Nat) (phys : Nat) (cell : Nat) (ctx : Nat) (loc : Nat) (uncorrectable : Bool) (s : State) (hs : Memory.wf s.mem = true) :
    WfIs (execSoftError code tower phys cell ctx loc uncorrectable s) := by
  unfold execSoftError; (try dsimp only); repeat' (first | assumption | (simp [*]; done) | (simp_all; done) | (intro _) | (apply foldl_wf) | (apply uncorrectableIn_wf) | (apply WfIs_of_MemIs hs; (simp; done)) | (refine WfIs_of_MemIs (m := State.mem _) ?_ (by simp; done)) | split | rw [portRead_mem] | simp)

@[simp] theorem execNetworkRetry_wf (lay cell ctx : Nat) (again : Bool) (s : State) (hs : Memory.wf s.mem = true) :
    WfIs (execNetworkRetry lay cell ctx again s) := by
  unfold execNetworkRetry
  extract_lets tower phys s1 s2 s3
  have h2 : Memory.wf s2.mem = true := by rw [freezeOnce_mem, countTel_mem, errorRecord_mem]; exact hs
  clear_value s2
  have h3 : Memory.wf s3.mem = true := by rw [countTel_mem, errorRecord_mem]; exact h2
  clear_value s3
  split
  · rw [WfIs_next]; split
    · exact wornOut_wf _ _ (by rw [raiseUncorr_mem]; exact h3)
    · exact h3
  · exact h2

@[simp] theorem execPowerOnReset_wf (program : Option Flash) (trains : Bool) (s : State) :
    WfIs (execPowerOnReset program trains s) := by
  unfold execPowerOnReset
  extract_lets s1 s2
  have h1 : s1.mem = [] := rfl
  have h2 : s2.mem = [] := rfl
  clear_value s1
  split
  · rw [WfIs_next, alarm_mem, h1]; rfl
  · clear_value s2
    split
    · rw [WfIs_next, alarm_mem, h2]; rfl
    · rename_i c _
      extract_lets s3
      have h3 : s3.mem = [] := h2
      clear_value s3
      rw [WfIs_next]; split
      · show Memory.wf s3.mem = true
        rw [h3]; rfl
      · rw [alarm_mem, h3]; rfl

@[simp] theorem linkTimers_wf (tower : Nat) (s : State) (hs : Memory.wf s.mem = true) :
    WfIs (linkTimers tower s) := by
  unfold linkTimers; (try dsimp only); repeat' (first | assumption | (simp [*]; done) | (simp_all; done) | (intro _) | (apply foldl_wf) | (apply execFlitArrival_wf) | (apply andThen_wf) | (apply inTurn_wf) | (apply forAll_wf) | (apply maybe_wf) | (apply pureRes_wf) | (apply WfIs_of_MemIs hs; (simp; done)) | (refine WfIs_of_MemIs (m := State.mem _) ?_ (by simp; done)) | split | rw [portRead_mem] | simp)

@[simp] theorem requestWork_wf (s : State) (hs : Memory.wf s.mem = true) :
    WfIs (requestWork s) := by
  unfold requestWork; (try dsimp only); repeat' (first | assumption | (simp [*]; done) | (simp_all; done) | (intro _) | (apply foldl_wf) | (apply progressReq_wf) | (apply andThen_wf) | (apply inTurn_wf) | (apply forAll_wf) | (apply maybe_wf) | (apply pureRes_wf) | (apply WfIs_of_MemIs hs; (simp; done)) | (refine WfIs_of_MemIs (m := State.mem _) ?_ (by simp; done)) | split | rw [portRead_mem] | simp)

@[simp] theorem powerWork_wf (s : State) (hs : Memory.wf s.mem = true) :
    WfIs (powerWork s) := by
  unfold powerWork; (try dsimp only); repeat' (first | assumption | (simp [*]; done) | (simp_all; done) | (intro _) | (apply foldl_wf) | (apply execLayerTransitionStart_wf) | (apply execLayerTransitionDone_wf) | (apply execKeeperCopyDone_wf) | (apply andThen_wf) | (apply inTurn_wf) | (apply forAll_wf) | (apply maybe_wf) | (apply pureRes_wf) | (apply WfIs_of_MemIs hs; (simp; done)) | (refine WfIs_of_MemIs (m := State.mem _) ?_ (by simp; done)) | split | rw [portRead_mem] | simp)

@[simp] theorem startCycle_wf (s : State) (hs : Memory.wf s.mem = true) : WfIs (startCycle s) := by
  unfold startCycle
  split
  · exact hs
  · refine inTurn_wf ?_ hs
    simp only [List.forall_mem_cons, List.not_mem_nil, false_implies, implies_true, and_true]
    refine ⟨fun t ht => forAll_wf (fun l u hu => pureRes_wf (by rw [layerOver_mem]; exact hu)) _ ht,
      fun t ht => forAll_wf (fun k u hu => WfIs_of_MemIs hu (frameEnd_mem _ _ rfl)) _ ht,
      fun t ht => forAll_wf (fun k u hu => execStackBeatApply_wf _ _ _ _ hu) _ ht,
      fun t ht => forAll_wf (fun k u hu => linkTimers_wf _ _ hu) _ ht,
      fun t ht => forAll_wf (fun k u hu => WfIs_of_MemIs hu (shortWork_mem _ _ rfl)) _ ht,
      fun t ht => WfIs_of_MemIs ht (planWork_mem _ rfl),
      fun t ht => WfIs_of_MemIs ht (sendWork_mem _ rfl),
      fun t ht => requestWork_wf _ ht,
      fun t ht => pureRes_wf (settleReleased_wf _ ht),
      fun t ht => ?_,
      fun t ht => powerWork_wf _ ht,
      fun t ht => forAll_wf (fun k u hu => WfIs_of_MemIs hu (execFlagUpdateApply_mem _ _ _ rfl)) _ ht,
      fun t ht => forAll_wf (fun k u hu => WfIs_of_MemIs hu (execStackBusSlot_mem _ _ rfl)) _ ht,
      fun t ht => pureRes_wf ht⟩
    split
    · exact WfIs_of_MemIs ht (execTinvComplete_mem _ rfl)
    · exact ht

@[simp] theorem remoteSent_mem (e : Released) (x : Transfer) (s : State) : (remoteSent e x s).mem = s.mem := by
  unfold remoteSent
  extract_lets n s1
  have h1 : s1.mem = s.mem := dropReleased_mem _ _
  clear_value s1
  split
  · rw [pgKill_mem]; exact h1
  · exact h1

@[simp] theorem deferred_wf (s : State) (hs : Memory.wf s.mem = true) : WfIs (deferred s) := by
  refine forAll_wf (fun id t ht => ?_) _ hs
  split
  · split
    · split
      · exact execEpushDeferred_wf _ _ _ ht
      · exact ht
    · exact maybe_wf (fun u hu => execLastStoreLoadComplete_wf _ _ hu) ht
    · exact maybe_wf (fun u hu => execLastStoreLoadComplete_wf _ _ hu) ht
    · split
      · split
        · exact maybe_wf (fun u hu => by rw [WfIs_next, remoteSent_mem]; exact hu) ht
        · split
          · rw [WfIs_next, dropReleased_mem]; exact ht
          · exact ht
      · exact ht
    · exact ht
  · exact ht

@[simp] theorem arrivals_wf (s : State) (hs : Memory.wf s.mem = true) : WfIs (arrivals s) := by
  refine forAll_wf (fun id t ht => ?_) _ hs
  split
  · split
    · exact progressReq_wf _ _ ht
    · exact ht
  · exact ht

@[simp] theorem deferredLaunches_wf (s : State) (hs : Memory.wf s.mem = true) : WfIs (deferredLaunches s) := by
  refine forAll_wf (fun _ t ht => ?_) _ hs
  split
  · exact execTlaunchDeferredAppend_wf _ _ _ ht
  · exact ht

@[simp] theorem settleCtx_wf (key : Nat) (s : State) (hs : Memory.wf s.mem = true) : WfIs (settleCtx key s) := by
  refine inTurn_wf ?_ hs
  simp only [List.forall_mem_cons, List.not_mem_nil, false_implies, implies_true, and_true]
  exact ⟨fun t ht => WfIs_of_MemIs ht (execTrapRecordWrite_mem _ _ _ rfl),
    fun t ht => WfIs_of_MemIs ht (execTaskRetire_mem _ _ _ rfl),
    fun t ht => WfIs_of_MemIs ht (execKillRelease_mem _ _ _ rfl),
    fun t ht => execSaveRecordWrite_wf _ _ _ ht⟩

@[simp] theorem skipExchanges_wf (tower : Nat) (s : State) (hs : Memory.wf s.mem = true) :
    Memory.wf (skipExchanges tower s).mem = true := by
  refine foldl_wf _ (fun t f ht => ?_) _ _ hs
  split
  · exact exchangeOver_wf _ _ _ ht
  · exact ht

@[simp] theorem closeCycle_wf (s : State) (hs : Memory.wf s.mem = true) : WfIs (closeCycle s) := by
  refine inTurn_wf ?_ hs
  simp only [List.forall_mem_cons, List.not_mem_nil, false_implies, implies_true, and_true]
  refine ⟨fun t ht => arrivals_wf _ ht, fun t ht => deferredLaunches_wf _ ht,
    fun t ht => pureRes_wf (skipExchanges_wf _ _ (skipExchanges_wf _ _ ht)),
    fun t ht => pureRes_wf (settleReleased_wf _ (pump_wf _ ht)), fun t ht => deferred_wf _ ht,
    fun t ht => forAll_wf (fun k u hu => settleCtx_wf _ _ hu) _ ht,
    fun t ht => forAll_wf (fun l u hu => ?_) _ ht,
    fun t ht => forAll_wf (fun k u hu => execTaggedItemComplete_wf _ _ hu) _ ht,
    fun t ht => ?_, fun t ht => forAll_wf (fun l u hu => pureRes_wf (wornOut_wf _ _ hu)) _ ht,
    fun t ht => pureRes_wf ht⟩
  · split
    · exact WfIs_of_MemIs hu (execPreemptEffect_mem _ _ _ rfl)
    · exact hu
  · refine pureRes_wf ?_
    rw [sweepGone_mem, drainStatus_mem]; exact ht

end Sys2Proof.Machine
end

