-- ==== Sys2Proof/Tests/Slice0.lean ====
section
/-!
SUPPORT. The model's own tests: ill-formed terms that the check refuses, words written from the manual's encodings, the
manual's worked numbers, single steps, and for every statement with hypotheses a state that meets them.
-/

set_option maxRecDepth 4000

namespace Sys2Proof.Tests

open Sys2Proof.Machine Sys2Proof.Claims

/-! ### Well-formedness: one ill-formed term for each check -/

/-- Codes and subfields the manual does not assign, check by check (R135, R139, R141 to R145, R192, R240 to R300). -/
def illFormedSlots : List Instr :=
  [.add 64 0 0, .sub 0 82 0, .div 0 0 127, .addi 64 0, .ldd 0 82 0, .texit 82, .eret 127, .mfsr 64 0, .mtsr 82 0,
   .lsleepDoze 0 82, .lstld 0 0 82 0, .bprepRegister 0 82, .bcmp 8 0 0 0, .bcmpi 15 0 0 0, .call 64 0, .ret 64,
   .bctl false false 0 0 false 3 0 false false, .bctl false false 0 0 false 0 3 false false] ++
  [.vany 8 96, .vall 0 95, .vcount 64 96, .pvote 8, .fladd 5 0 0 0, .flset 0 0 82 0, .flwait 0 0 0 82, .fence 0 false false,
   .fence 7 true false, .epush 0 82, .epop 64 0, .send false 0 0 82, .realign 0 82, .cderive 0 0 1, .cderive 0 0 64,
   .cnarrow 16 false 0 0, .cst 16 0 0, .cld 0 0 16 0, .ccheck 0 0 82 0] ++
  [.xadd 32 0 0, .xmax 0 82 0, .xli 32 0, .vld 96 0 0 0, .vldDec 95 0, .bcopy true 1 false 0 0 0, .vperm 0 96 0, .llast 56 0,
   .esend 0 0 0, .erecv 96 0 0, .halo 0 0, .vadd 96 0 0, .vabs 0 96, .vcmpeq 95 0 0, .vcmplt 112 0 0, .vsel 0 0 0,
   .vrng 93 3 0, .vrng 0 0 82] ++
  [.vfadd 0 0 96, .vfsqrt 96 0, .vfcmpeq 0 0 0, .vcvt 5 0 0 0 0, .vcvt 0 0 0 5 1, .vcvts 13 0 0 0 0, .vcvt 1 0 95 0 0,
   .vquant 0 0 0 4, .vquant 95 0 0 5, .vdeq 93 0 0 6, .pand 96 96 95, .pnot 112 96, .pall 95, .scan 0 0 0 3 0,
   .reduce 0 0 0 0 3, .topk 95 0 0 false 0, .sort 0 0 6 false 0, .compact 96 0 0, .hist 96 0 false] ++
  [.awlGather 55 0 false 0, .awlScatter 56 0 false 1, .mpar 8 0, .mldw 0 0 true 0 0, .mldw 0 7 true 0 0, .mldw 0 1 true 1 0,
   .mldwScl 0 true 1 0, .amov 96 0 false 0, .atopk true 1 0 0 0, .amo 0 0 95 0 0 0, .amo 0 0 0 7 0 0, .amo 0 0 0 3 2 0,
   .cas 0 0 94 0, .red 0 0 0 6 0, .sbst 0 31 1 0, .loopm 0 0 1, .loopm 1 1 1, .waitin 0]

theorem test_illFormedEvents : ∀ i ∈ ([
   .flrstWrite 16 0, .preqSave 0 4 0, .preqSave 0 0 16, .preqKill 16 0, .plctlArm 0 0 14, .plctlArm 1 0 13, .plctlArm 1 0 25,
   .lstatClear 2 0 0, .lstatClear 0 24 0, .sotWrite 0 16 0, .regionCommit 0 5, .freezeSwitch 16, .timedLanding 0 64 0,
   .stackBusSlot 2, .eyeletCredit 0 16, .shortNetworkSlot 0 8, .laneFailure 0 0 16, .slotTableLoad 0 0 256 none,
   .schedulerSelect 2, .placementComplete 0 4, .hostWalkReply 0 0 3, .hostSpareReply 0 8, .softError 0 0 0 0 0 0 false,
   .softError 15 0 0 0 0 0 false, .networkRetry 0 64 0 false, .layerFailure 0 9, .stepAdvance 16] : List Instr), i.wellFormed = false := by decide

theorem test_illFormedSlots : ∀ i ∈ illFormedSlots, i.wellFormed = false := by decide

/-! ### Decoding: one word of every class, from the fields of R133 and the tables of each chapter -/

/-- S, CL, FN, X, Y, Z at bits 31, 30:26, 25:21, 20:14, 13:7, 6:0. -/
def wd (s cl fn x y z : Nat) : Word := BitVec.ofNat 32 (s * 2 ^ 31 + cl * 2 ^ 26 + fn * 2 ^ 21 + x * 2 ^ 14 + y * 2 ^ 7 + z)

theorem test_decode_sequencer :
    decodeSlot (wd 1 0 6 4 2 0x23) = .ok (.mfsr 4 0x123) ∧ decodeSlot (wd 0 0 5 0 3 1) = .ok (.eretKill 3) ∧
    decodeSlot (wd 0 1 0 0b0110010 9 0b1011010) = .ok (.bctl true true 2 9 true 1 2 true false) ∧
    decodeSlot (wd 0 2 2 0 1 2) = .ok (.and 0 1 2) ∧ decodeSlot (wd 0 3 0 5 127 127) = .ok (.addi 5 0x3FFF) ∧
    decodeSlot (wd 0 4 0 1 2 3) = .ok (.ldd 1 2 3) ∧ decodeSlot (wd 0 5 4 7 2 0) = .ok (.call 7 2) ∧
    decodeSlot (wd 0 6 2 9 97 0) = .ok (.vcount 9 97) ∧ decodeSlot (wd 0 7 4 0b0010011 0 0) = .ok (.fence 4 true true) ∧
    decodeSlot (wd 0 8 0 15 6 0) = .ok (.epush 15 6) ∧ decodeSlot (wd 0 9 4 0b0011010 5 6) = .ok (.ccheck 3 2 5 6) := by decide

theorem test_decode_cells :
    decodeSlot (wd 0 10 10 1 2 3) = .ok (.xmax 1 2 3) ∧
    decodeSlot (wd 0 11 4 0b1000000 0b0000101 0b0011010) = .ok (.bcopy true 0 false 5 3 2) ∧
    decodeSlot (wd 0 12 2 0b1010 0 5) = .ok (.halo 10 5) ∧ decodeSlot (wd 0 13 16 1 97 2) = .ok (.vsel 1 97 2) ∧
    decodeSlot (wd 0 14 14 3 4 0) = .ok (.vfexp2 3 4) ∧ decodeSlot (wd 0 15 29 8 4 0b0100110) = .ok (.vquant 8 4 2 6) ∧
    decodeSlot (wd 0 16 3 96 97 98) = .ok (.pandn 96 97 98) ∧ decodeSlot (wd 0 17 4 2 1 0b0011101) = .ok (.sort 2 1 3 true 1) ∧
    decodeSlot (wd 0 20 2 0b1000000 5 0b0011010) = .ok (.atopk true 0 5 3 2) ∧
    decodeSlot (wd 0 21 3 0b0010001 0b0010010 7) = .ok (.ast 2 1 4 2 7) ∧
    decodeSlot (wd 0 22 1 0b0010001 6 2) = .ok (.cas 2 1 6 2) ∧ decodeSlot (wd 0 23 0 9 3 0b0010001) = .ok (.sbst 9 3 2 1) := by
  decide

/-- The rest of the classes, from the manual's own words (06, 11, 17), and codes that are no form (R135). -/
theorem test_decode_worked :
    decodeSlot 0x4C41A002 = .ok (.mldw 0 3 true 0 2) ∧ decodeSlot 0x60000006 = .ok (.limm 6) ∧
    decodeSlot (wd 0 18 0 56 3 0) = .ok (.awlGather 56 3 false 0) ∧
    (decodeSlot (wd 0 31 0 0 0 0)).toOption = none ∧ (decodeSlot (wd 0 0 12 0 0 0)).toOption = none ∧
    (decodeSlot (wd 0 24 1 0 0 0)).toOption = none ∧ (decodeSlot (wd 0 0 0 1 0 0)).toOption = none := by decide

theorem test_decode_micro :
    decodeMicro 0x3800000000000000 = some (.accum true) ∧ decodeMicro 0x5044000000000000 = some (.loopm 4 1 0) ∧
    decodeMicro 0xF000000000000000 = none := by decide

theorem test_table_word :   decodeTableWord 32 0x08010389 = some (.add 4 7 9) := by decide

/-! ### The manual's worked numbers -/

/-- Worked conversions (03_numbers). -/
theorem test_conversions :
    convert false 0 3 0 0 0x3FC00000 = (0x3C, false) ∧ convert false 0 3 0 0 0x43FA0000 = (0x7F, true) ∧
    convert false 0 4 0 0 0x47C35000 = (0x7E, false) ∧ convert false 3 0 0 0 0x83 = (0xBBC00000, false) ∧
    convert false 0 1 0 0 0x3F818000 = (0x3F82, false) ∧ convert false 0 1 1 0 0x3F818000 = (0x3F81, false) := by decide

/-- The stochastic rounding of section 09's example: element 0 goes up, element 1 down. -/
theorem test_stochastic :
    convert false 0 1 4 0x6627E8D5 0x3F808000 = (0x3F81, false) ∧ convert false 0 1 4 0xE169C58D 0x3F808000 = (0x3F80, false) := by
  decide

/-- Block formats (03_numbers): 3.0 to MXINT8 and 0.75 to L6 and back. -/
theorem test_blocks :
    encodeBlock false 0x80 0 0 true (fp32.fp 0x40400000) = (0x60, false) ∧
    encodeBlock true 0x7C 0 0 true (fp32.fp 0x3F400000) = (0x1A, false) ∧
    fp32.roundWide false 0 0 (decodeL6 0x7C 0x1A) = 0x3F3504F3 := by decide

/-- Philox of zeros (R226). -/
theorem test_philox : philox 0 0 0 0 0 0 = (0x6627E8D5, 0xE169C58D, 0xBC57AC4C, 0x9B00DBD8) := by decide

/-- Skews of cells (0,0), (3,5), (1,2) and (7,7) (00, 10, R30). -/
theorem test_skew : [skew 0, skew 29, skew 10, skew 63] = [0, 16, 6, 28] := by decide

/-- The default slot owners: the base die has slots 0 to 31, then logical layer (s − 32) mod 8 (R471). -/
theorem test_default_slots :
    slotOwner .reset 0 = 8 ∧ slotOwner .reset 31 = 8 ∧ slotOwner .reset 32 = 0 ∧ slotOwner .reset 255 = 7 := by decide

/-! ### A state with a slot in hand, and which slots complete in it -/

/-- A state in which the supervisor of layer 0 has one slot in hand, in a sealing bundle, with registers, capabilities,
eyelets, a routine, a loop and a trapped task that the slots need. -/
def armed : State :=
  let s := State.reset.withFetchWord 32 0
  let s := { s with latch := { s.latch with bctl := { s.latch.bctl with sealed := true }, next := 4 } }
  let s := s.updMe (fun c => { c with
    s := [(1, 1), (2, 4096), (3, 64), (4, 4097), (5, 4)], g := [(1, mkCap 1 0xFF 0 65536), (2, mkCap 0xFFFFFF 0xFF 0 4096)],
    cmask := BitVec.allOnes 64, swhi := 4, shadow := [0], image := { c.image with loops := [{ LoopEntry.unused with kind := 1, trip := 2 }], lasts := [some 0] } })
  let s := s.updCtx (ctxKey 0 0) (fun c => { c with task := .trapped, state := .resident })
  let s := s.updCell 0 (fun c => { c with lasts := [(0, { Last.none with kind := .read }), (1, { Last.none with kind := .write })] })
  let s := s.updCc (ccKey 0 0 4) (fun e => { e with x := [(1, 1)] })
  let out : Eyelet := { Eyelet.reset with en := true, dir := true }
  let inb : Eyelet := { Eyelet.reset with en := true, words := [7] }
  s.updLayer 0 (fun l => { l with mdir := [(0, 1 <<< 63)], dmem := [(80, 8)], eyelets := [(0, out), (1, inb)] })

/-- One instruction of every slot form. -/
def forms1 : List Instr :=
  [.nop, .tlaunch 1 0, .texit 0, .yield, .trap 0, .eret 0, .eretKill 0, .mfsr 0 0x020, .mtsr 0 0x023, .mtsr 5 0x032,
   .lsleepDoze 0 1, .lsleepOff 0 1, .lwake 0 1, .lstld 0 1 0 4, .mpsld 0 1 0 2]
/-- The arithmetic forms, BCTL and LIMM. -/
def forms2 : List Instr :=
  [.bctl false false 0 0 false 0 0 false true, .limm 0, .add 0 1 2, .sub 0 1 2, .and 0 1 2, .or 0 1 2, .xor 0 1 2,
   .andn 0 1 2, .shl 0 1 2, .shr 0 1 2, .sar 0 1 2, .mul 0 1 2, .mulh 0 1 2, .mulhu 0 1 2, .min 0 1 2, .max 0 1 2,
   .minu 0 1 2, .maxu 0 1 2, .seq 0 1 2, .sne 0 1 2, .slt 0 1 2, .sltu 0 1 2, .div 0 1 0, .divu 0 1 0, .rem 0 1 0,
   .remu 63 81 0]
def forms3 : List Instr :=
  [.addi 0 0, .andi 0 0, .ori 0 0, .xori 0 0, .shli 0 0, .shri 0 0, .sari 0 0, .muli 0 0, .mini 0 0, .maxi 0 0,
   .slti 0 0, .seqi 0 0, .li 63 0, .ldd 0 0 0, .ldw 0 0 0, .ldwu 0 0 0, .std 0 0 0, .stw 0 0 0]
def forms4 : List Instr :=
  [.bprepRelative 0 1, .bprepRegister 0 0, .bcmp 7 0 0 0, .bcmpi 0 0 0 0, .bxfer 0 true false 0, .call 0 0, .ret 0,
   .loopTable 0 2, .loopRegister 0 1 2, .bpois 0 false, .vany 0 96, .vall 0 111, .vcount 0 96, .pvote 0, .pvoteClr 7]
def forms5 : List Instr :=
  [.fladd 0 2 0 0, .flset 4 2 0 0, .flwait 0 2 0 0, .cwait 0 1, .fence 0 true false, .epush 0 0, .epop 0 1,
   .send false 1 1 3, .realign 0 1, .cderive 0 1 0, .cnarrow 0 true 1 0, .cst 1 1 0, .cld 0 0 1 0, .ccheck 1 0 0 0]
def forms6 : List Instr :=
  [.xadd 0 1 2, .xsub 0 1 2, .xmul 0 1 2, .xand 0 1 2, .xior 0 1 2, .xeor 0 1 2, .xshl 0 1 2, .xshr 0 1 2, .xsar 0 1 2,
   .xmin 0 1 2, .xmax 0 1 2, .xaddi 0 0, .xli 31 0]
def forms7 : List Instr :=
  [.vld 0 0 0 0, .vldStraight 0 0 0, .vldDec 0 0, .vst 0 0 0 0, .vstStraight 0 0 0, .vstEnc 0 0, .vldx 0 0 0 0,
   .vstx 0 0 0 0, .bcopy true 0 true 0 0 0, .vperm 0 0 0, .llast 0 0, .esend 1 0 0, .erecv 0 0 0, .halo 1 0]
def forms8 : List Instr :=
  [.vadd 0 1 2, .vsub 0 1 2, .vadds 0 1 2, .vsubs 0 1 2, .vmul 0 1 2, .vmulh 0 1 2, .vmin 0 1 2, .vmax 0 1 2, .vand 0 1 2,
   .vior 0 1 2, .veor 0 1 2, .vshl 0 1 2, .vshr 0 1 2, .vabs 0 1, .vcmpeq 96 0 1, .vcmplt 111 0 1, .vsel 0 96 1,
   .vrng 92 3 0]
def forms9 : List Instr :=
  [.vfadd 0 1 2, .vfsub 0 1 2, .vfmul 0 1 2, .vfma 0 1 2, .vfnma 0 1 2, .vfmin 0 1 2, .vfmax 0 1 2, .vfabs 0 1, .vfneg 0 1,
   .vfcmpeq 96 0 1, .vfcmplt 96 0 1, .vfcmple 96 0 1, .vfrcp 0 1, .vfrsq 0 1, .vfexp2 0 1, .vflog2 0 1, .vfsqrt 95 1]
def forms10 : List Instr :=
  [.vcvt 1 0 4 4 0, .vcvts 4 0 4 0 0, .vquant 0 4 0 6, .vdeq 0 4 0 5, .pand 96 97 98, .pior 96 97 98, .peor 96 97 98,
   .pandn 96 97 98, .pnot 96 97, .pall 96, .pnone 111, .scan 0 1 0 0 0, .segscan 0 1 0 0 0, .reduce 0 1 0 0 0,
   .topk 0 2 0 false 0, .sort 0 2 0 false 0, .compact 0 1 0, .hist 0 1 false, .awlGather 56 0 false 0, .awlScatter 63 0 false 0]
def forms11 : List Instr :=
  [.mpar 0 0, .mcall 0 5, .mldw 0 1 true 0 0, .mldwScl 0 true 0 0, .msel 0, .amov 0 0 false 0, .amovClr 0 0 false 0,
   .amovTo 0 0 true 0, .aclr 0 0, .atopk true 0 0 0 0, .tld 1 0 0 0 64, .tst 1 0 0 0, .ald 1 0 0 0 0, .ast 1 0 0 0 0,
   .ntst 1 0 0 0, .drain 0, .amo 1 0 0 0 0 0, .cas 1 0 0 0, .red 1 0 0 0 0, .sbst 0 0 0 0, .sbld 0 0 0 0]

theorem test_clear_1 : ∀ i ∈ forms1, slotFault i armed = none ∧ slotHold i armed = false := by decide
theorem test_clear_2 : ∀ i ∈ forms2, slotFault i armed = none ∧ slotHold i armed = false := by decide
theorem test_clear_3 : ∀ i ∈ forms3, slotFault i armed = none ∧ slotHold i armed = false := by decide
theorem test_clear_4 : ∀ i ∈ forms4, slotFault i armed = none ∧ slotHold i armed = false := by decide
theorem test_clear_5 : ∀ i ∈ forms5, slotFault i armed = none ∧ slotHold i armed = false := by decide
theorem test_clear_6 : ∀ i ∈ forms6, slotFault i armed = none ∧ slotHold i armed = false := by decide
theorem test_clear_7 : ∀ i ∈ forms7, slotFault i armed = none ∧ slotHold i armed = false := by decide
theorem test_clear_8 : ∀ i ∈ forms8, slotFault i armed = none ∧ slotHold i armed = false := by decide
theorem test_clear_9 : ∀ i ∈ forms9, slotFault i armed = none ∧ slotHold i armed = false := by decide
theorem test_clear_10 : ∀ i ∈ forms10, slotFault i armed = none ∧ slotHold i armed = false := by decide
theorem test_clear_11 : ∀ i ∈ forms11, slotFault i armed = none ∧ slotHold i armed = false := by decide

/-! ### Single steps -/

/-- The result on its way after one slot of `armed` (source registers s0 = 0, s1 = 1, s2 = 4096). -/
def resultOf (i : Instr) : Option (Loc × Nat × DWord) :=
  match exec i armed with
  | .next t => t.layer.pend.getLast?.map (fun p => (p.loc, p.due - armed.now, p.val.setWidth 64))
  | _ => none

theorem test_add : resultOf (.add 4 1 2) = some (.s 4, 1, 4097) := by decide
theorem test_sub_wraps : resultOf (.sub 4 0 1) = some (.s 4, 1, BitVec.allOnes 64) := by decide
theorem test_divide_by_zero : resultOf (.divu 4 2 0) = some (.s 4, 1, BitVec.allOnes 64) := by decide
theorem test_li_sign : resultOf (.li 10 0x3FFF) = some (.s 10, 1, BitVec.allOnes 64) := by decide
theorem test_ori_is_unsigned : resultOf (.ori 0 0x3FFF) = some (.s 0, 1, 0x3FFF) := by decide
theorem test_load_lands_at_3 : resultOf (.ldd 5 3 0) = some (.s 5, 3, 0) := by decide

/-- 100,000 by a LIMM of 6 and an LI of 1696 (06_encoding). -/
theorem test_limm_li :
    (match exec (.limm 6) armed with
     | .next t => (match exec (.li 10 1696) t with
       | .next u => u.layer.pend.getLast?.map (fun p => p.val.setWidth 64)
       | _ => none)
     | _ => none) = some (100000 : DWord) := by decide

/-- BCMPI.GE of s1 = 50 and 50 (07_sequencer_ops): true. -/
theorem test_bcmpi :
    (match exec (.bcmpi 3 1 1 50) (armed.updMe (fun c => { c with s := [(1, 50)] })) with
     | .next t => t.layer.pend.getLast?.map (fun p => (p.loc, p.val.getLsbD 0))
     | _ => none) = some (.k 1, true) := by decide +kernel

/-- FLADD leaves the flag as it is and enters the welt (R46, R194). -/
theorem test_fladd_waits :
    (match exec (.fladd 0 2 0 1) armed with
     | .next t => t.me.regions.map (fun r => r.effects.map (fun e => e.2))
     | _ => []) = [[.flag false [0] 1 0]] := by decide

/-- A task that reads a supervisor register takes ILLEGAL, sub-cause 4 (R211). -/
theorem test_special_register_trap :
    (match exec (.mfsr 0 0x030) { armed.updCtx 1 (fun x => { x with state := .resident, task := .issuing }) with ctx := 1 } with
     | .next t => (t.ctxAt 1).trap.map (fun x => (x.cause, x.sub))
     | _ => none) = some (.illegal, 4) := by decide

/-- XMUL in cell (0,0) lands at t+1 (R220). -/
theorem test_xli_in_cell : resultOf (.xli 3 0x3FFF) = some (.x 0 3, 1, 0xFFFFFFFF) := by decide

/-- The first step after reset with a word placed runs it, and the latch has moved on (notes/assumptions/10.md). -/
theorem test_step_runs_the_word :
    (match step (State.reset.withFetchWord 32 0x08010389) with
     | .next t => (t.latch.slot, t.layer.pend.map (fun p => p.loc))
     | _ => (0, [])) = (1, [.s 4]) := by decide

/-! ### What a cell slot needs -/

/-- What a cell needs for a slot, at cell (0,0) with `armed`. -/
abbrev okAt (i : Instr) (pre : Nat → State → State) (ok : Run → State → Prop) : Prop :=
  cellOn armed.me.cmask 0 = true ∧ ok (originRun i pre armed) (joined i pre armed)

theorem test_hyp_NetworkLoads :
    okAt (.vldStraight 0 0 0) noPre (fun r t => (r.addr t 0).bad = false) ∧
    okAt (.vld 0 0 0 0) noPre (fun r t => (r.addr t 0).bad = false ∧ (r.lastAt t 0 .read).isSome = true) ∧
    okAt (.vldx 0 0 0 0) noPre (fun r t => ((r.share t).physLast (r.xEntry t 0)).isSome = true ∧
      (r.lastAt t (r.xEntry t 0) .read).isSome = true) ∧
    okAt (.vldDec 0 0) noPre (fun r t => r.convBad t (r.addr t 0) r.convBank = false) := by decide

theorem test_hyp_NetworkStores :
    okAt (.vst 0 1 15 0) noPre (fun r t => (r.addr t 0).bad = false ∧ r.busy t 15 = false ∧
      (r.lastAt t 1 .write).isSome = true) ∧
    okAt (.vstx 0 1 0 0) noPre (fun r t => ((r.share t).physLast (r.xEntry t 1)).isSome = true ∧
      (r.lastAt t (r.xEntry t 1) .write).isSome = true) ∧
    okAt (.vstEnc 0 0) noPre (fun r t =>
      r.convBad t (r.addr t 0) (fun k => r.convBank k && !bfSparse (mapGet 0 r.f.bfmt k)) = false) := by decide

theorem test_hyp_BankCopy :
    okAt (.bcopy true 0 true 0 0 0) noPre (fun r t => (r.addr t 0).bad = false ∧
      r.copyBad t (r.addr t 0) ((r.copyLanes t (r.addr t 0) none none).filterMap id) = false) := by decide +kernel

theorem test_hyp_PermuteEdgeAndLastSlots :
    okAt (.vperm 0 0 0) noPre (fun r t => (r.lastAt t 0 .read).isSome = true) ∧
    okAt (.esend 15 0 0) noPre (fun r t => r.busy t 15 = false) ∧
    okAt (.halo 1 0) noPre (fun r t => (r.x t 0).toNat % 256 + (r.x t 0).toNat / 65536 % 64 ≤ 255 ∧
      (r.x t 0).toNat / 256 % 256 + (r.x t 0).toNat / 65536 % 64 ≤ 255 ∧ r.busy t 1 = false) := by decide

theorem test_hyp_MatrixAndAccumulatorSlots :
    okAt (.mldw 0 1 false 0 0) noPre (fun r t => ((r.x t 0).extractLsb' 26 6).toNat < 48 ∧ (r.addr t 0).bad = false ∧
      (r.lastAt t 0 .read).isSome = true) ∧
    okAt (.mldwScl 0 true 0 0) noPre (fun r t => ((r.x t 0).extractLsb' 26 6).toNat < 2 ∧ (r.addr t 0).bad = false) ∧
    okAt (.amov 0 63 false 0) noPre (fun r t => ((r.share t).physTile (r.tile t 63 false 0)).isSome = true) ∧
    okAt (.atopk false 1 0 0 0) noPre (fun r t =>
      ((r.share t).physTile (0 + ((r.x t 0).toNat / 32 % 32 + 1) - 1)).isSome = true ∧ (r.addr t 0).bad = false ∧
      (r.lastAt t 1 .write).isSome = true) ∧
    armed.me.share.physTile (63 + 63) = none := by decide

theorem test_hyp_CopySlots :
    okAt (.tld 1 0 0 3 64) noPre (fun r t => copyStart 0 r t % 128 = 0 ∧
      copyStart 0 r t + 128 * (r.share t).nb * 2 ^ 3 ≤ capLimit r.slot.cap ∧ (r.addr t 0).base + 2 ^ 3 - 1 + 31 ≤ 255) := by
  decide

theorem test_hyp_AtomicAndStackSlots :
    okAt (.amo 1 0 0 0 0 0) noPre (fun r t => (capBase r.slot.cap + (r.x t 0).toNat) % 4 = 0 ∧
      ∀ e ∈ atomicLanes false 0 0 r t, e.2.1 + 4 ≤ capLimit r.slot.cap) ∧
    okAt (.sbst 0 0 0 0) noPre (fun r t => (r.x t 0).toNat % 32 = 0 ∧ 32 * r.f.swlo.toNat ≤ (r.x t 0).toNat ∧
      (r.x t 0).toNat + 128 * (0 + 1) ≤ 32 * r.f.swhi.toNat) := by decide +kernel

/-! ### Every clause of a statement about events has a state that meets its hypotheses -/

/-- Layer 0 in run, its context 0 as `f` makes it. -/
def one (f : Ctx → Ctx) : State :=
  (State.reset.updLayer 0 (fun l => { l with power := .run })).updCtx 0 f
def lay0 (f : Layer → Layer) (s : State) : State := s.updLayer 0 f
def tow0 (f : Tower → Tower) (s : State) : State := s.updTower 0 f

def someReq : Req :=
  { id := 5, kind := .store false, state := .port, ctxKey := 0, cell := 0, region := 0, seq := 0, eff := 9, lay := 0, obj := 1,
    off := 0, asid := 0, ctr := none, data := 0, pois := false, committed := true, ready := 0, dropped := false, srid := none }
def someLeaf : Leaf := { base := 0, size := 65536, w := true, cow := false, tag := true, x := false, pol := 0 }
def someTrap : TrapInfo :=
  { cause := .illegal, sub := 1, code := 0, cell := none, dec := true, slot := 0, baddr := 0, region := 0, aux0 := 0, aux1 := 0 }
def someRel : Released :=
  { id := 9, ctxKey := 0, lay := 0, seq := 0, effect := .drain 0, phase := 0, gather := [], tick := 0, left := 0, pois := false,
    data := [] }
def someRegion : Region :=
  { id := 0, entry := 0, sealedAt := some 0, effects := [], loops := [], specials := [], entrySpecials := [], adds := [], marks := [], popped := 0 }
def somePend (l : Loc) : Pend :=
  { ctx := 0, region := 0, due := 1, lag := 0, seq := 0, loc := l, mask := BitVec.allOnes 32768, val := 7, last := none,
    lm := 0, baddr := 0, slot := 0 }

def port (q : Req) : State := { State.reset with reqs := [q] }
def rel (e : Released) : State := { State.reset with released := [e] }

theorem test_hyp_WaitEvents_ends :
    (let s := one (fun x => { x with task := .waiting, wait := .counter 0 1 })
     (s.ctxAt 0).regions = [] ∧ (s.ctxAt 0).wait ≠ .resumeHold ∧ waitHolds 0 0 s = true) ∧
    (let s := one (fun x => { x with task := .waiting, wait := .resumeHold })
     (s.ctxAt 0).regions = [] ∧ holding 0 0 s = false) ∧
    (let s := one (fun x => { x with task := .ready, wait := .resumeHold })
     (s.ctxAt 0).regions = [] ∧ (s.ctxAt 0).task = .ready ∧ holding 0 0 s = false) ∧
    (∀ t ∈ [TaskState.frozen, .waiting],
      let s := lay0 (fun l => { l with frozen := some (0, 0), frozenBy := .counter 0 1 }) (one (fun x => { x with task := t, wait := .counter 0 1 }))
      (s.layerAt 0).frozen = some (0, 0) ∧ waitCond 0 0 (s.layerAt 0).frozenBy s = true ∧ (s.layerAt 0).alsoFrozen = [] ∧
      (s.ctxAt 0).task = t) ∧
    (let s := lay0 (fun l => { l with frozen := some (0, 0), frozenBy := .counter 0 1, alsoFrozen := [(1, .counter 0 0)] })
       (one (fun x => { x with task := .frozen, wait := .counter 0 1 }))
     waitCond 0 0 (s.layerAt 0).frozenBy s = true ∧ (s.layerAt 0).alsoFrozen = [(1, .counter 0 0)] ∧
     waitCond 0 1 (.counter 0 0) s = false ∧ (s.ctxAt 0).task = .frozen) := by decide

/-- Layer 0 frozen on a row of a region that has committed. -/
def frozenOnRow : State :=
  let q := { someReq with kind := .load 0 0 (some 0) false }
  { tow0 (fun t => { t with cycle := 64 }) (lay0 (fun l => { l with frozen := some (0, 0), frozenBy := .landing })
      (one (fun x => { x with task := .frozen, fzt := 1, wait := .landing }))) with reqs := [q] }

theorem test_hyp_WaitEvents_row :
    (frozenOnRow.layerAt 0).frozen = some (0, 0) ∧ (frozenOnRow.layerAt 0).alsoFrozen = [] ∧
    (frozenOnRow.ctxAt 0).task = .frozen ∧ (frozenOnRow.ctxAt 0).fzt ≠ 0 ∧ (frozenOnRow.ctxAt 0).wait ≠ .resumeHold ∧
    (frozenOnRow.layerAt 0).frozenBy = .landing ∧ 0 + 2 ^ ((frozenOnRow.ctxAt 0).fzt.toNat + 5) ≤ frozenOnRow.cycleOf 0 ∧
    (lateRows 0 frozenOnRow).map (fun q => (q.ctxKey, q.region)) = [(0, 0)] ∧ (frozenOnRow.ctxAt 0).regions = [] := by decide

theorem test_hyp_WaitEvents_limits :
    (let s := tow0 (fun t => { t with cycle := 64 }) (lay0 (fun l => { l with frozen := some (0, 0) })
       (one (fun x => { x with task := .frozen, fzt := 1, wait := .counter 0 0 })))
     (s.layerAt 0).frozen = some (0, 0) ∧ (s.layerAt 0).alsoFrozen = [] ∧ (s.layerAt 0).frozenBy ≠ .landing ∧
     0 + 2 ^ ((s.ctxAt 0).fzt.toNat + 5) ≤ s.cycleOf 0) ∧
    (∀ w ∈ [Wait.flag 0 0 0, .counter 0 0, .eyelet 0, .landing, .resumeHold],
      let s := one (fun x => { x with wdog := 1, wait := w, waited := 2049 })
      (s.ctxAt 0).wait = w ∧ w ≠ .none ∧ 2 ^ ((s.ctxAt 0).wdog.toNat + 10) < (s.ctxAt 0).waited) ∧
    (let s := one (fun x => { x with task := .ready, idle := 65536, eprio := 2 })
     (s.ctxAt 0).task = .ready ∧ (s.ctxAt 0).aged < (s.ctxAt 0).idle / 65536 ∧ (s.ctxAt 0).eprio.toNat < 3) ∧
    (let s := one (fun x => { x with task := .ready, idle := 65536, aged := 1 })
     (s.ctxAt 0).aged = (s.ctxAt 0).idle / 65536) ∧
    (let s := one (fun x => { x with task := .ready, idle := 262144, eprio := 3 })
     (s.ctxAt 0).eprio = 3 ∧ 262144 ≤ (s.ctxAt 0).idle) ∧
    (let s := one (fun x => { x with held := [someTrap], state := .resident, task := .issuing })
     (s.ctxAt 0).held = [someTrap] ∧ (s.ctxAt 0).wait ≠ .resumeHold) := by decide

/-- A row due at step 0 of layer 0. -/
def lateReq (strict : Bool) : Req := { someReq with kind := .load 0 0 (some 0) strict }

theorem test_hyp_ArrivalEvents_rows :
    (∀ b : Bool, (port (lateReq b)).reqs.find? (fun p => p.id == 5 && isLate (port (lateReq b)) 0 p) = some (lateReq b)) ∧
    ((port (lateReq false)).layerAt 0).frozen = none ∧
    (let q := { someReq with kind := .load 0 0 none false, state := .arrived 0 }
     (port q).findReq 5 = some q ∧ 0 ≤ (port q).cycleOf 0 ∧ ((port q).cellAt 0).landing.length < 1024) ∧
    (let q := { someReq with kind := .cld 0, state := .performed }
     (port q).findReq 5 = some q) ∧
    (let q := { someReq with kind := .atomic 0 0 false true 0 [] [], state := .performed }
     (port q).findReq 5 = some q ∧ q.srid = none) := by decide

def someLanding : Landing :=
  { ctx := 0, region := 0, req := 5, bank := 0, row := 255, be := BitVec.allOnes 128, pois := false, due := some 0, from_ := 0, seq := 0,
    data := 3, arrived := 0 }

theorem test_hyp_ArrivalEvents_landing :
    (let s := (one id).updCell 0 (fun c => { c with landing := [someLanding] })
     (s.cellAt (cellKey 0 0)).landing = [someLanding] ∧ someLanding.due = some (s.layerAt 0).step) := by decide

/-- A result of v0 that lags behind step 4, and a later one that lands at 4, of a bundle that carries LM = `lm`. -/
def laggingState (lm : BitVec 2) : State :=
  lay0 (fun l => { l with step := 4, pend := [{ somePend (.v 0 0) with due := 3, lag := 2, seq := 1 },
    { somePend (.v 0 0) with due := 4, seq := 2, lm := lm }] }) (one (fun x => { x with task := .issuing, state := .resident }))

theorem test_hyp_ArrivalEvents_lagging :
    (laggingState 0).latch = .empty ∧ (laggingHits 0 none (laggingState 0)).map (fun h => h.2.1) = [0] ∧
    (laggingHits 0 none (laggingState 1)).map (fun h => h.2.1) = [1] ∧ ((laggingState 0).layerAt 0).frozen = none := by decide

/-- Object 1 of this package, of 2^24 bytes, with the default policy `pol` and no page present. -/
def absentObject (pol : Nat) : State :=
  { State.reset with reqs := [someReq], mem := [(16, BitVec.ofNat 8 (1 + 2 * pol)), (21, 1)] }

/-- A request at its port whose page cache 1024 has, with leaf `l`. -/
def cachedAt (q : Req) (l : Leaf) : State :=
  { absentObject 0 with reqs := [q], tlb := [{ home := q.home, obj := 1, page := 0, leaf := l }] }

theorem test_hyp_TranslationAtThePort_leaves :
    (∀ e ∈ [(someReq, someLeaf), ({ someReq with kind := .load 0 0 none false }, { someLeaf with base := 2 ^ 38 - 2 ^ 16 }),
        (someReq, { someLeaf with w := false, pol := 3 }), (someReq, { someLeaf with cow := true })],
      let s := cachedAt e.1 e.2
      s.findReq 5 = some e.1 ∧ e.1.state = .port ∧ portHolds s e.1 = false ∧ carriesData e.1 = true ∧ finds s e.1 e.2) ∧
    leafFault someLeaf true = false ∧ leafFault { someLeaf with w := false } true = true ∧
    leafFault { someLeaf with cow := true } true = true ∧ isRetired (cachedAt someReq someLeaf) (someLeaf.pa 0) = false ∧
    (let s := { cachedAt someReq someLeaf with hret := 512 }
     finds s someReq someLeaf ∧ isRetired s (someLeaf.pa 0) = true) := by
  unfold finds admitted; decide

/-- A table entry whose one page is mapped, and the faults of the four policies. -/
theorem test_hyp_TranslationAtThePort_walks :
    (let s := { port { someReq with state := .port } with mem := [(16, 0x11), (20, 1), (25, 0x20), (8192, 0x13), (8195, 0x40)] }
     finds s someReq { someLeaf with base := 2 ^ 30, size := 2 ^ 30, tag := false }) ∧
    (∀ pol ∈ [0, 1, 2, 3], (absentObject pol).findReq 5 = some someReq ∧ portHolds (absentObject pol) someReq = false ∧
      faults (absentObject pol) someReq pol true 0 (2 ^ 30)) := by
  unfold finds faults admitted; decide

theorem test_hyp_TranslationAtThePort_elsewhere :
    (let q := { someReq with eff := 9 }
     let s := { port q with released := [{ someRel with id := 3, effect := .fence 2 true false },
       { someRel with id := 2, effect := .copyStore false none }], reqs := [q, { someReq with id := 4, eff := 2, kind := .load 0 0 none false }] }
     s.findReq 5 = some q ∧ portHolds s q = true) ∧
    (let q := { someReq with obj := 0x010001 }
     (port q).findReq 5 = some q ∧ objRemote (port q) q.obj = true ∧ isReserved q.obj = false ∧ isWindow q.obj = false ∧
     portHolds (port q) q = false) ∧
    (∀ w ∈ [0, 0x1000003],
      let q := { someReq with obj := 0xF000 }
      let s := { port q with windows := [(0, (BitVec.ofNat 64 w, 0))] }
      s.findReq 5 = some q ∧ isWindow q.obj = true ∧ isReserved q.obj = false ∧ objRemote s q.obj = true ∧
      windowOk s q.obj q.addr q.len q.asid q.writes = (w != 0)) ∧
    (let s := one (fun x => { x with task := .issuing })
     someReq.ctxKey < 128 ∧ (s.ctxAt 0).task ≠ .free ∧ (s.ctxAt 0).task ≠ .placed) := by decide

theorem test_hyp_AccessesPerform :
    (∀ k ∈ [ReqKind.load 0 0 none false, .store false, .cst 0, .atomic 0 0 false true 0 [(0, 4, 1, 0)] []],
      let q := { someReq with kind := k, state := .ready someLeaf }
      (port q).findReq 5 = some q ∧ mayPerform (port q) q = true ∧ q.dropped = false ∧ someLeaf.size ≠ 0) ∧
    (let q := { someReq with kind := .load 0 0 none false, state := .answer 2 }
     (port q).findReq 5 = some q ∧ mayPerform (port q) q = true) := by decide

/-- A routine of cell (0,0) whose word of this step is not the last of its window, unless `bc` is 1. -/
def someRoutine (bc : Nat) : Routine :=
  { ctx := 4, region := 0, baddr := 0, e := 0, bc := bc, start := 0, len := 9, seq := 0, pc := 0, at_ := 0, fi := 0, sc := 0,
    ai := 0, rb := 0, toff := 0, cp := 0, loops := [], rows := [], arrayFree := 0, passes := [], bfmt := [], ended := false }

/-- Context 0 with a sealed region and one plane, into which its own load lands at this step while its routine names it. -/
def clashing : State :=
  let s := lay0 (fun l => { l with step := 28, pend := [{ somePend (.plane 0 0 0) with due := 28 }] })
    (one (fun x => { x with regions := [someRegion], share := { x.share with planes := [0] } }))
  (s.updCell 0 (fun e => { e with routine := some { someRoutine 9 with ctx := 0 } })).updCc (ccKey 0 0 0) (fun e => { e with m := [(4, 1)] })

theorem test_hyp_RegionCommits :
    (let s := lay0 (fun l => { l with step := 28 }) (one (fun x => { x with regions := [someRegion] }))
     (s.ctxAt 0).regions = [someRegion] ∧ 0 + 28 ≤ (s.layerAt 0).step ∧ (s.ctxAt 0).trap = none ∧ clashDue 0 0 0 s = false) ∧
    (let s := lay0 (fun l => { l with step := 27 }) (one (fun x => { x with regions := [someRegion] }))
     someRegion.sealedAt = some 0 ∧ (s.layerAt 0).step < 0 + 28) ∧
    (let s := one (fun x => { x with regions := [someRegion], trap := some someTrap })
     (s.ctxAt 0).trap = some someTrap ∧ someTrap.region ≤ someRegion.id) ∧
    ((one id).ctxAt 0).regions = [] ∧ (clashing.ctxAt 0).regions = [someRegion] ∧ clashDue 0 0 0 clashing = true := by decide

theorem test_hyp_ReleasedEffectsAct :
    (∀ f ∈ [Effect.copyStore false none, .atomic none, .flag false [0] 1 0, .fence 4 true true, .epush 0 1],
      let e := { someRel with effect := f }
      (rel e).released.find? (fun r => r.id == 9) = some e ∧ blocked (rel e) e = false ∧ waitEnded (rel e) e 4 = true ∧
      acquireEnded (rel e) 0 9 = true ∧ (mapGet .reset ((rel e).layerAt 0).eyelets 0).words.length < 16) ∧
    (let s := lay0 (fun l => { l with eyelets := [(0, { Eyelet.reset with words := List.replicate 16 0 })] }) (rel someRel)
     16 ≤ (mapGet .reset (s.layerAt 0).eyelets 0).words.length) ∧
    (∀ f ∈ [Effect.epush 0 1, .tlaunch 0 0],
      let e := { someRel with effect := f, phase := 1 }
      (rel e).released.find? (fun r => r.ctxKey == ctxKey 0 0 && r.phase == 1) = some e ∧
      (((rel e).towerAt 0).queue 0).length < 256) := by decide

def someUpd : FlagUpd := { set := false, idx := 3, v := 1, at_ := 0, cls := 1, seq := 0 }

theorem test_hyp_FlagUpdates :
    (let s := lay0 (fun l => { l with updates := [someUpd] }) (one id)
     (s.layerAt 0).updates = [someUpd] ∧ someUpd.at_ ≤ s.cycleOf 0 ∧ (s.layerAt 0).power ≠ .off) := by decide

def someBeat : Beat := { ctx := 0, region := 0, eff := 0, cell := 63, off := 0, be := 1, data := 9, ready := some 31, seq := 0 }

theorem test_hyp_EyeletsAndTheStackBus_eyelets :
    (∀ owner ∈ [0, 1],
      let y := { Eyelet.reset with en := true, dir := true, words := [1] }
      let s := tow0 (fun t => { t with shortTab := [(256 * 7, owner)] }) (lay0 (fun l => { l with eyelets := [(0, y)] }) (one id))
      mapGet .reset (s.layerAt 0).eyelets 0 = y ∧ y.credit ≠ 0 ∧ (s.layerAt 0).power ≠ .off ∧
      (upto 8).find? (fun p => freeSlot s 0 p (sourceOf s 0)) = if owner = 1 then some 7 else none) ∧
    (let s := lay0 (fun l => { l with eyelets := [(0, { Eyelet.reset with en := true })] }) (one id)
     (s.eyeletAt 0 0).en = true ∧ (s.eyeletAt 0 0).dir = false ∧ (s.eyeletAt 0 0).words.length < 16) ∧
    (let s := lay0 (fun l => { l with eyelets := [(15, { Eyelet.reset with dir := true, credit := 15 })] }) (one id)
     (s.eyeletAt 0 15).dir = true ∧ (s.eyeletAt 0 15).credit < 16) := by decide

theorem test_hyp_EyeletsAndTheStackBus_slots :
    (let s := tow0 (fun t => { t with cycle := 32 }) (lay0 (fun l => { l with beats := [someBeat] }) (one id))
     slotOwner (s.towerAt 0) (32 % 256) = 0 ∧ (s.layerAt 0).power = .run ∧ (s.layerAt 0).failing = none ∧
     (s.layerAt 0).beats = [someBeat] ∧ (s.layerAt 0).outUpd = [] ∧ s.reqs = []) ∧
    (let q := { someReq with cell := 63 }
     let s := tow0 (fun t => { t with deliver := [5] }) (port q)
     slotOwner (s.towerAt 0) (0 % 256) = 8 ∧ (∀ l, l < 8 → (s.layerAt (8 * 0 + l)).copyLeft = 0) ∧ s.reqs = [q]) ∧
    (∀ bad ∈ [0, 2 ^ 63], let b : BusSlot := { cycle := 0, layer := 0, beats := [someBeat], badCols := BitVec.ofNat 64 bad }
     let s := tow0 (fun t => { t with cycle := 6, busSlots := [b] }) (one id)
     (s.towerAt 0).busSlots = [b] ∧ b.cycle + 6 = (s.towerAt 0).cycle ∧ b.badCols.getLsbD someBeat.cell = (bad != 0)) ∧
    (let b : BusSlot := { cycle := 0, layer := 0, beats := [someBeat] }
     let s := tow0 (fun t => { t with cycle := 3, busSlots := [b] }) (one id)
     (s.towerAt 0).busSlots = [b] ∧ b.cycle + 3 = (s.towerAt 0).cycle ∧ b.badCols = 0 ∧ b.badFlags = false) ∧
    (∀ p ∈ [Power.run, .off], let s := lay0 (fun l => { l with power := p }) (one id)
     (s.layerAt 0).power = p ∧ (s.layerAt 0).failing = none) ∧
    (let b : BusSlot := { cycle := 0, layer := 0, base := true, copy := some 7 }
     b.base = true ∧ b.copy = some 7) := by decide

/-! ### Fabric, links, time -/

def someSend (depart slack : Nat) : Effect :=
  .send false (mkCap 1 0xFF 0 4096) (mkCap 1 0xFF 0 4096) 0 0 4 slack 0 (BitVec.ofNat 64 depart)

/-- Object 1 with one page of 2^30 bytes at physical address 2^30, and in it the image of one NOP that needs one granule of
banks and one of registers. -/
def imageMem : List Host.Cell :=
  [(16, 0x11), (20, 1), (25, 0x20), (8192, 0x13), (8195, 0x40)] ++
  [(0, 0x57), (1, 0x49), (2, 0x4D), (3, 0x47), (4, 1), (8, 9), (0x18, 4), (0x19, 1), (0x41, 1), (0x44, 4)].map
    (fun e => (2 ^ 30 + e.1, e.2))
def withImage : State := { one id with mem := imageMem }

theorem test_hyp_FabricEvents_plans :
    State.reset.plArm = false ∧ (14 ≤ (14 : BitVec 5).toNat ∧ (24 : BitVec 5).toNat ≤ 24) ∧
    (let s := { State.reset with planNext := some ([], 14), plArm := true, tick := 9 }
     s.planNext = some ([], 14) ∧ switchTick s ≤ s.tick.toNat) ∧
    (let s := { State.reset with planSince := 10, planPast := [(4, [], 14)] }
     s.planSince ≤ 10 ∧ s.planPast = [(4, [], 14)] ∧ 9 < s.planSince ∧ 4 ≤ 9) ∧
    (State.reset.towerAt 0).shortTab = [] := by decide

theorem test_hyp_FabricEvents_sends :
    (let e := { someRel with effect := someSend 10 5, phase := 2 }
     let s := { withImage with released := [e] }
     findReleased s 9 = some e ∧ (∀ q ∈ s.reqs, q.eff = e.id → q.kind ≠ .recordRead) ∧
     ∃ x, e.transfer = some x ∧ objRemote s (capObj x.gs) = false ∧ readObj s (e.lay / 8) (capObj x.gs) (capBase x.gs + x.soff) x.len (asidOf s e.ctxKey) =
       .bytes [0x57, 0x49, 0x4D, 0x47] false) ∧
    (∀ n ∈ [(16, 16), (10, 10), (11, 11), (15, 15)],
      let e := { someRel with effect := someSend 10 5, phase := 3, tick := n.1 }
      let s := { rel e with tick := BitVec.ofNat 64 n.2 }
      findReleased s 9 = some e ∧ ∃ x, e.transfer = some x ∧ (if n.1 = 16 then x.depart + x.slack < e.tick
        else if n.1 = 10 then e.tick ≤ x.depart ∧ x.depart ≤ s.tick.toNat ∧ capPkg x.gd = s.pkg
        else x.depart < e.tick ∧ e.tick ≤ x.depart + x.slack ∧ e.tick ≤ s.tick.toNat)) ∧
    (let e := { someRel with effect := someSend 10 5, phase := 3, tick := 10 }
     let s := { rel e with tick := 10, pkg := 7 }
     ∃ x, e.transfer = some x ∧ x.depart ≤ s.tick.toNat ∧ capPkg x.gd ≠ s.pkg ∧ e.ctxKey < 128 ∧
       (s.ctxAt e.ctxKey).mcount ≠ BitVec.allOnes 16 ∧ flagPkg x.ctr = (rel e).pkg ∧ flagLayer x.ctr / 8 = e.lay / 8) := by
  refine ⟨⟨by decide, by decide, _, rfl, by decide, by decide⟩, fun n hn => ⟨?_, _, rfl, ?_⟩, _, rfl, by decide, by decide, by decide, by decide, by decide, by decide⟩
  · revert n; decide
  · revert n; decide

def someFlit (q : Nat) : Flit :=
  { q := q, phase := false, late := false, obj := 1, off := 0, ctr := 0, asid := 0, data := [5], last := true, pois := false, xfer := 0 }
def link0 (l : Link) (s : State) : State := s.setLink 0 0 l

/-- Link 0 Active, with a key of phase 0 for what it receives. -/
def keyed : Link := { Link.reset with state := .active, rxKeys := [(0, 1)], lanes := 0xFFFF, width := 4 }
/-- A flit of link 0 with the tag that its bytes have under `keyed`. -/
def tagged (f : Flit) : Flit :=
  { f with tag := Config.gcmTag 1 (linkIv 0 0 f.q (!Config.ivDirection 0 0)) (flitHeader f) (openFlit 0 0 keyed.rxKeys f).data }
theorem tagged_checks (f : Flit) (h : f.phase = false) : checksOut 0 0 keyed.rxKeys (tagged f) = true := by
  unfold checksOut
  rw [show phaseKey keyed.rxKeys (tagged f).phase = 1 by rw [show (tagged f).phase = f.phase from rfl, h]; rfl]
  exact beq_self_eq_true _

theorem test_hyp_FabricEvents_flits :
    (let s := link0 keyed (one id)
     (s.linkAt 0 0).refuses (someFlit 1) = true ∧ (s.linkAt 0 0).refuses (someFlit 0) = false ∧
     (s.linkAt 0 0).refuses (tagged (someFlit 0)) = false ∧ (s.linkAt 0 0).dropped = [] ∧ (someFlit 0).route = [] ∧
     (s.linkAt 0 0).inbound.length < 1792 ∧ (s.linkAt 0 0).ovf ≠ BitVec.allOnes 8 ∧
     checksOut 0 0 (s.linkAt 0 0).rxKeys { someFlit 0 with phase := true } = false ∧ (s.linkAt 0 0).fails < 7) ∧
    (let s := link0 { keyed with fails := 7 } (one id)
     (s.linkAt 0 0).fails = 7 ∧ (s.linkAt 0 0).laneOf 0 = some 0) ∧
    (let s := (link0 keyed (one id)).setLink 1 23 { Link.reset with state := .narrowed }
     (s.linkAt 1 23).carries = true ∧ ({ someFlit 0 with route := [(1, 23)] } : Flit).route = [(1, 23)]) ∧
    (let s := link0 { Link.reset with inbound := [someFlit 0] } withImage
     (s.linkAt 0 0).inbound = [someFlit 0] ∧ flitRuns s (someFlit 0) = [(0, [5])] ∧
       (match locate s 0 1 0 0 true with | .at_ _ _ => true | _ => false) = true) := by decide

theorem test_hyp_FabricEvents_short :
    (State.reset.tick.toNat / 8 = 0 ∧ ∀ p, p < 8 → mapGet 0 (State.reset.towerAt 0).shortTab (256 * p) = 0) ∧
    (let s := tow0 (fun t => { t with credits := [0x0080], shortTab := [(256 * 7, 1)] }) (one id)
     (s.towerAt 0).credits = [0x0080] ∧ freeSlot s 0 7 (sourceOf s 0) = true) ∧
    (let s := tow0 (fun t => { t with shortQ := [(1, .credit 0 0)], shortTab := [(256 * 7, 1)] }) (one id)
     (s.towerAt 0).credits = [] ∧ shortNext s 0 7 = some (1, .credit 0 0)) ∧
    (let s := tow0 (fun t => { t with shortQ := [(0, .credit 0 0)] }) (one id)
     (s.towerAt 0).shortQ.find? (fun e => e.1 == s.pkg) = some (0, .credit 0 0)) := by decide

theorem test_hyp_FabricEvents_crossing :
    let f := { someFlit 0 with off := 65535, data := [5, 6] }
    let s := link0 { Link.reset with inbound := [f] } { withImage with mem := imageMem.map (fun e => if e.1 = 20 then (20, 2) else e) }
    (s.linkAt 0 0).inbound = [f] ∧ flitRuns s f = [(65535, [5]), (65536, [6])] ∧
      (match locate s 0 1 65535 0 true, locate s 0 1 65536 0 true with | .at_ _ _, .at_ _ _ => true | _, _ => false) = true := by decide

theorem test_hyp_FabricEvents_full :
    let s := link0 { keyed with inbound := List.replicate 1792 (someFlit 0) } (one id)
    (s.linkAt 0 0).refuses (tagged (someFlit 0)) = false ∧ 1792 ≤ (s.linkAt 0 0).inbound.length := by
  intro s
  have h : s.linkAt 0 0 = { keyed with inbound := List.replicate 1792 (someFlit 0) } := rfl
  rw [h]; exact ⟨rfl, Nat.le_of_eq List.length_replicate.symm⟩

theorem test_hyp_LinksAndTime_states :
    (∀ st ∈ [LinkState.down, .train, .identify, .active, .narrowed, .quarantined],
      ((link0 { Link.reset with state := st } (one id)).linkAt 0 0).state = st) ∧
    4 ≤ laneCount 0xF ∧ laneCount 0x7 < 4 ∧
    (let s := link0 { Link.reset with state := .identify } (one id)
     portsWith s 0 0 0 1 = []) ∧
    (let s := (link0 { Link.reset with state := .identify } (one id)).setLink 1 23 { Link.reset with ident := some (0, 1, 9) }
     portsWith s 0 0 0 1 = [(1, 23, 9)] ∧ (8 : BitVec 32).toNat < (9 : BitVec 32).toNat ∧
       (9 : BitVec 32).toNat < (10 : BitVec 32).toNat) ∧
    4 ≤ laneCount (setBitTo (0x1F : BitVec 16) 0 false) ∧ laneCount (setBitTo (0xF : BitVec 16) 0 false) < 4 ∧
    (let l := { Link.reset with state := .active, unacked := [someFlit 3] }
     l.unacked = [someFlit 3]) ∧
    Link.reset.rollover = none ∧ Link.reset.rolloverAsked = none ∧ Link.reset.replay = none ∧
    (let l := { Link.reset with replay := some (3, 5), unacked := [someFlit 3, someFlit 5] }
     ∀ a b, l.replay = some (a, b) → ∀ x ∈ l.unacked, (4 : BitVec 48).toNat < x.q → b ≤ x.q) ∧
    (let l := { Link.reset with unacked := [someFlit 3], rollover := some 3 }
     (∃ x ∈ l.unacked, x.q = (3 : BitVec 48).toNat) ∧ l.rollover = some 3 ∧ ∀ x ∈ l.unacked, 3 ≤ x.q) ∧
    (let l := { Link.reset with rolloverAsked := some 3 }
     l.rolloverAsked = some 3 ∧ 3 < 4 ∧ l.replay = none ∧ 3 ≤ 3 ∧ ({ l with replay := some (0, 0) } : Link).replay.isSome) ∧
    (let l := { Link.reset with state := .active, phaseCount := 2 ^ 36 }
     l.state = .active ∧ 2 ^ 36 ≤ l.phaseCount) := by
  refine ⟨by decide, by decide, by decide, by decide, by decide, by decide, by decide, rfl, rfl, rfl, rfl, fun a b h => ?_, by decide,
    by decide, by decide⟩
  cases h; decide

/-- The checks of an identity record are free values: the clauses that need them are met by whatever they accept or refuse. -/
theorem test_hyp_LinksAndTime_identity (r : Identity) :
    identityOk (link0 { Link.reset with state := .identify } (one id)) r = true ∨
    identityOk (link0 { Link.reset with state := .identify } (one id)) r = false := by
  cases identityOk (link0 { Link.reset with state := .identify } (one id)) r <;> simp

theorem test_hyp_LinksAndTime_seed : ({ State.reset with seed := some 1 } : State).seed = some 1 := rfl

/-- Tower 0 has REALIGNs that wait for the exchanges of links 0 and 1, which are Active. -/
def realigning (d : BitVec 7) : State :=
  let s := rel { someRel with effect := .realign 0 3, gather := [0, 1] }
  (tow0 (fun t => { t with dsplit := d }) (link0 { Link.reset with state := .active } s)).setLink 0 1 { Link.reset with state := .active }

theorem test_hyp_LinksAndTime_exchanges :
    (∀ d ∈ [(0 : BitVec 7), 8], ∀ f ∈ [0, 1], exchanging (realigning d) 0 f = true ∧ ((realigning d).linkAt 0 f).carries = true ∧
      isUpstream (realigning d) 0 f = (f == 0) ∧ ((realigning d).towerAt 0).dsplit.getLsbD 3 = (d == 8)) ∧
    exchanging State.reset 0 0 = false ∧ (State.reset.linkAt 0 0).carries = false := by decide

theorem test_hyp_LinksAndTime_servo :
    State.reset.ftLock = false ∧ State.reset.ftStepped = false ∧ ({ State.reset with ftStepped := true } : State).ftStepped = true ∧
    ({ State.reset with ftLock := true } : State).ftLock = true ∧
    (256 : Int).natAbs ≤ 256 ∧ 256 < (257 : Int).natAbs ∧ (4096 : Int).natAbs ≤ 4096 ∧ 4096 < (4097 : Int).natAbs ∧
    (∀ c ∈ [4094, 4095], let s := { State.reset with ftRate := 1, ftEvery := 4096, ftCount := c }
      s.ftRate ≠ 0 ∧ (decide (s.ftEvery ≤ s.ftCount + 1) = (c == 4095))) ∧
    servoRequest State.reset 0 = none ∧
    (∀ f ∈ [0, 1], let s := tow0 (fun t => { t with host := [.servo f 0 0 0 0] }) State.reset
      servoRequest s 0 = some f ∧ isUpstream s 0 f = (f == 0)) ∧
    (let s := { link0 { Link.reset with stale := true } State.reset with ftLock := true }
     isUpstream s 0 0 = true ∧ s.ftLock = true) := by decide

/-! ### Launch, gangs, leaving a context -/

def someLaunch : Launch := { Launch.none with img := mkCap 1 0xFF 0 4096, share := 9, lmask := BitVec.allOnes 64 }
def someRec (st : RecState) : LRec :=
  { id := 7, queue := 0, launch := someLaunch, state := st, save := none, age := 0, notBefore := 0, place := some (0, 0), left := 0,
    prior := [] }
def queued (d : BitVec 7) : State :=
  tow0 (fun t => { t with queues := [(0, [{ someRec .eligible with place := none }])], dsplit := d }) withImage

theorem test_hyp_LaunchAndScheduling_frames :
    (let s := { one id with boot := 5, linkUp := true }
     5 ≤ s.boot ∧ s.linkUp = true ∧ ((s.towerAt (frameTower 1)).queue (frameQueue 1)).length < 256 ∧
     launchWaits s (frameTower 1) (frameQueue 1) = false ∧ launchWaits s (frameTower 2) (frameQueue 2) = false ∧
     frameSeq 1 = mapGet 0 (s.towerAt (frameTower 1)).rings (frameQueue 1) ∧ frameType 1 = 1 ∧ frameType 2 = 2 ∧
     frameSeq 2 = mapGet 0 (s.towerAt (frameTower 2)).rings (frameQueue 2) ∧ (s.towerAt 0).statusQ = [] ∧
     (s.towerAt 1).statusQ = []) := by decide



theorem test_hyp_LaunchAndScheduling_choice :
    (∀ d ∈ [(0 : BitVec 7), 16], let s := headsEvaluated 0 (queued d)
      statusFull s 0 = false ∧ (s.towerAt 0).dsplit = d ∧
      (chooseBest (s.towerAt 0).lastQueue (choices s 0)).any (fun c => c.place.isSome && choiceSound s 0 c) = true) ∧
    (let s := headsEvaluated 0 (tow0 (fun t => { t with qen := 0 }) (queued 0))
     statusFull s 0 = false ∧ (chooseBest (s.towerAt 0).lastQueue (choices s 0)).isNone = true) ∧
    (∃ c ∈ choices (queued 0) 0, c.q = 0) ∧
    (let s := tow0 (fun t => { t with queues := [(0, [{ someRec .head with place := none }])] }) withImage
     (∀ c ∈ choices s 0, c.q ≠ 0) ∧ ((s.towerAt 0).queueHead 0).isSome = true) ∧ ((queued 0).towerAt 0).queueHead 0 = some { someRec .eligible with place := none } := by
  decide

theorem test_hyp_LaunchAndScheduling_asked :
    let s := tow0 (fun t => { t with host := [.place 7 []] }) (queued 0)
    placeAsked 0 7 s ∧ placeAnswered 0 7 s = s.updTower 0 (fun t => { t with host := [] }) := by
  refine ⟨⟨⟨[], List.mem_cons_self ..⟩, fun j f h => ?_⟩, rfl⟩
  injection List.mem_singleton.mp (show HostReq.place j f ∈ [HostReq.place 7 []] from h)

theorem test_hyp_LaunchAndScheduling_host :
    let u := (tow0 (fun t => { t with host := [.place 7 []] }) (queued 0)).updTower 0 (fun t => { t with host := [] })
    ((choices u 0).find? (fun x => x.rec_.id == 7)).any (fun c => decide (imageCheck u c.rec_.launch c.image = none) &&
      (fitsIn (granted u 0 c.rec_.launch.share [[1], [3]]) u 0 0 c.rec_.launch c.image).isSome &&
      (fitsIn (granted u 0 c.rec_.launch.share [[1], []]) u 0 0 c.rec_.launch c.image).isNone &&
      (fitsIn (granted u 8 c.rec_.launch.share [[1], [3]]) u 0 1 c.rec_.launch c.image).isNone) = true := by decide

/-- Record 7 in progress at context 0 of layer 0, in state `st`. -/
def inProgress (st : RecState) (gcnt : DWord) (f : Ctx → Ctx) : State :=
  tow0 (fun t => { t with running := [{ someRec st with launch := { someLaunch with word56 := gcnt } }] }) (one f)

theorem test_hyp_LaunchAndScheduling_placement :
    (let s := inProgress .placing 0 (fun x => { x with state := .placing, task := .placed })
     (recOf s 0 0).any (fun r => r.ended.gcnt == 0) = true ∧ (s.ctxAt 0).state = .placing ∧ (s.ctxAt 0).task = .placed) ∧
    (let s := inProgress .placing (BitVec.allOnes 64) (fun x => { x with state := .placing, task := .placed })
     (recOf s 0 0).any (fun r => r.ended.gcnt != 0) = true ∧ (s.ctxAt 0).state = .placing) ∧
    (let s := inProgress .placed 0 (fun x => { x with state := .resident, task := .placed })
     (recOf s 0 0).any (fun r => r.state == .placed) = true ∧ (s.ctxAt 0).state = .resident ∧ (s.ctxAt 0).task = .placed) := by
  decide

/-- A gang of three at its coordinator, one member of which has reported. -/
def someGang (failed : Bool) : Gang := { gid := 0, count := 3, ready := [(0, 0)], first := 0, start := none, failed := failed }

theorem test_hyp_Gangs :
    coordinator 0 = State.reset.pkg ∧ State.reset.gangs = [] ∧
    (∀ b : Bool, let s := { one id with gangs := [someGang b] }
     coordinator 0 = s.pkg ∧ s.gangs.find? (fun x => x.gid == 0) = some (someGang b) ∧ (1, 2) ∉ (someGang b).ready ∧
     (someGang b).ready.length + 1 < 3 ∧ 2 ≤ (someGang b).ready.length + 1) ∧
    (let s := inProgress .gangHeld 0 (fun x => { x with state := .held })
     (heldMembers s 0 0).map (fun m => m.2) = [(0, 0)]) ∧
    (∀ lock ∈ [true, false], let s := { inProgress .gangHeld 0 (fun x => { x with state := .held, startTick := some 0 }) with ftLock := lock }
     (s.ctxAt 0).startTick = some 0 ∧ (s.ctxAt 0).state = .held ∧ (0 : DWord).toNat ≤ s.tick.toNat ∧ (recOf s 0 0).isSome = true ∧
     (s.ftLock || s.ftGm) = lock) ∧
    (let s := { one id with gangs := [someGang false], tick := 2 ^ 20 }
     s.gangs.find? (fun x => x.gid == 0) = some (someGang false) ∧
     (someGang false).first + 2 ^ ((s.towerAt 0).gto.toNat + 16) ≤ s.tick.toNat ∧
     (someGang false).ready.length + 1 < (someGang false).count) := by decide

theorem test_hyp_LeavingAContext_exits :
    (let s := one (fun x => { x with state := .releasing, exiting := some 0 })
     (s.ctxAt 0).exiting.isSome ∧ (s.ctxAt 0).killing = false ∧ (s.ctxAt 0).regions = [] ∧ settling 0 0 s = false ∧
     holding 0 0 s = false ∧ statusFull s 0 = false ∧ ∀ e ∈ (s.ctxAt 0).n, e.2 = 0) ∧
    (∀ st ∈ [ReqState.port, .parked (some 1)],
      let s := { one (fun x => { x with state := .releasing, exiting := some 0 }) with
        reqs := [{ someReq with kind := .load 0 0 none false, state := st }] }
      (s.ctxAt 0).state = .releasing ∧ (s.ctxAt 0).killing = false ∧ (settling 0 0 s = true ∨ holding 0 0 s = true)) ∧
    (let s := one (fun x => { x with state := .releasing, exiting := some 0, killing := true })
     (s.ctxAt 0).killing = true ∧ settling 0 0 s = false ∧ statusFull s 0 = false) ∧
    (let s := lay0 (fun l => { l with step := 1 }) (one (fun x => { x with state := .discarding, trap := some someTrap }))
     (s.ctxAt 0).trap = some someTrap ∧ (s.ctxAt 0).trapStep < (s.layerAt 0).step ∧ settling 0 0 s = false ∧
     someTrap.cause ≠ .pgKill) ∧
    (∀ c ∈ [0, 4], let s := (tow0 (fun t => { t with host := [.trap 0 c []] }) (one id)).updCtx (ctxKey 0 c) (fun x =>
       { x with task := .trapped })
     hostHasTrap s 0 c = true ∧ (s.ctxAt (ctxKey 0 c)).task = .trapped) := by decide

def somePreq (kill : Bool) (limit : Nat) : Preq :=
  { ctx := 0, kill := kill, area := mkCap 1 0xFF 0 limit, host := false, since := 0 }

theorem test_hyp_LeavingAContext_preemption :
    (∀ p ∈ [somePreq true 4096, somePreq false 4096],
      (let s := lay0 (fun l => { l with preq := some p }) (one (fun x => { x with state := .resident, task := .ready }))
       (s.layerAt 0).preq = some p ∧ p.ctx = 0 ∧ p.since ≤ s.cycleOf 0 ∧ (s.layerAt 0).power = .run) ∧
      (let s := lay0 (fun l => { l with preq := some p, step := 1 }) (one (fun x => { x with state := .discarding }))
       (s.ctxAt 0).trap = none ∧ (s.ctxAt 0).trapStep < (s.layerAt 0).step ∧ settling 0 0 s = false)) ∧
    (let s := lay0 (fun l => { l with preq := some (somePreq true 0) }) (one id)
     (s.ctxAt 0).state = .free ∧ (s.layerAt 0).preq = some (somePreq true 0)) ∧
    (let s := { one (fun x => { x with task := .ready }) with kcap := some 0 }
     (s.layerAt 0).preq = none ∧ (s.ctxAt 0).task ≠ .free) := by decide

theorem test_hyp_LeavingAContext_area :
    (let s := { one (fun x => { x with task := .ready }) with kcap := some 0 }
     let a := s.sealCap (mkCap 1 0xFF 0 4096)
     s.capValid a = true ∧ capNull a = false ∧ hasRight a 1 = true ∧ 512 ≤ capLimit a - capBase a) := by decide

/-- Context 0 of layer 0 as it is saved to an area of `n` bytes. -/
def saving (n : Nat) : State :=
  { lay0 (fun l => { l with preq := some (somePreq false n) }) (one (fun x => { x with state := .saving })) with mem := imageMem }

theorem test_hyp_LeavingAContext_save :
    ((saving 65536).layerAt 0).preq = some (somePreq false 65536) ∧ saveWaits (saving 65536) 0 = false ∧
    (match resumeDesc (saving 65536) 0 ((saving 65536).ctxAt 0) with
     | .ok d =>
       let n := (saveRecord (saving 65536) 0 0 0 d).length
       decide (n ≤ 65536) && (areaPlaces (saving 65536) 0 1 0 n (asidOf (saving 65536) 0)).all (fun w => match w.2.2 with
         | .at_ _ _ => true
         | _ => false)
     | .error _ => false) = true := by decide +kernel

theorem test_hyp_LeavingAContext_small_area :
    (match resumeDesc (saving 16) 0 ((saving 16).ctxAt 0) with
     | .ok d => !((saveRecord (saving 16) 0 0 0 d).drop 16).isEmpty
     | .error _ => false) = true := by decide +kernel

theorem test_hyp_LeavingAContext_requests :
    (let s := (one (fun x => { x with task := .ready })).updCtx 4 (fun x => { x with g := [(15, mkCap 1 0xFF 0 4096)] })
     mtsrBad { s with lay := 0, ctx := 4 } 0x032 (BitVec.ofNat 64 (0 + 4)) = false ∧
     mtsrBad { s with lay := 0, ctx := 4 } 0x032 (BitVec.ofNat 64 (0 + 8 * 15)) = false) ∧
    (let q := { someReq with srid := some 3, ctxKey := 128, state := .performed }
     let v : Saved := { srid := 3, cap := 0, outst := 1, recs := [], asid := 0 }
     let s := { port q with saved := [v] }
     s.findReq 5 = some q ∧ s.saved = [v] ∧ v.srid = 3 ∧ (∀ r ∈ s.reqs, r.id ≠ q.id → r.eff ≠ q.eff) ∧ q.ctr = none) := by
  decide

/-! ### Memory control, power, failures, boot -/

def someFault : FaultRec :=
  { fid := 2, port := 1024, obj := 1, base := 0, size := 65536, write := true, np := true, ctx := 0, off := 0, asid := 0 }

/-- Request 5 waits for a walk of the host's. -/
def walked : State :=
  let q := { someReq with state := .walking 5 }
  tow0 (fun t => { t with host := [.walk 5 q.obj q.addr q.asid false] }) (port q)

/-- A level-0 entry of a page that may be written, and one of a page that is not there, under the zero policy. -/
def presentEntry : DWord := 0x13
def absentEntry : DWord := 0x6

theorem test_hyp_MemoryControlEvents_events :
    (let q := { someReq with state := .ready someLeaf }
     (port q).reqs = [q] ∧ someLeaf.size ≠ 0) ∧
    ((∀ id ∈ State.reset.tinvWait, tinvUses State.reset id = false) ∧
     let s := { port { someReq with state := .ready someLeaf } with tinvWait := [5] }
     5 ∈ s.tinvWait ∧ tinvUses s 5 = true) ∧
    (let s := lay0 (fun l => { l with faults := [someFault] }) (port { someReq with state := .parked (some 2) })
     (s.layerAt 0).faults = [someFault] ∧ someFault.fid = (2 : BitVec 16).toNat) ∧
    hostWalkStale walked 5 = some false ∧ walksOfPage walked 5 0 = [5] ∧
    walked.reqs.filter (fun r => r.state == .walking 5) = walked.reqs ∧
    carriesData someReq = true ∧
    (pteBad presentEntry 0 = false ∧ presentEntry.getLsbD 0 = true ∧ presentEntry.getLsbD 1 = true ∧
      leafFault (pteLeaf presentEntry 0) someReq.writes = false ∧ isRetired walked ((pteLeaf presentEntry 0).pa 0) = false) ∧
    (pteBad absentEntry 0 = false ∧ absentEntry.getLsbD 0 = false ∧ fld absentEntry 2 2 = 1) := by decide

theorem test_hyp_MemoryControlEvents_loads :
    (∀ f ∈ [Effect.lstld (mkCap 1 0xFF 0 65536) 0 0 0 0, .mpsld (mkCap 1 0xFF 0 65536) 0 false 0 1 0,
        .mpsld (mkCap 1 0xFF 0 65536) 0 true 0 32 0],
      let e := { someRel with effect := f, phase := 2 }
      findReleased { withImage with released := [e] } 9 = some e) ∧
    (∀ q ∈ withImage.reqs, q.eff = 9 → q.kind ≠ .recordRead) ∧ objRemote withImage (capObj (mkCap 1 0xFF 0 65536)) = false ∧
    readObj withImage 0 1 0 8 1 = .bytes [0x57, 0x49, 0x4D, 0x47, 1, 0, 0, 0] false ∧
    (match readObj withImage 0 1 0 256 1 with | .bytes b p => b.length == 256 && !p | _ => false) = true := by decide

def somePower (t : Power) (started : Bool) : PowerReq := { target := t, ctxKey := 0, n := 0, started := started, left := 0 }

theorem test_hyp_PowerEvents_requests :
    (let s := lay0 (fun l => { l with preqs := [somePower .doze false] }) (one id)
     (s.layerAt 0).preqs = [somePower .doze false] ∧ .doze ≠ (s.layerAt 0).power ∧ layerDead s 0 = false ∧
     transitionAllowed s 0 .doze = true ∧ unsent s 0 .doze = false) ∧
    (∀ p ∈ [somePower .doze true, somePower .off true], let s := lay0 (fun l => { l with preqs := [p] }) (one id)
     (s.layerAt 0).preqs = [p] ∧ (s.layerAt 0).power = .run ∧ p.ctxKey < 128 ∧ unsent s 0 p.target = false ∧
     transitionAllowed s 0 p.target = true) ∧
    (let s := lay0 (fun l => { l with power := .off, preqs := [somePower .run true] }) (one id)
     (s.layerAt 0).power = .off ∧ copying s 0 = false) ∧
    (let s := tow0 (fun t => { t with divNext := some 8 }) (one id)
     (s.towerAt 0).divNext = some 8 ∧ (s.towerAt 0).cycle % 256 = 0) := by decide

theorem test_hyp_PowerEvents_readings :
    State.reset.ms ≤ State.reset.pwrMs ∧
    (let s : State := { State.reset with tick := 1000000 }
     s.pwrMs < s.ms ∧ s.pwrLimit.toNat < (3601 : BitVec 16).toNat ∧ 8 < (s.towerAt 0).limDiv.toNat ∧
     (3420 : BitVec 16).toNat ≤ s.pwrLimit.toNat ∧ 95 * s.pwrLimit.toNat ≤ 100 * (3420 : BitVec 16).toNat) ∧
    (∀ h ∈ [false, true], let s := tow0 (fun t => { t with limDiv := 15, hot := h }) (one id)
     100 * (3419 : BitVec 16).toNat < 95 * s.pwrLimit.toNat ∧ (s.towerAt 0).limDiv.toNat < 16 ∧ (s.towerAt 0).hot = h ∧
     (s.towerAt 0).div ≠ 8 ∧ (s.towerAt 0).div ≠ (s.towerAt 0).limDiv) ∧
    (∀ p ∈ [Power.run, .off], let s := lay0 (fun l => { l with power := p }) (one (fun x => { x with task := .issuing }))
     (s.ctxAt 0).task ≠ .free ∧ (s.ctxAt 0).exiting = none ∧ (s.ctxAt 0).killing = false ∧ (s.layerAt 0).power = p) := by decide

/-- Layer 0, with a task in context 0 that issues. -/
def running : State := one (fun x => { x with state := .resident, task := .issuing })

theorem test_hyp_FailureEvents_errors :
    logicalOf (running.towerAt 0) 0 = some 0 ∧ (running.ctxAt 0).task ≠ .free ∧ (running.ctxAt 0).state = .resident ∧
    (running.ctxAt 0).task ≠ .trapped ∧ (running.ctxAt 0).task ≠ .placed ∧ (running.ctxAt 0).quieted = false ∧
    ((running.layerAt 0).uncorr.filter (fun m => running.cycleOf 0 < m + 2 ^ 30)).length < 3 ∧
    (let f : Flight := { running.flightNow with ctx := 0, t := 0, slots := [{ idx := 0, instr := .nop, limm := none, draw := 0, eff := 0, cap := 0, ahead := false }] }
     let s := lay0 (fun l => { l with flight := [f], step := 28 }) running
     readingFlight s 0 0 63 = some f) ∧
    (let s := running.updCell 63 (fun c => { c with landing := [someLanding] })
     (s.cellAt (cellKey 0 63)).landing[0]? = some someLanding) ∧
    (let s := lay0 (fun l => { l with stall := true }) running
     (s.layerAt 0).power = .run ∧ (s.layerAt 0).stall = true) := by decide

theorem test_hyp_FailureEvents_parts :
    (let s := tow0 (fun t => { t with retries := [(0, 17)] }) (one id)
     16 < mapGet 0 (s.towerAt 0).retries 0) ∧
    (let s := tow0 (fun t => { t with failed := [3] }) running
     3 ∈ (s.towerAt 0).failed ∧ logicalOf (s.towerAt 0) 8 = none ∧ 8 ∉ (s.towerAt 0).failed) ∧
    0 ∉ (running.towerAt 0).failed ∧
    (let s := tow0 (fun t => { t with failed := [0] }) (lay0 (fun l => { l with failing := some 0 }) running)
     (s.layerAt 0).failing = some 0 ∧ (s.towerAt 0).spare = none ∧ 8 ∉ (s.towerAt 0).failed ∧
     (s.towerAt 0).dsplit.getLsbD 6 = false) ∧
    (∀ f ∈ [[3], [3, 8]], let s := tow0 (fun t => { t with host := [.spare 3 3], failed := f }) (one id)
     (s.towerAt 0).host = [.spare 3 3] ∧ (s.towerAt 0).spare = none ∧ (f = [3] → 8 ∉ (s.towerAt 0).failed)) := by decide

/-- The package with nothing but `c` in its flash. -/
def flashed (c : RecordCopy) : State := { State.reset with flash := { Flash.blank with copy0 := some c } }

/-- The signature checks are free values: the clauses of BootEvents that need them are met by whatever they accept. -/
theorem test_hyp_BootEvents_records (c : RecordCopy) :
    (copyOk (flashed c) c = true → chooseCopy (flashed c) = some c) ∧
    (copyOk (flashed c) c = false → chooseCopy (flashed c) = none) := by
  constructor <;> intro h
  · have e : ([(flashed c).flash.copy0, (flashed c).flash.copy1].filterMap id).filter (copyOk (flashed c)) = [c] :=
      List.filter_cons_of_pos h
    unfold chooseCopy; rw [e]; rfl
  · have e : ([(flashed c).flash.copy0, (flashed c).flash.copy1].filterMap id).filter (copyOk (flashed c)) = [] :=
      List.filter_cons_of_neg (by simp [h])
    unfold chooseCopy; rw [e]

theorem test_hyp_BootEvents_keys (seed : BitVec 256) :
    (let s := { State.reset with boot := 3, seed := some seed }
     s.boot = 3 ∧ s.seed = some seed ∧
     ({ body := 0, tag := Config.kcapTag seed 0 } : SealedKey).tag = Config.kcapTag seed 0) ∧
    ({ body := 0, tag := Config.kcapTag seed 0 + 1 } : SealedKey).tag ≠ Config.kcapTag seed 0 ∧
    State.reset.boot ≠ 3 ∧ State.reset.config = none ∧ (State.reset.towerAt 0).statusQ = [] ∧ (State.reset.towerAt 1).statusQ = [] := by
  refine ⟨⟨rfl, rfl, rfl⟩, fun h => ?_, by decide, by decide, by decide, by decide⟩
  have h : Config.kcapTag seed 0 + 1 = Config.kcapTag seed 0 := h
  bv_omega

theorem test_hyp_BootEvents_supervisors :
    (let s := { State.reset with boot := 4 }
     s.boot = 4 ∧ supervisorOk s [] = false) ∧
    (let s : State := { State.reset with boot := 5 }
     s.boot = 5 ∧ supervisorOk s [] = false ∧ ∀ n, n < 8 → (s.layerAt (8 * 0 + n)).power = .off) ∧
    (({ one id with boot := 5 } : State).layerAt (8 * 0 + 0)).power ≠ .off := by decide

/-! ### Traps, discards, steps -/

theorem test_hyp_TrapTaken :
    (let s := one (fun x => { x with state := .resident, task := .issuing })
     (s.ctxAt 0).state = .resident ∧ (s.ctxAt 0).task ≠ .trapped ∧ (s.ctxAt 0).task ≠ .placed ∧ (s.ctxAt 0).quieted = false) ∧
    (let s := one (fun x => { x with state := .resident, task := .issuing, quieted := true })
     (s.ctxAt 0).quieted = true ∧ someTrap.dec = true ∧ ({ someTrap with dec := false } : TrapInfo).dec = false ∧ someTrap.cause ≠ .watchdog) ∧
    (∀ x ∈ [(CtxState.resident, TaskState.trapped), (.resident, .placed), (.saving, .ready), (.placing, .placed), (.held, .placed)],
      let s := one (fun y => { y with state := x.1, task := x.2 })
      (s.ctxAt 0).state = x.1 ∧ (s.ctxAt 0).task = x.2) ∧
    (∀ e ∈ [((4 : Nat), false), (3, true)],
      let s := lay0 (fun l => { l with step := e.1 })
        (one (fun x => { x with state := .discarding, trap := some someTrap, trapStep := 3, fromHeld := e.2 }))
     (s.ctxAt 0).trapStep ≠ (s.layerAt 0).step ∨ (s.ctxAt 0).fromHeld = true) ∧
    (let s := lay0 (fun l => { l with step := 3 })
       (one (fun x => { x with state := .discarding, trap := some someTrap, trapStep := 3 }))
     (s.ctxAt 0).trap = some someTrap ∧ (s.ctxAt 0).trapStep = (s.layerAt 0).step ∧ (s.ctxAt 0).fromHeld = false) ∧
    (∀ n ∈ [3, 4], let s := lay0 (fun l => { l with step := n }) (one (fun x => { x with state := .discarding, trapStep := 3 }))
     (s.ctxAt 0).state = .discarding ∧ (s.ctxAt 0).trap = none ∧ (decide ((s.ctxAt 0).trapStep = (s.layerAt 0).step) = (n == 3))) := by decide

theorem test_hyp_DiscardReturnsToTheOldestRegion :
    (let s := one (fun x => { x with regions := [someRegion, { someRegion with id := 1 }] })
     (s.ctxAt (ctxKey 0 0)).regions = [someRegion, { someRegion with id := 1 }] ∧ (s.ctxAt 0).killing = false) := by decide

theorem test_hyp_StepAdvanceLandsResults :
    (let s := lay0 (fun l => { l with pend := [somePend (.s 3)] }) (one id)
     (s.layerAt 0).power = .run ∧ (s.layerAt 0).frozen = none ∧ (s.layerAt 0).pend = [somePend (.s 3)] ∧
     (s.layerAt 0).flight = [] ∧ (s.layerAt 0).votes = [] ∧ s.cells = [] ∧ s.reqs = [] ∧ s.released = [] ∧
     (∀ c, c < 5 → (s.ctxAt (ctxKey 0 c)).regions = [] ∧ (s.ctxAt (ctxKey 0 c)).outs = [] ∧
       mustDiscard (s.ctxAt (ctxKey 0 c)) = false) ∧
     (somePend (.s 3)).due = (s.layerAt 0).step + 1 ∧ (somePend (.s 3)).lag = 0) ∧
    (∀ l ∈ [Loc.s 63, .k 7], let v : Vote := { ctx := 0, region := 0, due := 1, seq := 0, loc := l, kind := 3, acc := 1 }
     let s := lay0 (fun l => { l with votes := [v] }) (one id)
     (s.layerAt 0).pend = [] ∧ (s.layerAt 0).votes = [v] ∧ v.due = (s.layerAt 0).step + 1 ∧ v.loc = l ∧ v.kind = 3 ∧ v.acc ≠ 0) ∧
    (State.reset.layerAt 0).power ≠ .run := by decide +kernel

/-- Eight words of supervisor code, the last with its stop bit: the longest bundle, and the shortest at its last word. -/
theorem test_hyp_FetchStopsAtTheStopBit :
    let s := tow0 (fun t => { t with supImage := some (List.replicate 28 0 ++ [0, 0, 0, 0x80]) }) (one id)
    let c := { Ctx.free with image := { ImageInfo.none with codeLen := 32 } }
    bundleAt s 0 c 8 0 [] = .ok [0, 0, 0, 0, 0, 0, 0, 0x80000000] ∧ bundleAt s 0 c 8 28 [] = .ok [0x80000000] := by decide

theorem test_hyp_StepRunsTheDecodedInstruction :
    (let s := State.reset.withFetchWord 32 0x08010389
     s.phase = .slots ∧ s.latch.words[s.latch.slot]? = some 0x08010389 ∧ decodeSlot 0x08010389 = .ok (.add 4 7 9)) ∧
    (let s := State.reset.withFetchWord 32 0x7C000000
     s.latch.words[s.latch.slot]? = some 0x7C000000 ∧ (match decodeSlot 0x7C000000 with | .error _ => true | .ok _ => false) = true) ∧
    ({ State.reset with agenda := [.planSwitch] }.phase ≠ .slots) := by decide

/-! ### Micro-operations, slot checks, tables -/

/-- `armed`, with routine `q` in cell (0,0), M = NM = KM = 1 and FP format 3 throughout. -/
def micro (q : Routine) : State :=
  (armed.updCell 0 (fun c => { c with routine := some q, pfmt := [(0, 3)] })).updCc (ccKey 0 0 4) (fun e =>
    { e with m := [(1, 0xC40), (2, 0x4101), (4, 1)] })

theorem test_hyp_MicroControl :
    (∀ b ∈ [1, 100], let q := someRoutine b; let s := micro q
      s.routine = some q ∧ q.ended = false ∧ q.at_ = s.now ∧ (decide (b = 1) = true ↔ s.now + 1 = q.e + q.bc)) ∧
    (let q := someRoutine 100
     q.arrayFree ≤ (micro q).now ∧ q.passes = [] ∧ (∀ e ∈ q.rows, e.2.2.2 = true) ∧ q.loops.length < 2 ∧
     q.pc + (9 : BitVec 4).toNat ≤ q.len) := by decide

theorem test_hyp_MicroData_rows :
    (let q := someRoutine 100; let s := micro q
     q.fi < q.rowsM s ∧ q.fi < q.sc + 2 ∧ q.afmt s = 3 ∧ q.had s = 0 ∧ 0 ≤ ((netAddr (q.m s 0)).base : Int) + q.rb + q.fi ∧
     ((netAddr (q.m s 0)).base : Int) + q.rb + q.fi + 31 ≤ 255 ∧ q.field s 1 6 1 = 1 ∧
     (q.line s (((netAddr (q.m s 0)).base : Int) + q.rb + q.fi).toNat).isSome = true) ∧
    (let q := { someRoutine 100 with fi := 1 }
     q.rowsM (micro q) ≤ q.fi) := by decide

theorem test_hyp_MicroData_passes :
    (let q := { someRoutine 100 with rows := [(0, 0, 0, false)] }; let s := micro q
     stepIllegal q s = false ∧ mapFind q.rows (q.sc % 2) = some (q.sc, 0, false) ∧ 0 ≤ s.now ∧ q.arrayFree ≤ s.now ∧
     mapFind q.passes (q.sc % 2) = none ∧ badWeight q s = none) ∧
    (let q := { someRoutine 100 with sc := 1, passes := [(0, 0, 0)] }; let s := micro q
     q.ai + 1 ≤ q.sc ∧ mapFind q.passes (q.ai % 2) = some (q.ai, 0) ∧
     (∀ j, j < 2 * q.nm s → ((s.ctxAt (ctxKey s.lay q.ctx)).share.physTile (q.field s 3 0 6 + j)).isSome = true)) := by decide

/-- A task's context instead of the supervisor's, outside a sealing bundle. -/
def taskState : State :=
  { armed with ctx := 0, latch := { armed.latch with bctl := .zero } }

theorem test_hyp_slot_checks :
    (∀ i ∈ forms4, isSlot i = true) ∧
    (slotFault (.add 64 0 0) armed).isSome = true ∧
    (let s := armed.updMe (fun c => { c with n := [(0, BitVec.allOnes 24)] })
     slotFault (.drain 0) s = none ∧ slotHold (.drain 0) s = true) ∧
    ((Instr.mfsr 0 0xFFF).subfieldsOk = true ∧ placementFault (.mfsr 0 0xFFF) armed = none ∧
      (Instr.mfsr 0 0xFFF).operandsOk = true ∧ specialAssigned 0xFFF = false) ∧
    (placementFault (.mtsr 0 0x030) taskState = none ∧ taskState.ctx ≠ 4 ∧ specialUser 0x030 = false) ∧
    supOnly (.eret 0) = true ∧ needsSeal .yield = true ∧ taskState.latch.bctl.sealed = false := by decide

theorem test_hyp_IssueTraps_calls :
    (let s := armed.updMe (fun c => { c with shadow := List.replicate 64 0 })
     placementFault (.call 0 0) s = none ∧ 64 ≤ s.me.shadowView.length) ∧
    (let s := armed.updMe (fun c => { c with shadow := [] })
     placementFault (.ret 0) s = none ∧ s.me.shadowView = []) ∧
    (armed.me.shadowView = [0] ∧ 0 ≠ armed.src 1) ∧
    (placementFault (.cderive 0 0 0) armed = none ∧ armed.me.gReg 0 = 0 ∧ (∀ r ∈ dests (.cderive 0 0 0) ++ srcs (.cderive 0 0 0),
      armed.me.share.has r = true)) := by decide

theorem test_hyp_DivisionAndOperandCodes :
    (let s := { armed.updMe (fun c => { c with s := [(1, BitVec.intMin 64), (2, -1)] }) with lay := 0 }
     s.latch.limm = none ∧ s.src 0 = 0 ∧ s.src 1 = BitVec.intMin 64 ∧ s.src 2 = -1) ∧
    (63 : BitVec 7).toNat ≤ 63 ∧ (81 : BitVec 7).toNat ≤ 81 ∧ 63 < (64 : BitVec 7).toNat ∧ 81 < (82 : BitVec 7).toNat := by decide +kernel

theorem test_hyp_AccumulatorClear :
    placementFault (.aclr 63 1) armed = none ∧ armed.me.share.physTile (63 + 1) = none ∧
    (somePend (.acc 0 3)).mask = BitVec.allOnes 32768 := by decide +kernel

theorem test_hyp_IntegerCompares :
    placementFault (.vcmpeq 95 0 0) armed = none ∧ placementFault (.vcmplt 112 0 0) armed = none ∧
    ¬ (96 ≤ (95 : BitVec 7).toNat ∧ (95 : BitVec 7).toNat ≤ 111) ∧ (somePend (.p 0 1)).loc = .p 0 1 := by decide

/-- The tables of the arithmetic slots name their forms. -/
theorem test_hyp_tables (d a b : BitVec 7) (n : BitVec 14) :
    (scalarOf (.sltu d a b)).isSome ∧ (immediateOf (.shri d n)).isSome ∧ (xaluOf (.xmax d a b)).isSome ∧
    (vintOf (.vabs d a)).isSome ∧ (vfltOf (.vflog2 d a)).isSome ∧ (vcmpOf (.vcmplt d a b)).isSome ∧
    (vfcmpOf (.vfcmple d a b)).isSome ∧ (vpredOf (.pnone d)).isSome ∧ (landsIn (.ldd d a b)).isSome ∧
    (waitsInWelt (.drain 0)).isSome ∧ mayWriteMemory (.add d a b) = false := by
  exact ⟨rfl, rfl, rfl, rfl, rfl, rfl, rfl, rfl, rfl, rfl, rfl⟩

/-- Memory is canonical at reset, and a step from there is a next state. -/
theorem test_hyp_StepKeepsMemoryCanonical :
    MemInv State.reset ∧ ∃ t, step (State.reset.withFetchWord 32 0) = .next t :=
  ⟨by unfold MemInv; decide, _, rfl⟩

theorem test_hyp_FormsThatNeedASealingBundle : taskState.latch.bctl.sealed = false := by decide

end Sys2Proof.Tests
end

section
/-!
PROOF. The scalar ALU's slots (R156, R157): which checks of R138 and R155 concern them, what they land, and the corners of
division.
-/

namespace Sys2Proof.Proofs

open Sys2Proof.Machine Sys2Proof.Claims

/-! ### Operand codes (R141, R142) -/

theorem okS3_iff (d a b : BitVec 7) : okS3 d a b = true ↔ d.toNat ≤ 63 ∧ a.toNat ≤ 81 ∧ b.toNat ≤ 81 := by
  simp [okS3, dstS, srcS, and_assoc, Nat.lt_succ_iff]

theorem okS3_eq_false_iff (d a b : BitVec 7) : okS3 d a b = false ↔ 63 < d.toNat ∨ 81 < a.toNat ∨ 81 < b.toNat := by
  rw [← Bool.not_eq_true, okS3_iff]
  omega

/-- No share limits the scalar registers (R40, R41). -/
theorem has_of_mem_regS (h : Share) (c : BitVec 7) : ∀ r ∈ regS c, h.has r = true := by
  unfold regS
  split
  · rintro r hr
    rw [List.mem_singleton.mp hr]
    rfl
  · simp

theorem has_of_mem_one_s (h : Share) (n : Nat) : ∀ r ∈ one .s n, h.has r = true := by
  rintro r hr
  rw [List.mem_singleton.mp hr]
  rfl

/-! ### The ALU's operations, as functions of two words (R156) -/

theorem minS_eq : minS = fun x y => if y.toInt < x.toInt then y else x := by
  funext x y; simp [minS, BitVec.slt]

theorem maxS_eq : maxS = fun x y => if x.toInt < y.toInt then y else x := by
  funext x y; simp [maxS, BitVec.slt]

theorem minU_eq : minU = fun x y => if y.toNat < x.toNat then y else x := by
  funext x y; simp [minU, BitVec.ult]

theorem maxU_eq : maxU = fun x y => if x.toNat < y.toNat then y else x := by
  funext x y; simp [maxU, BitVec.ult]

theorem oneIf_beq_eq : (fun x y : DWord => oneIf (x == y)) = fun x y => if x = y then 1 else 0 := by
  funext x y; simp [oneIf]

theorem oneIf_bne_eq : (fun x y : DWord => oneIf (x != y)) = fun x y => if x = y then 0 else 1 := by
  funext x y; simp [oneIf, bne]

theorem oneIf_slt_eq : (fun x y : DWord => oneIf (x.slt y)) = fun x y => if x.toInt < y.toInt then 1 else 0 := by
  funext x y; simp [oneIf, BitVec.slt]

theorem oneIf_ult_eq : (fun x y : DWord => oneIf (x.ult y)) = fun x y => if x.toNat < y.toNat then 1 else 0 := by
  funext x y; simp [oneIf, BitVec.ult]

/-! ### A scalar ALU slot's issue -/

/-- A form outside FLOW that takes no immediate: a delay bundle admits it (R167), a LIMM before it does not (R148). -/
theorem failIf_delay_or_limm (delayed limm : Bool) (t : TrapInfo) :
    failIf (delayed && false || limm && true || false) t = failIf limm t := by
  simp only [Bool.and_false, Bool.and_true, Bool.false_or, Bool.or_false]

/-- What a slot of the scalar ALU is to the checks and holds of R138, R155 and R358: of them all, only that of its operand
codes can fail where no LIMM stands before it. -/
structure IsScalarSlot (i : Instr) (d a b : BitVec 7) : Prop where
  subfields : i.subfieldsOk = true
  placement : ∀ s, placementFault i s = failIf s.latch.limm.isSome (s.issueTrap .illegal 3)
  operands : i.operandsOk = okS3 d a b
  registers : dests i ++ srcs i = one .s d.toNat ++ (regS a ++ regS b)
  form : ∀ s, formFault i s = none
  welt : takesWelt i = false
  hold : ∀ s, slotHold i s = false

variable {i : Instr} {d a b : BitVec 7} {f : DWord → DWord → DWord} {s : State}

theorem isScalarSlot_of_scalarOf (h : scalarOf i = some (d, a, b, f)) : IsScalarSlot i d a b := by
  unfold scalarOf at h
  split at h
  case h_25 => cases h
  all_goals
    cases h
    exact ⟨rfl, fun s => failIf_delay_or_limm (decide (0 < s.me.delay)) s.latch.limm.isSome _, rfl, rfl, fun _ => rfl, rfl,
      fun _ => rfl⟩

/-- Every form of the table issues with the operation that the table names. -/
theorem exec_of_scalarOf (h : scalarOf i = some (d, a, b, f)) (s : State) : exec i s = issue i s (scalar2 d a b f) := by
  unfold scalarOf at h
  split at h
  case h_25 => cases h
  all_goals cases h
  -- MIN, MAX, MINU, MAXU, SEQ, SNE, SLT and SLTU are written with Boolean comparisons; the others stand as in the table.
  case h_13 => rw [← minS_eq]; rfl
  case h_14 => rw [← maxS_eq]; rfl
  case h_15 => rw [← minU_eq]; rfl
  case h_16 => rw [← maxU_eq]; rfl
  case h_17 => rw [← oneIf_beq_eq]; rfl
  case h_18 => rw [← oneIf_bne_eq]; rfl
  case h_19 => rw [← oneIf_slt_eq]; rfl
  case h_20 => rw [← oneIf_ult_eq]; rfl
  all_goals rfl

theorem IsScalarSlot.registers_in_share (hi : IsScalarSlot i d a b) (h : Share) :
    (dests i ++ srcs i).any (fun r => !h.has r) = false := by
  rw [hi.registers, List.any_eq_false]
  intro r hr
  simp only [List.mem_append] at hr
  obtain hr | hr | hr := hr
  · simp [has_of_mem_one_s h _ r hr]
  · simp [has_of_mem_regS h _ r hr]
  · simp [has_of_mem_regS h _ r hr]

theorem IsScalarSlot.slotFault_eq (hi : IsScalarSlot i d a b) (hl : s.latch.limm = none) :
    slotFault i s = failIf (!okS3 d a b) (s.issueTrap .illegal 4) := by
  simp only [slotFault, hi.subfields, hi.placement, hl, hi.operands, hi.registers_in_share, hi.form, hi.welt, failIf, orElse]
  cases okS3 d a b <;> rfl

/-- Legal codes: the slot completes. -/
theorem IsScalarSlot.issue_of_legal (hi : IsScalarSlot i d a b) (hl : s.latch.limm = none) (hok : okS3 d a b = true)
    (k : State → State) : issue i s k = .next (k s) := by
  simp [issue, issueWith, hi.slotFault_eq hl, hi.hold, hok, failIf]

/-- Another code: the slot raises ILLEGAL at decode. -/
theorem IsScalarSlot.issue_of_illegal (hi : IsScalarSlot i d a b) (hl : s.latch.limm = none) (hbad : okS3 d a b = false)
    (k : State → State) : issue i s k = .next (trapHere (s.issueTrap .illegal 4) s) := by
  simp [issue, issueWith, hi.slotFault_eq hl, hbad, failIf]

/-! ### The corners of division (R83, R157) -/

theorem quotient_of_zero_divisor (h : scalarOf i = some (d, a, b, f)) (hi : i = .div d a b ∨ i = .divu d a b) (x : DWord) :
    f x 0 = BitVec.allOnes 64 := by
  obtain rfl | rfl := hi
  all_goals cases h; rfl

theorem remainder_of_zero_divisor (h : scalarOf i = some (d, a, b, f)) (hi : i = .rem d a b ∨ i = .remu d a b) (x : DWord) :
    f x 0 = x := by
  obtain rfl | rfl := hi
  all_goals cases h; rfl

theorem quotient_intMin_neg_one (h : scalarOf (.div d a b) = some (d, a, b, f)) :
    f (BitVec.intMin 64) (-1) = BitVec.intMin 64 := by
  cases h; decide

theorem remainder_intMin_neg_one (h : scalarOf (.rem d a b) = some (d, a, b, f)) : f (BitVec.intMin 64) (-1) = 0 := by
  cases h; decide

end Sys2Proof.Proofs

open Sys2Proof Sys2Proof.Machine Sys2Proof.Claims Sys2Proof.Proofs

/-- Settles O2: of a scalar ALU slot's checks only that of its operand codes can fail, and it completes with the table's
operation, whose corners are those of R157. -/
theorem divisionAndOperandCodes : Obligations.DivisionAndOperandCodes := by
  intro i d a b f s h hl
  have hi := isScalarSlot_of_scalarOf h
  refine ⟨fun hd ha hb => ?_, fun hbad => ?_⟩
  · have completes : exec i s = .next (landS d 1 (f (s.src a) (s.src b)) s) := by
      rw [exec_of_scalarOf h, hi.issue_of_legal hl ((okS3_iff d a b).mpr ⟨hd, ha, hb⟩)]
      rfl
    refine ⟨completes, fun h0 hq => ?_, fun h0 hr => ?_, fun hx hy hq => ?_, fun hx hy hr => ?_⟩
    · rw [completes, h0, quotient_of_zero_divisor h hq]
    · rw [completes, h0, remainder_of_zero_divisor h hr]
    · subst hq
      rw [completes, hx, hy, quotient_intMin_neg_one h]
    · subst hr
      rw [completes, hx, hy, remainder_intMin_neg_one h]
  · rw [exec_of_scalarOf h, hi.issue_of_illegal hl ((okS3_eq_false_iff d a b).mpr hbad)]

end

section
/-!
PROOF. Forms that need a sealing bundle (R209): what a slot answers where the bundle or context in hand rules it out.
-/

namespace Sys2Proof.Proofs

open Sys2Proof.Machine

variable {i : Instr} {s : State} {t : TrapInfo}

/-- A failing check comes before every hold, and none of the slot's own effect happens (R138, R358). -/
theorem issue_of_slotFault_eq_some (h : slotFault i s = some t) (k : State → State) : issue i s k = .next (trapHere t s) := by
  simp only [issue, issueWith, h]

/-- Of a form's checks only that of its subfields comes before placement (R138). -/
theorem slotFault_of_placementFault_eq_some (hsub : i.subfieldsOk = true) (h : placementFault i s = some t) :
    slotFault i s = some t := by
  simp [slotFault, hsub, h, orElse, failIf]

theorem placementFault_of_unsealed (hneed : needsSeal i = true) (hseal : s.latch.bctl.sealed = false) :
    placementFault i s = some (s.issueTrap .illegal 3) := by
  simp [placementFault, hneed, hseal, failIf]

theorem issue_of_unsealed (hsub : i.subfieldsOk = true) (hneed : needsSeal i = true) (hseal : s.latch.bctl.sealed = false)
    (k : State → State) : issue i s k = .next (trapHere (s.issueTrap .illegal 3) s) :=
  issue_of_slotFault_eq_some (slotFault_of_placementFault_eq_some hsub (placementFault_of_unsealed hneed hseal)) k

end Sys2Proof.Proofs

open Sys2Proof Sys2Proof.Machine Sys2Proof.Claims Sys2Proof.Proofs

/-- Settles O45: each of the three forms needs a seal and has no subfield that could be refused first, so its issue ends at
the check of its placement. -/
theorem formsThatNeedASealingBundle : Obligations.FormsThatNeedASealingBundle := by
  intro s hseal
  have texit (a : BitVec 7) : execTexit a s = .next (trapHere (s.issueTrap .illegal 3) s) :=
    issue_of_unsealed rfl rfl hseal _
  have yield : execYield s = .next (trapHere (s.issueTrap .illegal 3) s) := issue_of_unsealed rfl rfl hseal _
  have trap (c : BitVec 14) : execTrap c s = .next (trapHere (s.issueTrap .illegal 3) s) :=
    issue_of_unsealed rfl rfl hseal _
  exact ⟨texit, yield, trap⟩

end

section
/-!
PROOF. Integer compares (R222): the form of a cell slot's issue, the check of pd's code, and a predicate's landing.
-/

namespace Sys2Proof.Proofs

open Sys2Proof.Machine Sys2Proof.Claims

variable {i : Instr} {d a b : BitVec 7} {h : Bctl → Nat → Nat → Bool} {f : Run → State → State} {s : State}

/-! ### A cell slot's issue -/

/-- Where no check fails and no hold applies, the slot has its effect (R138, R358). -/
theorem issue_of_clear (hc : Clear i s) (k : State → State) : issue i s k = .next (k s) := by
  obtain ⟨hfault, hhold⟩ := hc
  simp [issue, issueWith, hfault, hhold]

/-- A form issued with the effect that the other cells execute does the same in cell (0,0) (R29). -/
theorem cellIssues_of_issueCell (hcell : ∀ r t, cellExec i r t = f r t) (hexec : ∀ s, exec i s = issueCell i f s) :
    CellIssues i f := by
  refine ⟨fun r t _ => hcell r t, fun s hc _ => ?_⟩
  rw [hexec, issueCell, issueBoth, issue_of_clear hc]
  rfl

/-! ### Operand codes (R144) -/

theorem isP_iff (c : BitVec 7) : isP c = true ↔ 96 ≤ c.toNat ∧ c.toNat ≤ 111 := by simp [isP]

theorem okC3_of_not_predicate (hd : ¬ (96 ≤ d.toNat ∧ d.toNat ≤ 111)) : okC3 d a b = false := by
  have hp : isP d = false := Bool.eq_false_iff.mpr (mt (isP_iff d).mp hd)
  simp [okC3, hp]

/-- A code that the form does not allow raises ILLEGAL where the subfields and the placement pass (R138). -/
theorem slotFault_of_operandsOk_eq_false (hsub : i.subfieldsOk = true) (hplace : placementFault i s = none)
    (hbad : i.operandsOk = false) : slotFault i s = some (s.issueTrap .illegal 4) := by
  simp [slotFault, hsub, hplace, hbad, orElse, failIf]

/-! ### The two forms -/

/-- What VCMPEQ and VCMPLT are to the sequencer and to the cells: one compare with the relation `h`, whose operand codes are
a predicate register and two vector registers. -/
structure IsCompareSlot (i : Instr) (d a b : BitVec 7) (h : Bctl → Nat → Nat → Bool) : Prop where
  issues : ∀ s, exec i s = issueCell i (cellVcmp h d a b) s
  cells : ∀ r t, cellExec i r t = cellVcmp h d a b r t
  subfields : i.subfieldsOk = true
  operands : i.operandsOk = okC3 d a b

theorem isCompareSlot_of_vcmpOf (hi : vcmpOf i = some (d, a, b, h)) : IsCompareSlot i d a b h := by
  unfold vcmpOf at hi
  split at hi
  case h_3 => cases hi
  all_goals
    cases hi
    exact ⟨fun _ => rfl, fun _ _ => rfl, rfl, rfl⟩

theorem IsCompareSlot.cellIssues (hi : IsCompareSlot i d a b h) : CellIssues i (cellVcmp h d a b) :=
  cellIssues_of_issueCell hi.cells hi.issues

/-- Where pd's code names no predicate register the slot raises ILLEGAL at decode (R144). -/
theorem IsCompareSlot.exec_of_not_predicate (hi : IsCompareSlot i d a b h) (hplace : placementFault i s = none)
    (hd : ¬ (96 ≤ d.toNat ∧ d.toNat ≤ 111)) : exec i s = .next (trapHere (s.issueTrap .illegal 4) s) := by
  have hbad : i.operandsOk = false := hi.operands.trans (okC3_of_not_predicate hd)
  rw [hi.issues, issueCell, issueBoth]
  exact issue_of_slotFault_eq_some (slotFault_of_operandsOk_eq_false hi.subfields hplace hbad) _

/-! ### A predicate's landing (R114) -/

theorem getLsbD_merge (old mask val : Lanes) {l : Nat} (hl : l < 32768) :
    (merge old mask val).getLsbD l = if mask.getLsbD l = true then val.getLsbD l else old.getLsbD l := by
  simp only [merge, BitVec.getLsbD_or, BitVec.getLsbD_and, BitVec.getLsbD_not, hl, decide_true, Bool.true_and]
  cases mask.getLsbD l <;> simp

theorem landReg_predicate (lay : Nat) {p : Pend} {k n : Nat} (hp : p.loc = .p k n) (s : State) :
    mapGet (0 : Row) ((landReg lay p s).cellAt (cellKey lay k)).p n =
      (merge ((mapGet (0 : Row) (s.cellAt (cellKey lay k)).p n).setWidth 32768) p.mask p.val).setWidth 1024 := by
  simp [landReg, hp]

/-- In its register a result takes the lanes of its mask; the others keep their bits. -/
theorem getLsbD_landReg_predicate (lay : Nat) {p : Pend} {k n l : Nat} (hp : p.loc = .p k n) (hl : l < 1024) (s : State) :
    (mapGet (0 : Row) ((landReg lay p s).cellAt (cellKey lay k)).p n).getLsbD l =
      if p.mask.getLsbD l = true then p.val.getLsbD l else (mapGet (0 : Row) (s.cellAt (cellKey lay k)).p n).getLsbD l := by
  have hl' : l < 32768 := by omega
  rw [landReg_predicate lay hp]
  simp only [BitVec.getLsbD_setWidth, getLsbD_merge _ _ _ hl', hl, hl', decide_true, Bool.true_and]

end Sys2Proof.Proofs

open Sys2Proof Sys2Proof.Machine Sys2Proof.Claims Sys2Proof.Proofs

/-- Settles O13: both forms issue with the model's one compare, of a slot's checks that of the operand codes refuses a pd
that is no predicate register, and a result is merged into its register under its mask. -/
theorem integerCompares : Obligations.IntegerCompares :=
  ⟨fun _ _ _ _ _ hi => (isCompareSlot_of_vcmpOf hi).cellIssues,
    fun _ _ _ _ _ _ hi hplace hd => (isCompareSlot_of_vcmpOf hi).exec_of_not_predicate hplace hd,
    fun lay _ s _ _ _ hp hl => getLsbD_landReg_predicate lay hp hl s⟩

end

section
/-!
PROOF. The accumulator clear (R278): the check of a name outside the share that is no register, and a tile's landing.
-/

namespace Sys2Proof.Proofs

open Sys2Proof.Machine Sys2Proof.Claims

variable {i : Instr} {s : State} {p : Pend} {tr : TrapInfo}

/-! ### Names outside the share (R41, R138) -/

/-- A form without register operands reaches the checks of its own chapter where its codes and its placement pass. -/
theorem slotFault_of_formFault_eq_some (hsub : i.subfieldsOk = true) (hplace : placementFault i s = none)
    (hcodes : i.operandsOk = true) (hregs : dests i ++ srcs i = []) (hform : formFault i s = some tr) :
    slotFault i s = some tr := by
  simp [slotFault, hsub, hplace, hcodes, hregs, hform, orElse, failIf]

theorem formFault_of_shareFault_eq_some (hop : operandFault i s = none) (hshare : shareFault i s = some tr) :
    formFault i s = some tr := by
  simp [formFault, hop, hshare, orElse]

/-- Of its range ACLR checks the last tile, since a share holds the tiles from 0 up to its count. -/
theorem shareFault_aclr_of_outside {t cnt : BitVec 6} (hout : s.me.share.physTile (t.toNat + cnt.toNat) = none) :
    shareFault (.aclr t cnt) s = some (s.issueTrap .bounds 1) := by
  simp [shareFault, hout, failIf]

theorem slotFault_aclr_of_outside {t cnt : BitVec 6} (hplace : placementFault (.aclr t cnt) s = none)
    (hout : s.me.share.physTile (t.toNat + cnt.toNat) = none) :
    slotFault (.aclr t cnt) s = some (s.issueTrap .bounds 1) :=
  slotFault_of_formFault_eq_some rfl hplace rfl rfl
    (formFault_of_shareFault_eq_some rfl (shareFault_aclr_of_outside hout))

/-! ### ACLR's issue (R29, R278) -/

theorem exec_aclr (t cnt : BitVec 6) (s : State) : exec (.aclr t cnt) s = issueCell (.aclr t cnt) (cellAclr t cnt) s := rfl

theorem cellIssues_aclr (t cnt : BitVec 6) : CellIssues (.aclr t cnt) (cellAclr t cnt) :=
  cellIssues_of_issueCell (fun _ _ => rfl) (exec_aclr t cnt)

theorem exec_aclr_of_outside {t cnt : BitVec 6} (hplace : placementFault (.aclr t cnt) s = none)
    (hout : s.me.share.physTile (t.toNat + cnt.toNat) = none) :
    exec (.aclr t cnt) s = .next (trapHere (s.issueTrap .bounds 1) s) := by
  rw [exec_aclr, issueCell, issueBoth]
  exact issue_of_slotFault_eq_some (slotFault_aclr_of_outside hplace hout) _

/-! ### A tile's landing (R105) -/

/-- Under a mask of all lanes nothing of the old value stays. -/
theorem merge_allOnes (old val : Lanes) : merge old (BitVec.allOnes 32768) val = val := by
  refine BitVec.eq_of_getLsbD_eq fun l hl => ?_
  have hmask : (BitVec.allOnes 32768).getLsbD l = true := by rw [BitVec.getLsbD_allOnes]; exact decide_eq_true hl
  rw [getLsbD_merge _ _ _ hl, if_pos hmask]

/-- Only a plane can be in use by a routine when a result lands (R265): a tile's result always lands. -/
theorem planeClash_accumulator (lay : Nat) {k n : Nat} (hp : p.loc = .acc k n) (s : State) : planeClash lay p s = false := by
  simp only [planeClash, hp]

theorem landThree_accumulator (lay : Nat) {k n : Nat} (hp : p.loc = .acc k n) (s : State) :
    mapGet (0 : Lanes) ((landThree lay p s).cellAt (cellKey lay k)).acc n =
      merge (mapGet (0 : Lanes) (s.cellAt (cellKey lay k)).acc n) p.mask p.val := by
  simp [landThree, planeClash_accumulator lay hp, hp]

/-- A result for the whole tile replaces it. -/
theorem landThree_accumulator_of_allOnes (lay : Nat) {k n : Nat} (hp : p.loc = .acc k n)
    (hmask : p.mask = BitVec.allOnes 32768) (s : State) :
    mapGet (0 : Lanes) ((landThree lay p s).cellAt (cellKey lay k)).acc n = p.val := by
  rw [landThree_accumulator lay hp, hmask, merge_allOnes]

end Sys2Proof.Proofs

open Sys2Proof Sys2Proof.Machine Sys2Proof.Claims Sys2Proof.Proofs

/-- Settles O21: ACLR issues with the model's one sweep over its tiles, a result under a full mask replaces its tile, and of
the slot's checks that of the share refuses a range whose last tile lies outside. -/
theorem accumulatorClear : Obligations.AccumulatorClear :=
  ⟨fun t0 cnt => cellIssues_aclr t0 cnt,
    fun lay _ s _ _ hp hmask hval => (landThree_accumulator_of_allOnes lay hp hmask s).trans hval,
    fun _ _ _ hplace hout => exec_aclr_of_outside hplace hout⟩

end

section
/-!
PROOF. Memory (R46, R125): which instructions leave it alone, and that every step keeps it canonical.
-/

namespace Sys2Proof.Proofs

open Sys2Proof.Machine Sys2Proof.Claims

variable {i : Instr} {s t : State}

/-- The frames of Laws/Mem, one for each meaning. -/
theorem exec_memIs (hi : mayWriteMemory i = false) (s : State) : MemIs s.mem (exec i s) := by
  cases i
  case storePerform | atomicPerform | flitArrival | saveRecordWrite | taggedItemComplete | releaseWaitEnd | epushDeferred
      | tlaunchDeferredAppend | regionCommit | stepAdvance | stackBeatApply | timestampExchangeDone | lastStoreLoadComplete
      | layerTransitionStart | layerTransitionDone | keeperCopyDone | layerFailure | softError | networkRetry
      | powerOnReset => exact Bool.noConfusion hi
  all_goals
    simp only [exec]
    simp

/-- The laws of Laws/MemWf, one for each meaning that may write. -/
theorem exec_wfIs_of_mayWriteMemory (hi : mayWriteMemory i = true) (hs : Memory.wf s.mem = true) : WfIs (exec i s) := by
  cases i
  case storePerform | atomicPerform | flitArrival | saveRecordWrite | taggedItemComplete | releaseWaitEnd | epushDeferred
      | tlaunchDeferredAppend | regionCommit | stepAdvance | stackBeatApply | timestampExchangeDone | lastStoreLoadComplete
      | layerTransitionStart | layerTransitionDone | keeperCopyDone | layerFailure | softError | networkRetry
      | powerOnReset =>
    simp only [exec]
    simp [hs]
  all_goals exact Bool.noConfusion hi

theorem exec_wfIs (i : Instr) (hs : Memory.wf s.mem = true) : WfIs (exec i s) := by
  cases hi : mayWriteMemory i with
  | true => exact exec_wfIs_of_mayWriteMemory hi hs
  | false => exact WfIs_of_MemIs hs (exec_memIs hi s)

theorem slotStep_wfIs (hs : Memory.wf s.mem = true) : WfIs (slotStep exec s) := by
  unfold slotStep
  split
  next w _ =>
    split
    next i _ => exact andThen_wf (exec_wfIs i hs) fun t ht => by simpa using ht
    next e _ => simpa using hs
  next => simpa using hs

/-- Each phase of a cycle in which no event waits. -/
theorem phaseStep_wfIs (hs : Memory.wf s.mem = true) : WfIs (phaseStep exec s) := by
  unfold phaseStep
  split
  next => exact startCycle_wf s hs
  next => exact WfIs_of_MemIs hs (evalWaits_mem s rfl)
  next lay _ => exact beginIssue_wf lay s hs
  next => exact slotStep_wfIs hs
  next lay _ => exact andThen_wf (execStepAdvance_wf lay s hs) fun t ht => ht
  next => exact closeCycle_wf s hs
  next => simpa using hs

theorem step_wfIs (hs : Memory.wf s.mem = true) : WfIs (step s) := by
  unfold step nextStep
  split
  next => exact slotStep_wfIs hs
  next i rest _ _ => exact exec_wfIs i hs
  next => exact phaseStep_wfIs hs

end Sys2Proof.Proofs

open Sys2Proof Sys2Proof.Machine Sys2Proof.Claims Sys2Proof.Proofs

/-- Settles O50: every slot step, event and phase keeps memory canonical, since each meaning does. -/
theorem stepKeepsMemoryCanonical : Obligations.StepKeepsMemoryCanonical := by
  intro s t hs h
  have hstep := step_wfIs hs
  rwa [h] at hstep

/-- Settles O49: a meaning that leaves memory alone leaves each byte of it. -/
theorem memoryFrame : Obligations.MemoryFrame := by
  intro i hi s t h a
  have hmem := exec_memIs hi s
  rw [h, MemIs_next] at hmem
  simp only [State.memByte, hmem]

end

section
/-!
PROOF. The encoder and the decoder are inverses (R133, R135, R269). Fields are compared as numbers: an assembled word is a
sum of its fields, and a field is a quotient and a remainder of its word.
-/

namespace Sys2Proof.Proofs

open Sys2Proof.Machine Sys2Proof.Claims

variable {i : Instr} {s b : Bool} {w : Word} {m : DWord} {cl fn : Nat} {x y z X Y Z : BitVec 7}

/-! ### Bits and fields as numbers -/

theorem toNat_ofBool_getLsbD {n : Nat} (v : BitVec n) (k : Nat) : (BitVec.ofBool (v.getLsbD k)).toNat = v.toNat / 2 ^ k % 2 := by
  rw [BitVec.toNat_ofBool, ← BitVec.testBit_toNat, Nat.toNat_testBit]

theorem getLsbD_eq_true_iff {n : Nat} (v : BitVec n) (k : Nat) : v.getLsbD k = true ↔ v.toNat / 2 ^ k % 2 = 1 := by
  rw [← BitVec.testBit_toNat, Nat.testBit_eq_decide_div_mod_eq, decide_eq_true_iff]

/-- A word is assembled from its own fields. -/
theorem asm_fields (w : Word) :
    asm (stopBit w) (slotClass w).toNat (slotFn w).toNat (slotX w) (slotY w) (slotZ w) = w := by
  have hw := w.isLt
  have hs : (stopBit w).toNat = w.toNat / 2 ^ 31 % 2 := by
    rw [stopBit, ← BitVec.toNat_ofBool, toNat_ofBool_getLsbD]
  apply BitVec.eq_of_toNat_eq
  simp only [toNat_asm, hs, slotClass, slotFn, slotX, slotY, slotZ, BitVec.extractLsb'_toNat, Nat.shiftRight_eq_div_pow]
  omega

theorem some_asm_congr (hx : X.toNat = x.toNat) (hy : Y.toNat = y.toNat) (hz : Z.toNat = z.toNat) :
    some (asm s cl fn X Y Z) = some (asm s cl fn x y z) := by
  rw [BitVec.eq_of_toNat_eq hx, BitVec.eq_of_toNat_eq hy, BitVec.eq_of_toNat_eq hz]

/-! ### From a word to its form and back -/

/-- A conversion's function code is its format, so every code is a case of its own (R135, R231). -/
theorem encode_of_decodeVcvt (hfn : fn < 32) (h : decodeVcvt fn x y z = .ok i) : encode s i = some (asm s 15 fn x y z) := by
  have hz : (z.extractLsb' 4 3 ++ z.extractLsb' 0 4).toNat = z.toNat := by
    simp only [toNat_append_add, BitVec.extractLsb'_toNat, Nat.shiftRight_eq_div_pow]
    omega
  interval_cases fn
  all_goals cases h
  all_goals exact some_asm_congr rfl rfl hz

/-- In every form the operands and the zero fields make up the three operand fields whole. -/
theorem encode_of_decodeClass (hfn : fn < 32) (h : decodeClass cl fn x y z = .ok i) :
    encode s i = some (asm s cl fn x y z) := by
  have hx := x.isLt
  have hy := y.isLt
  have hz := z.isLt
  simp only [decodeClass] at h
  split at h
  case h_16 => exact encode_of_decodeVcvt hfn h
  case h_25 =>
    split at h
    next hfn0 =>
      cases h
      subst hfn0
      refine some_asm_congr ?_ ?_ ?_
      all_goals
        simp only [toNat_append_add, BitVec.extractLsb'_toNat, Nat.shiftRight_eq_div_pow]
        omega
    next => cases h
  case h_26 => cases h
  all_goals
    simp only [decodeSys, decodeBctl, decodeSalu, decodeSimm, decodeSmem, decodeFlow, decodeVote, decodeSync, decodeLink,
      decodeCap, decodeXalu, decodeNet, decodeEdge, decodeVint, decodeVflt, decodeVpred, decodeScan, decodeAwl, decodeMtx,
      decodeAcc, decodeCopy, decodeAtom, decodeStack, need] at h
    repeat' split at h
  all_goals cases h
  all_goals refine some_asm_congr ?_ ?_ ?_
  all_goals
    simp only [copyG, copyXa, copyXm, copyLn, hi7, lo7, pad5, Bool.and_eq_true, Bool.not_eq_true', beq_iff_eq,
      ← BitVec.toNat_inj, toNat_append_add, BitVec.extractLsb'_toNat, toNat_ofBool_getLsbD, getLsbD_eq_true_iff,
      ← Bool.not_eq_true, Nat.shiftRight_eq_div_pow, BitVec.ofNat_eq_ofNat, BitVec.toNat_ofNat, Nat.div_one, Nat.zero_mod,
      Nat.reducePow, Nat.reduceMod] at *
  all_goals omega

theorem encode_of_decodeSlot (h : decodeSlot w = .ok i) : encode (stopBit w) i = some w := by
  rw [encode_of_decodeClass (slotFn w).isLt h, asm_fields]

theorem encodeMicro_of_decodeMicro (h : decodeMicro m = some i) : encodeMicro i = some m := by
  have hm := m.isLt
  simp only [decodeMicro, Nat.reduceAdd, Nat.reduceSub] at h
  split at h
  case h_11 => cases h
  all_goals split at h
  all_goals cases h
  all_goals refine congrArg some (BitVec.eq_of_toNat_eq ?_)
  all_goals
    simp only [Bool.and_eq_true, beq_iff_eq, toNat_append_add, BitVec.extractLsb'_toNat, toNat_ofBool_getLsbD,
      Nat.shiftRight_eq_div_pow, BitVec.ofNat_eq_ofNat, BitVec.toNat_ofNat, Nat.div_one, Nat.zero_mod, Nat.reducePow] at *
    omega

/-! ### From a form to its word and back -/

/-- The slot forms are those with a word. -/
theorem encode_isSome (b : Bool) (i : Instr) : (encode b i).isSome = isSlot i := by
  cases i
  all_goals rfl

theorem stopBit_of_encode (h : encode b i = some w) : stopBit w = b := by
  cases i
  all_goals cases h
  all_goals exact stopBit_asm ..

/-- Of the forms' subfields only a conversion's format has codes that the decoder refuses (R135). -/
theorem decodeSlot_of_encode (hok : i.subfieldsOk = true) (h : encode b i = some w) : decodeSlot w = .ok i := by
  cases i
  all_goals cases h
  all_goals rw [decodeSlot_asm]
  case vcvt f d a rm c =>
    simp only [Instr.subfieldsOk, Bool.and_eq_true] at hok
    obtain ⟨⟨hf, -⟩, -⟩ := hok
    simpa [decodeClass] using decodeVcvt_plain f d a (rm ++ c) hf
  case vcvts f d a rm c =>
    simp only [Instr.subfieldsOk, Bool.and_eq_true] at hok
    obtain ⟨⟨hf, -⟩, -⟩ := hok
    simpa [decodeClass] using decodeVcvt_sat f d a (rm ++ c) hf
  all_goals
    simp [decodeClass, decodeSys, decodeBctl, decodeSalu, decodeSimm, decodeSmem, decodeFlow, decodeVote, decodeSync,
      decodeLink, decodeCap, decodeXalu, decodeNet, decodeEdge, decodeVint, decodeVflt, decodeVpred, decodeScan, decodeAwl,
      decodeMtx, decodeAcc, decodeCopy, decodeAtom, decodeStack, need, copyG, copyXa, copyXm, copyLn]

theorem decodeMicro_of_encodeMicro (hok : i.operandsOk = true) (h : encodeMicro i = some m) : decodeMicro m = some i := by
  simp only [decodeMicro, Nat.reduceAdd, Nat.reduceSub]
  cases i
  all_goals cases h
  case endm | rowin | step | rstc => decide
  case accum lag =>
    revert lag
    decide
  all_goals
    simp only [BitVec.extractLsb'_append_eq_of_le, BitVec.extractLsb'_append_eq_of_add_le, Nat.reduceLeDiff, Nat.reduceSub,
      BitVec.extractLsb'_eq_self]
  case plane | abas | tadd => rfl
  case loopm len csrc n | waitin n => exact if_pos hok

end Sys2Proof.Proofs

open Sys2Proof Sys2Proof.Machine Sys2Proof.Claims Sys2Proof.Proofs

/-- Settles O57: the decoder reads each field of an assembled word back. -/
theorem decodeOfEncode : Obligations.DecodeOfEncode := by
  refine ⟨fun i b w hwf h => ?_, fun i hi b => (encode_isSome b i).trans hi, fun i w hwf h => ?_⟩
  · obtain ⟨hsub, -⟩ := (Bool.and_eq_true _ _).mp hwf
    exact ⟨decodeSlot_of_encode hsub h, stopBit_of_encode h⟩
  · obtain ⟨-, hops⟩ := (Bool.and_eq_true _ _).mp hwf
    exact decodeMicro_of_encodeMicro hops h

/-- Settles O58: what the decoder reads names every bit of the word. -/
theorem encodeOfDecode : Obligations.EncodeOfDecode :=
  ⟨fun _ _ h => encode_of_decodeSlot h, fun _ _ h => encodeMicro_of_decodeMicro h⟩

end


section
/-!
PROOF. The sequencer's slots that land a result or leave the bundle in order (R147, R156 to R173): a slot that is clear
completes with the effect it issues with; immediates as words; scalar, data-memory and flow slots.
-/

namespace Sys2Proof.Proofs

open Sys2Proof.Machine Sys2Proof.Claims

variable {i : Instr} {f g : State → State}

/-! ### Completion (R138, R358) -/

/-- A form that issues with one effect completes with it wherever it is clear. -/
theorem issues_of_exec (hexec : ∀ s, exec i s = issue i s f) : Issues i f := by
  intro s hc
  rw [hexec, issue_of_clear hc]

/-- The same, for a form whose effect the model writes another way. -/
theorem issues_of_exec_of_eq (hexec : ∀ s, exec i s = issue i s g) (hgf : ∀ s, g s = f s) : Issues i f := by
  intro s hc
  rw [hexec, issue_of_clear hc, hgf]

/-! ### Immediates (R147, R148) -/

theorem toNat_append_eq {m n : Nat} (h : BitVec m) (i : BitVec n) : (h ++ i).toNat = h.toNat * 2 ^ n + i.toNat := by
  rw [BitVec.toNat_append, Nat.shiftLeft_eq, Nat.mul_comm, Nat.two_pow_add_eq_or_of_lt i.isLt, Nat.mul_comm]

theorem signed_toNat {n : Nat} (hn : 0 < n) (x : BitVec n) : signed n x.toNat = x.toInt := by
  have half : 2 ^ (n - 1) * 2 = 2 ^ n := Nat.two_pow_pred_mul_two hn
  have negative : x.toNat < 2 ^ (n - 1) ↔ 2 * x.toNat < 2 ^ n := by omega
  rw [BitVec.toInt_eq_toNat_cond, signed, Nat.mod_eq_of_lt x.isLt, Int.emod_eq_of_lt (by omega) (by exact_mod_cast x.isLt)]
  simp [negative]

theorem sextNat_toNat {n : Nat} (hn : 0 < n) (x : BitVec n) : sextNat n x.toNat = x.signExtend 64 := by
  rw [sextNat, signed_toNat hn]
  rfl

theorem immNat_some {w : Nat} (h : BitVec 21) (i : BitVec w) : immNat (some h) w i.toNat = (h ++ i).toNat :=
  (toNat_append_eq h i).symm

theorem immS_none {w : Nat} (hw : 0 < w) (i : BitVec w) : immS none w i.toNat = i.signExtend 64 := sextNat_toNat hw i

theorem immS_some {w : Nat} (h : BitVec 21) (i : BitVec w) : immS (some h) w i.toNat = (h ++ i).signExtend 64 := by
  rw [immS, immNat_some]
  simpa [immWidth, Nat.add_comm] using sextNat_toNat (by omega) (h ++ i)

theorem immS_eq_imm14 (limm : Option (BitVec 21)) (i : BitVec 14) : immS limm 14 i.toNat = imm14 true limm i := by
  cases limm with
  | none => exact immS_none (by omega) i
  | some h => exact immS_some h i

theorem immS_eq_imm7 (limm : Option (BitVec 21)) (i : BitVec 7) : immS limm 7 i.toNat = imm7 limm i := by
  cases limm with
  | none => exact immS_none (by omega) i
  | some h => exact immS_some h i

theorem toNat_imm14_false (limm : Option (BitVec 21)) (i : BitVec 14) :
    (imm14 false limm i).toNat = immNat limm 14 i.toNat := by
  cases limm with
  | none => exact BitVec.toNat_setWidth_of_le (by omega)
  | some h => rw [immNat_some]; exact BitVec.toNat_setWidth_of_le (by omega)

theorem immU_eq_imm14 (limm : Option (BitVec 21)) (i : BitVec 14) : immU limm 14 i.toNat = imm14 false limm i := by
  rw [immU, ← toNat_imm14_false, BitVec.ofNat_toNat, BitVec.setWidth_eq]

/-! ### Scalar slots (R156, R158) -/

theorem scalarImm_eq (sgn : Bool) (d : BitVec 7) (n : BitVec 14) (h : DWord → DWord → DWord) (s : State) :
    scalarImm sgn d n h s = landS d 1 (h (s.me.sReg d.toNat) (imm14 sgn s.latch.limm n)) s := by
  cases sgn
  · simp [scalarImm, immU_eq_imm14]
  · simp [scalarImm, immS_eq_imm14]

/-- Every form of the table issues with the operation that the table names. -/
theorem exec_of_immediateOf {sgn : Bool} {d : BitVec 7} {n : BitVec 14} {h : DWord → DWord → DWord}
    (hi : immediateOf i = some (sgn, d, n, h)) (s : State) : exec i s = issue i s (scalarImm sgn d n h) := by
  unfold immediateOf at hi
  split at hi
  case h_14 => cases hi
  all_goals cases hi
  -- MINI, MAXI, SLTI and SEQI are written with Boolean comparisons; the others stand as in the table.
  case h_9 => rw [← minS_eq]; rfl
  case h_10 => rw [← maxS_eq]; rfl
  case h_11 => rw [← oneIf_slt_eq]; rfl
  case h_12 => rw [← oneIf_beq_eq]; rfl
  all_goals rfl

/-! ### Data memory (R117, R159, R160) -/

theorem sextNat_eq_signExtend {n : Nat} (hn : 0 < n) (v : Nat) : sextNat n v = (BitVec.ofNat n v).signExtend 64 := by
  rw [← sextNat_toNat hn, sextNat, sextNat, signed, signed, BitVec.toNat_ofNat, Int.natCast_mod]
  simp

@[simp] theorem length_leBytes (n : Nat) : ∀ v, (leBytes n v).length = n := by
  induction n with
  | zero => intro v; rfl
  | succ n ih => intro v; simp [leBytes, ih]

theorem getD_leBytes {n : Nat} : ∀ {j v : Nat}, j < n → (leBytes n v).getD j 0 = BitVec.ofNat 8 (v / 2 ^ (8 * j)) := by
  induction n with
  | zero => intro j v h; omega
  | succ n ih =>
    intro j v h
    cases j with
    | zero => simp [leBytes]
    | succ j =>
      rw [leBytes, List.getD_cons_succ, ih (by omega), Nat.div_div_eq_div_mul, Nat.mul_succ, Nat.pow_add, Nat.mul_comm]

/-- Byte j of a value's low n bytes. -/
theorem ofNat_byte_eq_extractLsb' {w n j : Nat} (x : BitVec w) (hj : j < n) :
    BitVec.ofNat 8 (x.toNat % 2 ^ (8 * n) / 2 ^ (8 * j)) = x.extractLsb' (8 * j) 8 := by
  refine BitVec.eq_of_getLsbD_eq fun l hl => ?_
  have hin : l + 8 * j < 8 * n := by omega
  simp only [BitVec.getLsbD_ofNat, BitVec.getLsbD_extractLsb', Nat.testBit_div_two_pow, Nat.testBit_mod_two_pow, hl, hin,
    decide_true, Bool.true_and, Nat.add_comm (8 * j), BitVec.testBit_toNat]

/-- What data memory reads as after a write: byte i of the data at a + i, every other byte as before. -/
theorem mapGet_writeDmem (bs : List Byte) : ∀ (a k : Nat) (l : Layer),
    mapGet (0 : Byte) (writeDmem a bs l).dmem k =
      if a ≤ k ∧ k < a + bs.length then bs.getD (k - a) 0 else mapGet 0 l.dmem k := by
  induction bs with
  | nil => intro a k l; simp [writeDmem]
  | cons b r ih =>
    intro a k l
    rw [writeDmem, ih, List.length_cons]
    obtain hk | rfl | hk := Nat.lt_trichotomy k a
    · rw [if_neg (by omega), if_neg (by omega)]
      exact mapGet_mapSet_ne _ _ _ (by omega)
    · rw [if_neg (by omega), if_pos (by omega), mapGet_mapSet_same]
      simp
    · obtain ⟨j, rfl⟩ := Nat.exists_eq_add_of_lt hk
      by_cases hin : j < r.length
      · rw [if_pos (by omega), if_pos (by omega), show a + j + 1 - a = (a + j + 1 - (a + 1)) + 1 by omega,
          List.getD_cons_succ]
      · rw [if_neg (by omega), if_neg (by omega)]
        exact mapGet_mapSet_ne _ _ _ (by omega)

theorem landThree_dmem (lay : Nat) {p : Pend} {a n : Nat} (hp : p.loc = .dmem a n) (s : State) :
    landThree lay p s = s.updLayer lay (writeDmem a (leBytes n (p.val.toNat % 2 ^ (8 * n)))) := by
  have hclash : planeClash lay p s = false := by simp only [planeClash, hp]
  simp [landThree, hclash, hp]

/-- A landing store leaves every byte but its own, in every layer. -/
theorem dmem_landThree_of_not_mem (lay : Nat) {p : Pend} {a n l k : Nat} (hp : p.loc = .dmem a n)
    (hk : ¬ (l = lay ∧ a ≤ k ∧ k < a + n)) (s : State) :
    mapGet (0 : Byte) ((landThree lay p s).layerAt l).dmem k = mapGet 0 (s.layerAt l).dmem k := by
  rw [landThree_dmem lay hp]
  by_cases hl : l = lay
  · subst hl
    rw [State.updLayer_layerAt_same, mapGet_writeDmem, length_leBytes, if_neg (fun h => hk ⟨rfl, h⟩)]
  · rw [State.updLayer_layerAt_ne _ _ (Ne.symm hl)]

theorem dmem_landThree_own (lay : Nat) {p : Pend} {a n j : Nat} (hp : p.loc = .dmem a n) (hj : j < n) (s : State) :
    mapGet (0 : Byte) ((landThree lay p s).layerAt lay).dmem (a + j) = p.val.extractLsb' (8 * j) 8 := by
  rw [landThree_dmem lay hp, State.updLayer_layerAt_same, mapGet_writeDmem, length_leBytes, if_pos (by omega),
    Nat.add_sub_cancel_left, getD_leBytes hj, ofNat_byte_eq_extractLsb' _ hj]

/-! ### Compares and transfers (R163, R164) -/

theorem branchCond_eq_compareHolds (c : BitVec 4) (x y : DWord) : branchCond c x y = compareHolds c x y := by
  unfold branchCond compareHolds
  split <;> (rw [Bool.eq_iff_iff]; simp [BitVec.slt, BitVec.ult])

theorem transferIf_eq (cond : Bool) (b : BitVec 2) (s : State) :
    transferIf cond b s = if cond = true then taken (s.me.bReg b.toNat) (s.me.bReadyAt b.toNat) s else s := rfl

/-! ### The welt and the shadow stack (R46, R170) -/

/-- A region is open once one has been asked for: the last, with the number of the region in hand. -/
theorem exists_openRegion_regions (c : Ctx) :
    ∃ rs r, c.openRegion.regions = rs ++ [r] ∧ r.id = c.regionId ∧ r.sealedAt = none := by
  by_cases hnext : c.regionId = c.nextRegion
  · exact ⟨c.regions, Region.fresh c.nextRegion c.pc c.loops c.rngc, by rw [Ctx.openRegion, if_pos hnext], hnext.symm, rfl⟩
  · rw [Ctx.openRegion, if_neg hnext]
    cases hlast : c.regions.getLast? with
    | none => simp [Ctx.regionId, hlast] at hnext
    | some r =>
      cases hsealed : r.sealedAt with
      | some n => simp [Ctx.regionId, hlast, hsealed] at hnext
      | none =>
        obtain ⟨rs, hrs⟩ := List.getLast?_eq_some_iff.mp hlast
        exact ⟨rs, r, hrs, by simp [Ctx.regionId, hlast, hsealed], hsealed⟩

/-- A change of the region in hand changes the last region and leaves the rest of the context as the opening left it. -/
theorem exists_modRegion_eq (c : Ctx) (h : Region → Region) :
    ∃ rs r, c.openRegion.regions = rs ++ [r] ∧ r.id = c.regionId ∧ r.sealedAt = none ∧
      c.modRegion h = { c.openRegion with regions := rs ++ [h r] } := by
  obtain ⟨rs, r, hr, hid, hopen⟩ := exists_openRegion_regions c
  exact ⟨rs, r, hr, hid, hopen, by simp [Ctx.modRegion, hr]⟩

theorem openRegion_shadow (c : Ctx) : c.openRegion.shadow = c.shadow := by
  unfold Ctx.openRegion
  split <;> rfl

theorem openRegion_shadowView (c : Ctx) : c.openRegion.shadowView = c.shadowView := by
  unfold Ctx.openRegion
  split
  · simp [Ctx.shadowView, Region.fresh]
  · rfl

theorem modRegion_shadow (c : Ctx) (h : Region → Region) : (c.modRegion h).shadow = c.shadow := by
  obtain ⟨rs, r, -, -, -, hmod⟩ := exists_modRegion_eq c h
  rw [hmod]
  exact openRegion_shadow c

theorem welt_me (e : Effect) (s : State) : (welt e s).me = s.me.modRegion (fun r => { r with
    effects := r.effects ++ [(s.nextId, e)], forms := r.forms ++ [(s.nextId, s.latch.baddr, s.latch.slot)] }) := by
  simp [welt, weltAt]
  rfl

theorem welt_me_shadow (e : Effect) (s : State) : (welt e s).me.shadow = s.me.shadow := by
  rw [welt_me, modRegion_shadow]

/-- The effect that enters the welt is the last that the shadow stack's view applies. -/
theorem welt_me_shadowView (e : Effect) (s : State) :
    (welt e s).me.shadowView = applyShadow s.me.shadowView (s.nextId, e) := by
  rw [welt_me]
  obtain ⟨rs, r, hopen, -, -, hmod⟩ := exists_modRegion_eq s.me (fun r => { r with
    effects := r.effects ++ [(s.nextId, e)], forms := r.forms ++ [(s.nextId, s.latch.baddr, s.latch.slot)] })
  rw [hmod, ← openRegion_shadowView s.me]
  simp [Ctx.shadowView, hopen]

/-! ### CALL, RET and LOOP (R168 to R173) -/

theorem taken_me_shadow (target : DWord) (ready : Nat) (s : State) : (taken target ready s).me.shadow = s.me.shadow := by
  simp [taken]

theorem taken_me_shadowView (target : DWord) (ready : Nat) (s : State) :
    (taken target ready s).me.shadowView = s.me.shadowView := by
  simp [taken, Ctx.shadowView]

theorem landS_me (d : BitVec 7) (n : Nat) (v : DWord) (s : State) : (landS d n v s).me = s.me := rfl

theorem issues_call (d : BitVec 7) (b : BitVec 2) : Issues (.call d b) (fun s =>
    let u := landS d 1 (returnAddress s) s
    welt (.shadow (.push (returnAddress s))) (taken (u.me.bReg b.toNat) (u.me.bReadyAt b.toNat) u)) :=
  issues_of_exec (fun _ => rfl)

theorem issues_ret (a : BitVec 7) : Issues (.ret a) (fun s => taken (s.src a) (s.now + 4) (welt (.shadow .pop) s)) :=
  issues_of_exec (fun _ => rfl)

/-- LOOP goes on at the end address with no iteration, and else starts its level and leaves the others. -/
theorem startLoop_starts (lv : BitVec 2) (off : BitVec 14) (n : Nat) (s : State) :
    let t := startLoop lv off n s
    let stop := s.latch.baddr + 4 * imm14 false s.latch.limm off
    if n = 0 then t = { s with latch := { s.latch with next := stop } }
    else t.latch = s.latch ∧ t.layers = s.layers ∧
      t.me.loopOf lv.toNat = { active := true, k := 0, n := n, start := s.latch.next, stop := stop,
                               depth := s.me.shadowView.length } ∧
      ∀ j, j < 4 → j ≠ lv.toNat → t.me.loopOf j = s.me.loopOf j := by
  have hlv : lv.toNat < 4 := lv.isLt
  by_cases hn : n = 0
  · simp [startLoop, hn, loopStop, immU_eq_imm14]
  · simp only [startLoop, hn, if_false, loopStop, immU_eq_imm14, State.updMe_me]
    refine ⟨rfl, rfl, ?_, fun j hj hne => ?_⟩
    · simp [Ctx.loopOf, upto, hlv]
    · simp [Ctx.loopOf, upto, hj, hne]

end Sys2Proof.Proofs

open Sys2Proof Sys2Proof.Machine Sys2Proof.Claims Sys2Proof.Proofs

/-- Settles O1: every form of the two tables issues with the table's operation, the immediate being the model's. -/
theorem scalarResults : Obligations.ScalarResults :=
  ⟨fun _ _ _ _ _ hi => issues_of_exec (exec_of_scalarOf hi),
    fun _ _ _ _ _ hi => issues_of_exec_of_eq (exec_of_immediateOf hi) (scalarImm_eq _ _ _ _)⟩

/-- Settles O3: the slots issue with these effects, and a landing store writes its bytes into its layer's data memory. -/
theorem dataMemorySlots : Obligations.DataMemorySlots := by
  refine ⟨⟨fun d a b => issues_of_exec (fun _ => rfl), fun d a b => ?_, fun d a b => issues_of_exec (fun _ => rfl)⟩,
    fun x a b => issues_of_exec (fun _ => rfl), fun x a b => issues_of_exec (fun _ => rfl),
    fun lay p s a n hp _ => ⟨fun l k hk => dmem_landThree_of_not_mem lay hp hk s, fun j hj => dmem_landThree_own lay hp hj s⟩⟩
  refine issues_of_exec_of_eq (fun _ => rfl) fun s => ?_
  rw [sextNat_eq_signExtend (by omega)]
  rfl

/-- Settles O4: each slot issues with the effect stated, a compare's condition and the immediates being the model's. -/
theorem branchSlots : Obligations.BranchSlots := by
  refine ⟨fun b i => issues_of_exec_of_eq (fun _ => rfl) fun s => ?_, fun b a => issues_of_exec (fun _ => rfl),
    fun c k a b => issues_of_exec_of_eq (fun _ => rfl) fun s => ?_,
    fun c k a i => issues_of_exec_of_eq (fun _ => rfl) fun s => ?_,
    fun b alw neg k => issues_of_exec_of_eq (fun _ => rfl) fun s => ?_,
    fun b neg => issues_of_exec_of_eq (fun _ => rfl) fun s => ?_⟩
  · rw [prepare, bprepTarget, immS_eq_imm14]
  · rw [branchCond_eq_compareHolds]
  · rw [branchCond_eq_compareHolds, immS_eq_imm7]
  · simp [transferIf_eq]
  · simp [transferIf_eq]

/-- Settles O5: CALL and RET enter one effect, the last that the view of the shadow stack applies, and change no committed
entry; LOOP starts its level or goes on behind its body. -/
theorem callReturnAndLoopSlots : Obligations.CallReturnAndLoopSlots := by
  refine ⟨⟨issues_call, issues_ret, fun d b s t hc ht => ?_, fun a s t hc ht => ?_⟩,
    fun lv off s => ⟨fun hc => ?_, fun sc hc => ?_⟩⟩
  · rw [issues_call d b s hc] at ht
    cases ht
    simp [welt_me_shadow, welt_me_shadowView, taken_me_shadow, taken_me_shadowView, landS_me, applyShadow]
  · rw [issues_ret a s hc] at ht
    cases ht
    simp [welt_me_shadow, welt_me_shadowView, taken_me_shadow, taken_me_shadowView, applyShadow]
  · exact ⟨_, issue_of_clear hc _, startLoop_starts lv off _ s⟩
  · exact ⟨_, issue_of_clear hc _, startLoop_starts lv off _ s⟩

end


section
/-!
PROOF. Control and special-register slots, capabilities, the slots whose effect waits in the welt, waits and links (R182 to
R215): each issues with the effect that its statement names.
-/

namespace Sys2Proof.Proofs

open Sys2Proof.Machine Sys2Proof.Claims

/-! ### Special registers (R211, R425) -/

theorem toNat_ne_of_ne {w : Nat} {x y : BitVec w} (h : x ≠ y) : x.toNat ≠ y.toNat := fun he => h (BitVec.eq_of_toNat_eq he)

/-- CCHECK's bit (R182). -/
theorem notNull_and_decide (c : Cap) (p : Prop) [Decidable p] : (!capNull c && decide p) = decide (c ≠ 0 ∧ p) := by
  rw [Bool.eq_iff_iff]
  simp [capNull]

/-! ### Waits (R35, R195, R196) -/

theorem flagCond_iff (c : BitVec 2) (v y : BitVec 63) : flagCond c v y = true ↔
    match c with
    | 0 => y.toNat ≤ v.toNat
    | 1 => v = y
    | 2 => v &&& y ≠ 0
    | _ => v &&& y = y := by
  unfold flagCond
  split <;> simp

variable {i : Instr} {s : State} {k : State → State}

theorem waitHere_of_pass (h : slotWait i s = .pass) : waitHere i k s = k s := by simp only [waitHere, h]

theorem waitHere_of_freeze {w : Wait} (h : slotWait i s = .freeze w) : waitHere i k s = freezeHere w s := by
  simp only [waitHere, h]

theorem waitHere_of_trap {tr : TrapInfo} (h : slotWait i s = .trap tr) : waitHere i k s = trapHere tr s := by
  simp only [waitHere, h]

/-- FLWAIT's three outcomes: a poisoned flag, a condition that holds, and one that does not. -/
theorem slotWait_flwait (c : BitVec 2) (g : BitVec 4) (a b : BitVec 7) (s : State) :
    let adr := flagAddrOf (s.me.gReg g.toNat) (s.src a)
    let f := s.layer.flag (flagIdx adr)
    let y := (s.src b).extractLsb' 0 63
    (flagP f = true → slotWait (.flwait c g a b) s = .trap (s.issueTrap .flagPoison 0 adr.toNat)) ∧
    (flagP f = false → flagCond c (flagV f) y = true → slotWait (.flwait c g a b) s = .pass) ∧
    (flagP f = false → flagCond c (flagV f) y = false → slotWait (.flwait c g a b) s = .freeze (.flag (flagIdx adr) c y)) := by
  refine ⟨fun hp => ?_, fun hp hc => ?_, fun hp hc => ?_⟩
  · simp [slotWait, hp]
  · simp [slotWait, hp, hc]
  · simp [slotWait, hp, hc]

theorem slotWait_cwait_of_lt {n : BitVec 5} {thr : BitVec 14} (h : (s.me.nReg n.toNat).toNat < cwaitThr s thr) :
    slotWait (.cwait n thr) s = .pass := by simp [slotWait, h]

theorem slotWait_cwait_of_le {n : BitVec 5} {thr : BitVec 14} (h : cwaitThr s thr ≤ (s.me.nReg n.toNat).toNat) :
    slotWait (.cwait n thr) s = .freeze (.counter n (cwaitThr s thr)) := by simp [slotWait, h]

theorem slotWait_epop_of_some {d : BitVec 7} {e : BitVec 4} {p : Bool × DWord} (h : popSource s e = some p) :
    slotWait (.epop d e) s = .pass := by simp [slotWait, h]

theorem slotWait_epop_of_none {d : BitVec 7} {e : BitVec 4} (h : popSource s e = none) :
    slotWait (.epop d e) s = .freeze (.eyelet e) := by simp [slotWait, h]

theorem exec_flwait_of_clear {c : BitVec 2} {g : BitVec 4} {a b : BitVec 7} (hc : Clear (.flwait c g a b) s) :
    exec (.flwait c g a b) s = .next (waitHere (.flwait c g a b) id s) := issue_of_clear hc _

theorem exec_cwait_of_clear {n : BitVec 5} {thr : BitVec 14} (hc : Clear (.cwait n thr) s) :
    exec (.cwait n thr) s = .next (waitHere (.cwait n thr) id s) := issue_of_clear hc _

theorem exec_epop_of_clear {d : BitVec 7} {e : BitVec 4} (hc : Clear (.epop d e) s) :
    exec (.epop d e) s = .next (waitHere (.epop d e) (fun s =>
      let v := match popSource s e with | some (_, v) => v | none => 0
      takePop e (welt .popRecord (landS d 1 v s))) s) := issue_of_clear hc _

/-! ### Every slot's issue (R138, R155, R358) -/

/-- Every slot form has one effect, with which it issues. -/
theorem exists_exec_eq_issue (hi : isSlot i = true) : ∃ k, ∀ s, exec i s = issue i s k := by
  cases i <;> cases hi <;> exact ⟨_, fun _ => rfl⟩

theorem issue_of_hold (hfault : slotFault i s = none) (hhold : slotHold i s = true) (k : State → State) :
    issue i s k = .next s := by
  simp [issue, issueWith, hfault, hhold]

theorem exec_of_slotFault {tr : TrapInfo} (hi : isSlot i = true) (h : slotFault i s = some tr) :
    exec i s = .next (trapHere tr s) := by
  obtain ⟨k, hk⟩ := exists_exec_eq_issue hi
  rw [hk, issue_of_slotFault_eq_some h]

/-! ### Traps at issue (R135, R168 to R170, R182, R207, R211) -/

theorem isSlot_of_supOnly (h : supOnly i = true) : isSlot i = true := by
  cases i <;> cases h <;> rfl

theorem isSlot_of_needsSeal (h : needsSeal i = true) : isSlot i = true := by
  cases i <;> cases h <;> rfl

theorem sup_eq_false (h : s.ctx ≠ 4) : s.sup = false := by simp [State.sup, h]

theorem placementFault_of_supOnly (hsup : supOnly i = true) (hctx : s.ctx ≠ 4) :
    placementFault i s = some (s.issueTrap .illegal 3) := by
  simp [placementFault, hsup, sup_eq_false hctx, failIf]

/-- A form whose earlier checks pass takes the first trap of its own chapter. -/
theorem exec_of_formFault {tr : TrapInfo} (hi : isSlot i = true) (hr : formReached i s) (hform : formFault i s = some tr) :
    exec i s = .next (trapHere tr s) := by
  obtain ⟨hsub, hplace, hcodes, hregs⟩ := hr
  have hshare : (dests i ++ srcs i).any (fun r => !s.me.share.has r) = false := by
    rw [List.any_eq_false]
    intro r hr
    simp [hregs r hr]
  refine exec_of_slotFault hi ?_
  simp only [slotFault, hsub, hplace, hcodes, hshare, hform, orElse, failIf]
  rfl

theorem formFault_of_operandFault {tr : TrapInfo} (h : operandFault i s = some tr) : formFault i s = some tr := by
  simp [formFault, h, orElse]

theorem formFault_of_issueFault {tr : TrapInfo} (hop : operandFault i s = none) (hshare : shareFault i s = none)
    (h : issueFault i s = some tr) : formFault i s = some tr := by
  simp [formFault, hop, hshare, h, orElse]

/-- A special register that is not assigned, or not a task's. -/
theorem failIf_of_specialForbidden {r : BitVec 12} {tr : TrapInfo}
    (h : specialAssigned r.toNat = false ∨ (s.ctx ≠ 4 ∧ specialUser r.toNat = false)) :
    failIf (!specialAssigned r.toNat || (!s.sup && !specialUser r.toNat)) tr = some tr := by
  obtain h | ⟨hctx, h⟩ := h
  · simp [failIf, h]
  · simp [failIf, h, sup_eq_false hctx]

theorem issueFault_cderive {d g a : BitVec 7}
    (h : s.me.gReg g.toNat = 0 ∨ hasRight (s.me.gReg g.toNat) 6 = false ∨
      capLimit (s.me.gReg g.toNat) - capBase (s.me.gReg g.toNat) <
        (s.me.sReg a.toNat).toNat + (s.me.sReg (a.toNat + 1)).toNat) :
    issueFault (.cderive d g a) s = some (s.issueTrap .bounds 2 0 (capObj (s.me.gReg g.toNat)).toNat) := by
  obtain h | h | h := h
  · simp [issueFault, failIf, capNull, h]
  · simp [issueFault, failIf, h]
  · simp [issueFault, failIf, h]

/-! ### Frames (R46, R114, R146) -/

/-- A form that issues with one result on its way and nothing else. -/
def LandsOnly (i : Instr) (n : Nat) : Prop :=
  ∃ (loc : State → Loc) (mask val : State → Lanes), ∀ s, exec i s = issue i s (fun s => land (loc s) n (mask s) (val s) s)

theorem landsOnly_of_scalarOf {d a b : BitVec 7} {f : DWord → DWord → DWord} (h : scalarOf i = some (d, a, b, f)) :
    LandsOnly i 1 := ⟨_, _, _, exec_of_scalarOf h⟩

theorem landsOnly_of_immediateOf {sgn : Bool} {d : BitVec 7} {n : BitVec 14} {f : DWord → DWord → DWord}
    (h : immediateOf i = some (sgn, d, n, f)) : LandsOnly i 1 := ⟨_, _, _, exec_of_immediateOf h⟩

theorem landsOnly_of_landsIn {n : Nat} (hi : landsIn i = some n) : LandsOnly i n := by
  unfold landsIn at hi
  split at hi
  case h_14 =>
    split at hi
    case isTrue htable =>
      cases hi
      rw [Bool.or_eq_true, Option.isSome_iff_exists, Option.isSome_iff_exists] at htable
      obtain ⟨⟨d, a, b, f⟩, htable⟩ | ⟨⟨sgn, d, n, f⟩, htable⟩ := htable
      · exact landsOnly_of_scalarOf htable
      · exact landsOnly_of_immediateOf htable
    case isFalse => cases hi
  all_goals
    cases hi
    exact ⟨_, _, _, fun _ => rfl⟩

theorem exists_exec_eq_land {n : Nat} (hi : landsIn i = some n) (hc : Clear i s) :
    ∃ loc mask val, exec i s = .next (land loc n mask val s) := by
  obtain ⟨loc, mask, val, hexec⟩ := landsOnly_of_landsIn hi
  exact ⟨loc s, mask s, val s, (hexec s).trans (issue_of_clear hc _)⟩

/-- The state in which an effect enters the welt: the counter that the form names, if any, has risen. -/
def counted (ctr : Option Nat) (s : State) : State :=
  match ctr with
  | none => s
  | some n => ctrAdd n s

/-- A form that issues with one effect for the welt, behind the counter it names. -/
theorem exists_exec_eq_issue_welt {ctr : Option Nat} (hi : waitsInWelt i = some ctr) :
    ∃ e : State → Effect, ∀ s, exec i s = issue i s (fun s => welt (e s) (counted ctr s)) := by
  unfold waitsInWelt at hi
  split at hi
  case h_18 => cases hi
  all_goals
    cases hi
    exact ⟨_, fun _ => rfl⟩

theorem exists_exec_eq_welt {ctr : Option Nat} (hi : waitsInWelt i = some ctr) (hc : Clear i s) :
    ∃ e, exec i s = .next (welt e (counted ctr s)) := by
  obtain ⟨e, hexec⟩ := exists_exec_eq_issue_welt hi
  exact ⟨e s, (hexec s).trans (issue_of_clear hc _)⟩

/-- What a change of the region in hand leaves: everything but the regions and their numbering. -/
theorem modRegion_frame (c : Ctx) (h : Region → Region) :
    c.modRegion h = { c with regions := (c.modRegion h).regions, nextRegion := (c.modRegion h).nextRegion } := by
  obtain ⟨rs, r, -, -, -, hmod⟩ := exists_modRegion_eq c h
  rw [hmod]
  unfold Ctx.openRegion
  split <;> rfl

theorem modRegion_nReg (c : Ctx) (h : Region → Region) (j : Nat) : (c.modRegion h).nReg j = c.nReg j := by
  rw [modRegion_frame]
  rfl

/-- A change that keeps its region's number and leaves it open leaves the region in hand the same. -/
theorem modRegion_regionId (c : Ctx) {h : Region → Region} (hid : ∀ r, (h r).id = r.id)
    (hopen : ∀ r, (h r).sealedAt = r.sealedAt) : (c.modRegion h).regionId = c.regionId := by
  obtain ⟨rs, r, -, hr, hunsealed, hmod⟩ := exists_modRegion_eq c h
  rw [hmod]
  simp [Ctx.regionId, hopen, hunsealed, hid, hr]

theorem ctrAdd_me (n : Nat) (s : State) : (ctrAdd n s).me =
    ({ s.me with n := mapSet 0 s.me.n n (s.me.nReg n + 1) } : Ctx).modRegion (fun r => { r with adds := r.adds ++ [(n, 1)] }) :=
  State.updMe_me s _

theorem ctrAdd_me_regionId (n : Nat) (s : State) : (ctrAdd n s).me.regionId = s.me.regionId := by
  rw [ctrAdd_me, modRegion_regionId (h := fun r => { r with adds := r.adds ++ [(n, 1)] }) _ (fun _ => rfl) (fun _ => rfl)]
  rfl

theorem counted_me_regionId (ctr : Option Nat) (s : State) : (counted ctr s).me.regionId = s.me.regionId := by
  cases ctr with
  | none => rfl
  | some n => exact ctrAdd_me_regionId n s

theorem counted_me_frame (ctr : Option Nat) (s : State) : (counted ctr s).me =
    { s.me with regions := (counted ctr s).me.regions, nextRegion := (counted ctr s).me.nextRegion,
                n := (counted ctr s).me.n } := by
  cases ctr with
  | none => rfl
  | some n =>
    rw [counted, ctrAdd_me, modRegion_frame]

theorem counted_me_nReg_of_ne (ctr : Option Nat) (s : State) {j : Nat} (hj : ∀ m, ctr = some m → j ≠ m) :
    (counted ctr s).me.nReg j = s.me.nReg j := by
  cases ctr with
  | none => rfl
  | some n =>
    rw [counted, ctrAdd_me, modRegion_nReg]
    exact mapGet_mapSet_ne _ _ _ (hj n rfl).symm

theorem counted_me_nReg_self (n : Nat) (s : State) : (counted (some n) s).me.nReg n = s.me.nReg n + 1 := by
  rw [counted, ctrAdd_me, modRegion_nReg]
  exact mapGet_mapSet_same _ _ _ _

theorem counted_ctxAt_of_ne (ctr : Option Nat) (s : State) {key : Nat} (hk : key ≠ ctxKey s.lay s.ctx) :
    (counted ctr s).ctxAt key = s.ctxAt key := by
  cases ctr with
  | none => rfl
  | some n => exact State.updCtx_ctxAt_ne _ _ hk.symm

theorem welt_me_frame (e : Effect) (s : State) : (welt e s).me =
    { s.me with regions := (welt e s).me.regions, nextRegion := (welt e s).me.nextRegion } := by
  rw [welt_me]
  exact modRegion_frame _ _

/-- The two together: regions, their numbering and the counters are all of the context that changes. -/
theorem welt_counted_me_frame (e : Effect) (ctr : Option Nat) (s : State) : (welt e (counted ctr s)).me =
    { s.me with regions := (welt e (counted ctr s)).me.regions, nextRegion := (welt e (counted ctr s)).me.nextRegion,
                n := (welt e (counted ctr s)).me.n } := by
  have hn : (welt e (counted ctr s)).me.n = (counted ctr s).me.n := by
    rw [welt_me_frame]
  rw [hn]
  conv_lhs => rw [welt_me_frame, counted_me_frame]

theorem welt_me_nReg (e : Effect) (s : State) (j : Nat) : (welt e s).me.nReg j = s.me.nReg j := by
  rw [welt_me, modRegion_nReg]

theorem welt_ctxAt_of_ne (e : Effect) (s : State) {key : Nat} (hk : key ≠ ctxKey s.lay s.ctx) :
    (welt e s).ctxAt key = s.ctxAt key := State.updCtx_ctxAt_ne _ _ hk.symm

/-- The effect is the last of the open region. -/
theorem exists_welt_last_effect (e : Effect) (s : State) : ∃ r x, (welt e s).me.regions.getLast? = some r ∧
    r.id = s.me.regionId ∧ r.effects.getLast? = some (s.nextId, x) := by
  rw [welt_me]
  obtain ⟨rs, r, -, hid, -, hmod⟩ := exists_modRegion_eq s.me (fun r => { r with
    effects := r.effects ++ [(s.nextId, e)], forms := r.forms ++ [(s.nextId, s.latch.baddr, s.latch.slot)] })
  rw [hmod]
  exact ⟨_, e, List.getLast?_concat .., hid, List.getLast?_concat ..⟩

end Sys2Proof.Proofs

open Sys2Proof Sys2Proof.Machine Sys2Proof.Claims Sys2Proof.Proofs

/-- Settles O6: each slot issues with the effect stated; RNGC and PREQ are the two registers with a case of their own. -/
theorem controlAndSpecialSlots : Obligations.ControlAndSpecialSlots := by
  refine ⟨⟨issues_of_exec (fun _ => rfl), fun _ _ _ _ _ _ _ _ _ => issues_of_exec (fun _ => rfl),
      fun _ => issues_of_exec (fun _ => rfl), issues_of_exec (fun _ => rfl), fun _ => issues_of_exec (fun _ => rfl)⟩,
    fun d r hr => issues_of_exec_of_eq (fun _ => rfl) fun s => ?_,
    fun d => issues_of_exec_of_eq (fun _ => rfl) fun s => ?_,
    fun a r hr => issues_of_exec_of_eq (fun _ => rfl) fun s => ?_,
    fun a => issues_of_exec (fun _ => rfl)⟩
  · exact congrArg (fun v => landS d 1 v s) (if_neg fun h => hr h.1)
  · by_cases hsel : s.selCtx = s.ctx
    · simp [hsel, drawsMade]
    · simp [hsel]
  · have : r.toNat ≠ 0x032 := toNat_ne_of_ne hr
    simp [this]

/-- Settles O7: each slot issues with the effect stated, CCHECK's bit being the model's. -/
theorem capabilitySlots : Obligations.CapabilitySlots := by
  refine ⟨⟨fun d g a => issues_of_exec (fun _ => rfl), fun d hi g m => issues_of_exec (fun _ => rfl),
    fun g k o l => issues_of_exec_of_eq (fun _ => rfl) fun s => ?_⟩,
    fun v b o => issues_of_exec (fun _ => rfl), fun n d b o => issues_of_exec (fun _ => rfl)⟩
  exact congrArg (fun b => landK k.toNat 1 b s) (notNull_and_decide _ _)

/-- Settles O8: each slot issues with its effect's entry into the welt. -/
theorem commitTimeSlots : Obligations.CommitTimeSlots := by
  refine ⟨⟨fun _ _ => issues_of_exec (fun _ => rfl), fun _ => issues_of_exec (fun _ => rfl),
    fun _ => issues_of_exec (fun _ => rfl), fun _ => issues_of_exec (fun _ => rfl), fun _ => issues_of_exec (fun _ => rfl),
    fun _ _ => issues_of_exec (fun _ => rfl), fun _ _ => issues_of_exec (fun _ => rfl),
    fun _ _ => issues_of_exec (fun _ => rfl), fun _ _ _ _ => issues_of_exec (fun _ => rfl),
    fun n g a b => issues_of_exec_of_eq (fun _ => rfl) fun s => ?_⟩,
    fun _ _ _ _ => issues_of_exec (fun _ => rfl), fun _ _ _ _ => issues_of_exec (fun _ => rfl),
    fun _ _ _ => issues_of_exec (fun _ => rfl)⟩
  cases (s.src b).getLsbD 31 <;> rfl

/-- Settles O9: the waits pass, freeze or trap as the model's one test of the wait says; the other slots issue with the
effect stated. -/
theorem waitAndLinkSlots : Obligations.WaitAndLinkSlots := by
  refine ⟨⟨fun c g a b s hc => ?_, fun n thr s hc => ?_⟩, fun e a => issues_of_exec (fun _ => rfl), fun d e s hc => ?_,
    fun bulk gd gs a => issues_of_exec (fun _ => rfl), fun n a => issues_of_exec (fun _ => rfl)⟩
  · obtain ⟨poisoned, passes, freezes⟩ := slotWait_flwait c g a b s
    rw [exec_flwait_of_clear hc]
    refine ⟨fun hp => ?_, fun hp hh => ?_, fun hp hh => ?_⟩
    · rw [waitHere_of_trap (poisoned hp)]
      rfl
    · rw [waitHere_of_pass (passes hp ((flagCond_iff _ _ _).mpr hh))]
      rfl
    · rw [waitHere_of_freeze (freezes hp (Bool.eq_false_iff.mpr (mt (flagCond_iff _ _ _).mp hh)))]
      rfl
  · rw [exec_cwait_of_clear hc]
    intro m
    have hm : m = cwaitThr s thr := toNat_imm14_false _ _
    rw [hm]
    exact ⟨fun h => by rw [waitHere_of_pass (slotWait_cwait_of_lt h)]; rfl,
      fun h => by rw [waitHere_of_freeze (slotWait_cwait_of_le h)]⟩
  · rw [exec_epop_of_clear hc]
    refine ⟨fun lg v hpop => ?_, fun hpop => ?_⟩
    · rw [waitHere_of_pass (slotWait_epop_of_some hpop), hpop]
    · rw [waitHere_of_freeze (slotWait_epop_of_none hpop)]

/-- Settles O44: every slot form issues through the one place where its checks and holds stand. -/
theorem faultingSlotTrapsHeldSlotWaits : Obligations.FaultingSlotTrapsHeldSlotWaits := by
  intro i hi s
  refine ⟨fun tr h => exec_of_slotFault hi h, fun hfault hhold => ?_⟩
  obtain ⟨k, hk⟩ := exists_exec_eq_issue hi
  rw [hk, issue_of_hold hfault hhold]

/-- Settles O46: of a slot's checks, in their order, the first that fails is the one the manual names. -/
theorem issueTraps : Obligations.IssueTraps := by
  refine ⟨fun i s hsub hsup hctx => ?_, fun i s hsub hneed hseal => ?_, fun d r s hr h => ?_, fun a r s hr h => ?_,
    fun d b s hr h => ?_, fun a s hr => ⟨fun h => ?_, fun top rest h hne => ?_⟩, fun d g a s hr h => ?_⟩
  · exact exec_of_slotFault (isSlot_of_supOnly hsup)
      (slotFault_of_placementFault_eq_some hsub (placementFault_of_supOnly hsup hctx))
  · exact exec_of_slotFault (isSlot_of_needsSeal hneed)
      (slotFault_of_placementFault_eq_some hsub (placementFault_of_unsealed hneed hseal))
  · exact exec_of_formFault rfl hr (formFault_of_operandFault (failIf_of_specialForbidden h))
  · exact exec_of_formFault rfl hr (formFault_of_operandFault (failIf_of_specialForbidden h))
  · exact exec_of_formFault rfl hr (formFault_of_issueFault rfl rfl (by simp [issueFault, failIf, h]))
  · exact exec_of_formFault rfl hr (formFault_of_issueFault rfl rfl (by simp [issueFault, h]))
  · exact exec_of_formFault rfl hr (formFault_of_issueFault rfl rfl (by simp [issueFault, h, failIf, hne]))
  · exact exec_of_formFault rfl hr (formFault_of_issueFault rfl rfl (issueFault_cderive h))

/-- Settles O48: a landing form puts one result on its way, and a form that waits enters one effect, behind the counter it
names. -/
theorem sequencerFrames : Obligations.SequencerFrames := by
  refine ⟨fun i n s t hi hc ht => ?_, fun i ctr s t hi hc ht => ?_⟩
  · obtain ⟨loc, mask, val, hland⟩ := exists_exec_eq_land hi hc
    rw [hland] at ht
    cases ht
    exact ⟨rfl, fun l hl => State.updLayer_layerAt_ne _ _ hl.symm, _, State.updLayer_layerAt_same _ _ _, rfl, rfl, rfl⟩
  · obtain ⟨e, hwelt⟩ := exists_exec_eq_welt hi hc
    rw [hwelt] at ht
    cases ht
    have hlay : (counted ctr s).lay = s.lay ∧ (counted ctr s).ctx = s.ctx ∧ (counted ctr s).nextId = s.nextId := by
      cases ctr <;> exact ⟨rfl, rfl, rfl⟩
    obtain ⟨hlay, hctx, hid⟩ := hlay
    refine ⟨by cases ctr <;> rfl, fun k hk => ?_, welt_counted_me_frame e ctr s, fun j hj => ?_, fun m hm => ?_, ?_⟩
    · rw [welt_ctxAt_of_ne e _ (by rwa [hlay, hctx]), counted_ctxAt_of_ne ctr s hk]
    · rw [welt_me_nReg, counted_me_nReg_of_ne ctr s hj]
    · subst hm
      rw [welt_me_nReg, counted_me_nReg_self]
    · rw [← counted_me_regionId ctr s, ← hid]
      exact exists_welt_last_effect e _

end


section
/-!
PROOF. Cell slots that no operand can stop (R176 to R178, R218 to R236, R251 to R256): the form of a cell slot's issue, votes,
arithmetic, conversions and scans.
-/

namespace Sys2Proof.Proofs

open Sys2Proof.Machine Sys2Proof.Claims

variable {i : Instr} {pre : Nat → State → State} {ok : Run → State → Prop} {f g : Run → State → State}

/-! ### A cell slot's issue (R29, R31) -/

/-- A form that issues with the sequencer's part `pre` and the effect that its cells execute does what that effect does
where `ok` holds. -/
theorem cellDoes_of_issueBoth (hexec : ∀ s, exec i s = issueBoth i pre g s) (hcell : ∀ r t, cellExec i r t = g r t)
    (hgf : ∀ r t, ok r t → g r t = f r t) : CellDoes i pre ok f := by
  refine ⟨fun r t h => (hcell r t).trans (hgf r t h), fun s hc h => ?_⟩
  rw [hexec, issueBoth, issue_of_clear hc]
  by_cases hon : cellOn s.me.cmask 0 = true
  · rw [if_pos hon, if_pos hon, ← hgf _ _ (h hon)]
    rfl
  · rw [if_neg hon, if_neg hon]
    rfl

/-- The same, for a form that no operand stops and whose effect the model writes another way. -/
theorem cellIssues_of_issueCell_of_eq (hcell : ∀ r t, cellExec i r t = g r t) (hexec : ∀ s, exec i s = issueCell i g s)
    (hgf : ∀ r t, g r t = f r t) : CellIssues i f :=
  cellDoes_of_issueBoth hexec hcell (fun r t _ => hgf r t)

/-! ### Votes (R177) -/

theorem ite_beq_eq {α β : Type} [DecidableEq α] (x y : α) (a b : β) :
    (if (x == y) = true then a else b) = if x = y then a else b := by
  simp only [beq_iff_eq]

theorem ite_bne_eq {α β : Type} [DecidableEq α] (x y : α) (a b : β) :
    (if (x != y) = true then a else b) = if x ≠ y then a else b := by
  simp only [bne_iff_ne]

/-! ### Arithmetic (R83, R218 to R222, R236) -/

theorem wrapInt_natCast (w n : Nat) : wrapInt w (n : Int) = n % 2 ^ w := by
  simp only [wrapInt]
  exact_mod_cast Int.toNat_natCast (n % 2 ^ w)

theorem iAdd_eq : iAdd = fun c x y => (x + y) % 2 ^ c.intWidth := by
  funext c x y
  exact_mod_cast wrapInt_natCast c.intWidth (x + y)

/-- Every form of the table issues with the operation that the table names. -/
theorem cellExec_of_vintOf {d a b : BitVec 7} {h : Bctl → Nat → Nat → Nat} (hi : vintOf i = some (d, a, b, h)) :
    (∀ r t, cellExec i r t = cellV3 h d a b r t) ∧ ∀ s, exec i s = issueCell i (cellV3 h d a b) s := by
  unfold vintOf at hi
  split at hi
  case h_15 => cases hi
  all_goals cases hi
  case h_1 => rw [← iAdd_eq]; exact ⟨fun _ _ => rfl, fun _ => rfl⟩
  all_goals exact ⟨fun _ _ => rfl, fun _ => rfl⟩

theorem minTy_zero_eq : minTy 0 = fun x y => if y.toInt < x.toInt then y else x := by
  funext x y; simp [minTy, BitVec.slt]

theorem maxTy_zero_eq : maxTy 0 = fun x y => if x.toInt < y.toInt then y else x := by
  funext x y; simp [maxTy, BitVec.slt]

theorem cellExec_of_xaluOf {d a b : BitVec 7} {h : Word → Word → Word} (hi : xaluOf i = some (d, a, b, h)) :
    (∀ r t, cellExec i r t = cellX3 h d a b r t) ∧ ∀ s, exec i s = issueCell i (cellX3 h d a b) s := by
  unfold xaluOf at hi
  split at hi
  case h_12 => cases hi
  all_goals cases hi
  case h_10 => rw [← minTy_zero_eq]; exact ⟨fun _ _ => rfl, fun _ => rfl⟩
  case h_11 => rw [← maxTy_zero_eq]; exact ⟨fun _ _ => rfl, fun _ => rfl⟩
  all_goals exact ⟨fun _ _ => rfl, fun _ => rfl⟩

theorem cellExec_of_vpredOf {d : BitVec 7} {v : Run → State → Row} (hi : vpredOf i = some (d, v)) :
    (∀ r t, cellExec i r t = cellP d (v r t) r t) ∧ ∀ s, exec i s = issueCell i (fun r t => cellP d (v r t) r t) s := by
  unfold vpredOf at hi
  split at hi
  case h_8 => cases hi
  all_goals
    cases hi
    exact ⟨fun _ _ => rfl, fun _ => rfl⟩

/-- A floating-point lane's result from the rounding mode, the draw and the elements of vd, va and vb. -/
def floatLane (n : Nat) (d a b : BitVec 7) (h : FloatFmt → BitVec 3 → Nat → Nat → Nat → Nat → Nat) (r : Run) (t : State) :
    State :=
  cellF n (fun f => h f r.f.rm) d a b r t

theorem cellExec_of_vfltOf {n : Nat} {d a b : BitVec 7} {h : FloatFmt → BitVec 3 → Nat → Nat → Nat → Nat → Nat}
    (hi : vfltOf i = some (n, d, a, b, h)) :
    (∀ r t, cellExec i r t = floatLane n d a b h r t) ∧ ∀ s, exec i s = issueCell i (floatLane n d a b h) s := by
  unfold vfltOf at hi
  split at hi
  case h_15 => cases hi
  all_goals
    cases hi
    exact ⟨fun _ _ => rfl, fun _ => rfl⟩

theorem cellExec_of_vfcmpOf {d a b : BitVec 7} {h : Fp → Fp → Bool} (hi : vfcmpOf i = some (d, a, b, h)) :
    (∀ r t, cellExec i r t = cellFcmp h d a b r t) ∧ ∀ s, exec i s = issueCell i (cellFcmp h d a b) s := by
  unfold vfcmpOf at hi
  split at hi
  case h_4 => cases hi
  all_goals
    cases hi
    exact ⟨fun _ _ => rfl, fun _ => rfl⟩

end Sys2Proof.Proofs

open Sys2Proof Sys2Proof.Machine Sys2Proof.Claims Sys2Proof.Proofs

/-- Settles O10: each vote starts with the sequencer's part and takes the cell's contribution. -/
theorem voteSlots : Obligations.VoteSlots :=
  ⟨fun _ _ => cellDoes_of_issueBoth (fun _ => rfl) (fun _ _ => rfl)
      (fun r t _ => congrArg (contribute r · t) (ite_bne_eq _ _ _ _)),
    fun _ _ => cellDoes_of_issueBoth (fun _ => rfl) (fun _ _ => rfl)
      (fun r t _ => congrArg (contribute r · t) (ite_beq_eq _ _ _ _)),
    fun _ _ => cellDoes_of_issueBoth (fun _ => rfl) (fun _ _ => rfl) (fun _ _ _ => rfl),
    fun _ => cellDoes_of_issueBoth (fun _ => rfl) (fun _ _ => rfl) (fun _ _ _ => rfl),
    fun _ => cellDoes_of_issueBoth (fun _ => rfl) (fun _ _ => rfl) (fun _ _ _ => rfl)⟩

/-- Settles O11: every form of the two tables executes with the model's one lane-wise operation. -/
theorem floatLanes : Obligations.FloatLanes := by
  refine ⟨fun i n d a b g hi => ?_, fun i d a b h hi => ?_⟩
  · obtain ⟨hcell, hexec⟩ := cellExec_of_vfltOf hi
    exact cellIssues_of_issueCell_of_eq hcell hexec (fun _ _ => rfl)
  · obtain ⟨hcell, hexec⟩ := cellExec_of_vfcmpOf hi
    exact cellIssues_of_issueCell_of_eq hcell hexec (fun _ _ => rfl)

/-- Settles O12: every form of the three tables executes with the table's operation, and so do the forms of their own. -/
theorem integerAddressAndPredicateSlots : Obligations.IntegerAddressAndPredicateSlots := by
  refine ⟨⟨fun i d a b f hi => ?_, fun d p a => cellIssues_of_issueCell (fun _ _ => rfl) (fun _ => rfl),
      fun d g c => cellIssues_of_issueCell (fun _ _ => rfl) (fun _ => rfl)⟩,
    ⟨fun i d a b f hi => ?_, fun d n => ?_, fun d n => ?_⟩, fun i d v hi => ?_⟩
  · obtain ⟨hcell, hexec⟩ := cellExec_of_vintOf hi
    exact cellIssues_of_issueCell_of_eq hcell hexec (fun _ _ => rfl)
  · obtain ⟨hcell, hexec⟩ := cellExec_of_xaluOf hi
    exact cellIssues_of_issueCell_of_eq hcell hexec (fun _ _ => rfl)
  · refine cellIssues_of_issueCell_of_eq (g := cellXaddi d n) (fun _ _ => rfl) (fun _ => rfl) (fun r t => ?_)
    rw [cellXaddi, immS_eq_imm14]
  · refine cellIssues_of_issueCell_of_eq (g := cellXli d n) (fun _ _ => rfl) (fun _ => rfl) (fun r t => ?_)
    rw [cellXli, immS_eq_imm14]
  · obtain ⟨hcell, hexec⟩ := cellExec_of_vpredOf hi
    exact cellIssues_of_issueCell_of_eq hcell hexec (fun _ _ => rfl)

/-- Settles O14: each conversion executes with the effect stated. -/
theorem conversionSlots : Obligations.ConversionSlots := by
  refine ⟨fun f d a rm c => cellIssues_of_issueCell (fun _ _ => rfl) (fun _ => rfl),
    fun f d a rm c => cellIssues_of_issueCell (fun _ _ => rfl) (fun _ => rfl),
    fun d a rm n => cellIssues_of_issueCell (fun _ _ => rfl) (fun _ => rfl),
    fun d a rm n => cellIssues_of_issueCell_of_eq (g := cellVdeq d a rm n) (fun _ _ => rfl) (fun _ => rfl) (fun r t => ?_)⟩
  simp only [cellVdeq, beq_iff_eq]

/-- Settles O18: each scan form executes with the effect stated. -/
theorem scanSlots : Obligations.ScanSlots :=
  ⟨fun _ _ _ _ _ => cellIssues_of_issueCell (fun _ _ => rfl) (fun _ => rfl),
    fun _ _ _ _ _ => cellIssues_of_issueCell (fun _ _ => rfl) (fun _ => rfl),
    fun _ _ _ _ _ => cellIssues_of_issueCell (fun _ _ => rfl) (fun _ => rfl),
    fun _ _ _ _ _ => cellIssues_of_issueCell (fun _ _ => rfl) (fun _ => rfl),
    fun _ _ _ _ _ => cellIssues_of_issueCell (fun _ _ => rfl) (fun _ => rfl),
    fun _ _ _ => cellIssues_of_issueCell (fun _ _ => rfl) (fun _ => rfl),
    fun _ _ _ => cellIssues_of_issueCell (fun _ _ => rfl) (fun _ => rfl)⟩

end


section
/-!
PROOF. Cell slots that an operand can stop (R239 to R250, R262 to R266, R277 to R300): networks, copies between banks, lasts,
edges, the matrix unit's slots, accumulators, copies, atomics and the stack. Each cell effect is given where its checks pass.
-/

namespace Sys2Proof.Proofs

open Sys2Proof.Machine Sys2Proof.Claims

variable {r : Run} {t : State}

/-! ### Networks (R240 to R243) -/

theorem loadThrough_none {d : BitVec 7} {em : BitVec 4} {xa : BitVec 3} (hbad : (r.addr t xa).bad = false) :
    loadThrough d none em xa r t = loaded d em xa none r t := by
  simp only [loadThrough, loaded, hbad, Bool.false_eq_true, if_false]

theorem loadThrough_some {d : BitVec 7} {n : Nat} {em : BitVec 4} {xa : BitVec 3} (hbad : (r.addr t xa).bad = false)
    (hlast : (r.lastAt t n .read).isSome) : loadThrough d (some n) em xa r t = loaded d em xa (r.lastAt t n .read) r t := by
  obtain ⟨l, hl⟩ := Option.isSome_iff_exists.mp hlast
  simp only [loadThrough, loaded, hbad, hl, Bool.false_eq_true, if_false]

theorem storeThrough_none {v : BitVec 7} {em : BitVec 4} {xa : BitVec 3} (hbad : (r.addr t xa).bad = false)
    (hbusy : r.busy t em = false) : storeThrough v none em xa r t = stored v em xa none r t := by
  simp only [storeThrough, stored, hbad, hbusy, Bool.false_eq_true, if_false]

theorem storeThrough_some {v : BitVec 7} {n : Nat} {em : BitVec 4} {xa : BitVec 3} (hbad : (r.addr t xa).bad = false)
    (hbusy : r.busy t em = false) (hlast : (r.lastAt t n .write).isSome) :
    storeThrough v (some n) em xa r t = stored v em xa (r.lastAt t n .write) r t := by
  obtain ⟨l, hl⟩ := Option.isSome_iff_exists.mp hlast
  simp only [storeThrough, stored, hbad, hbusy, hl, Bool.false_eq_true, if_false]

/-- VLDX's and VSTX's entry, once it lies in the share (R240). -/
theorem ite_physLast_of_isSome {n : Nat} (h : ((r.share t).physLast n).isSome) (u w : State) :
    (if ((r.share t).physLast n).isNone = true then u else w) = w := by
  rw [Option.isNone_eq_false_iff.mpr h, if_neg Bool.false_ne_true]

/-! ### Weight lines (R263) -/

theorem loadLine_of_clear {str : Bool} {le : BitVec 6} {xa : BitVec 3} {limit : Nat} {k : Nat → Lanes → State → State}
    (hq : ((r.x t xa.toNat).extractLsb' 26 6).toNat < limit) (hbad : (r.addr t xa).bad = false)
    (hlast : str = false → (r.lastAt t le.toNat .read).isSome) :
    loadLine (entryOf str le) xa limit k r t =
      let port := r.readLine t (r.addr t xa) (r.addr t xa).base 0
      k ((r.x t xa.toNat).extractLsb' 26 6).toNat
        (if str then port else match r.lastAt t le.toNat .read with | some l => readnet l port | none => port) t := by
  simp only [Run.addr] at hbad
  cases str with
  | true => simp only [loadLine, entryOf, Run.addr, hbad, Nat.not_le.mpr hq, decide_false, Bool.or_self, Bool.false_eq_true,
      if_false, if_true]
  | false =>
    obtain ⟨l, hl⟩ := Option.isSome_iff_exists.mp (hlast rfl)
    simp only [loadLine, entryOf, Run.addr, hbad, Nat.not_le.mpr hq, hl, decide_false, Bool.or_self, Bool.false_eq_true,
      if_false]

/-! ### Atomics and the stack (R294, R297, R300) -/

theorem atomicCell_of_fits {op ty : Nat} {cas returns : Bool} {ctr : Option Nat} {xm : BitVec 3} {d : BitVec 7}
    (h : atomicFits cas xm d r t) :
    atomicCell op ty cas returns ctr xm d r t = atomicRequest op ty cas returns ctr xm d r t := by
  obtain ⟨haligned, hinside⟩ := h
  have hbad : ((capBase r.slot.cap + (r.x t xm.toNat).toNat) % 4 != 0 ||
      (atomicLanes cas xm d r t).any (fun e => decide (capLimit r.slot.cap < e.2.1 + 4))) = false := by
    rw [haligned, Bool.or_eq_false_iff, List.any_eq_false]
    exact ⟨rfl, fun e he => by simpa using hinside e he⟩
  have hexec : atomicCell op ty cas returns ctr xm d r t =
      if ((capBase r.slot.cap + (r.x t xm.toNat).toNat) % 4 != 0 ||
          (atomicLanes cas xm d r t).any (fun e => decide (capLimit r.slot.cap < e.2.1 + 4))) = true then
        r.raise .bounds 3 t (capBase r.slot.cap + (r.x t xm.toNat).toNat) (capObj r.slot.cap).toNat
      else if (atomicLanes cas xm d r t).isEmpty = true then t
      else pushReq { newReq t r.f.ctx r.cell r.f.region r.slot.eff
        (.atomic op ty cas returns (((r.share t).physV d.toNat).getD 0) (atomicLanes cas xm d r t) []) .held r.slot.cap
        (capBase r.slot.cap + (r.x t xm.toNat).toNat) ctr 0 with baddr := r.f.baddr, slot := r.slot.idx } t := rfl
  rw [hexec, hbad]
  simp only [Bool.false_eq_true, if_false, List.isEmpty_iff]
  rfl

theorem stackBad_eq_false {o n : Nat} (halign : o % 32 = 0) (hlo : 32 * r.f.swlo.toNat ≤ o)
    (hhi : o + 128 * n ≤ 32 * r.f.swhi.toNat) : stackBad r o n = false := by
  simp [stackBad, halign, hlo, hhi]

/-! ### Copies (R282) -/

theorem copyCell_of_fits {xa : BitVec 3} {xm : BitVec 5} {ln : BitVec 2} {f : Nat → Nat → Nat → State → State}
    (h : copyFits xa xm ln r t) : copyCell xa xm ln f r t = eachRow xa xm ln f r t := by
  obtain ⟨haligned, hinside, hrows⟩ := h
  have hbad : ((capBase r.slot.cap + (r.x t xm.toNat).toNat) % 128 != 0 ||
      decide (capLimit r.slot.cap < capBase r.slot.cap + (r.x t xm.toNat).toNat + 128 * (r.share t).nb * 2 ^ ln.toNat) ||
      decide (255 < (netAddr (r.x t xa.toNat)).base + 2 ^ ln.toNat - 1 + 31)) = false := by
    simp only [copyStart, Run.addr] at haligned hinside hrows
    simp [haligned, hinside, hrows]
  simp only [copyCell, hbad, Bool.false_eq_true, if_false]
  rfl

/-! ### A load whose rows a freeze has had sent ahead (R361) -/

/-- A context whose share holds one group of eight banks. -/
def oneGroup : State := State.reset.setCtx 0 { Ctx.free with share := { Ctx.free.share with banks := [0] } }

/-- An ALD of one line into a 1,024-byte object, its rows already at the port. -/
def aheadRun : Run :=
  { f := oneGroup.flightNow, cell := 0,
    slot := { slotOf (.ald 0 0 0 0 0) oneGroup with cap := 1024 <<< 16, ahead := true } }

theorem copyFits_aheadRun : copyFits 0 0 0 aheadRun oneGroup := ⟨by decide, by decide, by decide⟩

/-- It sends nothing again, -/
theorem cellExec_aheadRun : cellExec (.ald 0 0 0 0 0) aheadRun oneGroup = oneGroup := by
  have h : cellAld 0 0 0 0 0 aheadRun oneGroup = eachRow 0 0 0 (fun _ _ _ s => s) aheadRun oneGroup :=
    copyCell_of_fits copyFits_aheadRun
  rw [show cellExec (.ald 0 0 0 0 0) aheadRun oneGroup = cellAld 0 0 0 0 0 aheadRun oneGroup from rfl, h]
  rfl

/-- and its eight rows would be eight requests. -/
theorem nextId_eachRow_aheadRun :
    (eachRow 0 0 0 (sendLoad none (some 0) aheadRun) aheadRun oneGroup).nextId = oneGroup.nextId + 8 := by
  rfl

end Sys2Proof.Proofs

open Sys2Proof Sys2Proof.Machine Sys2Proof.Claims Sys2Proof.Proofs

/-- Settles O15: each load executes through its last, or straight, once its address and its last pass. -/
theorem networkLoads : Obligations.NetworkLoads := by
  refine ⟨fun d em xa => cellDoes_of_issueBoth (g := cellVldStraight d em xa) (fun _ => rfl) (fun _ _ => rfl) fun r t h => ?_,
    fun d le em xa => cellDoes_of_issueBoth (g := cellVld d le em xa) (fun _ => rfl) (fun _ _ => rfl) fun r t h => ?_,
    fun d xe em xa => cellDoes_of_issueBoth (g := cellVldx d xe em xa) (fun _ => rfl) (fun _ _ => rfl) fun r t h => ?_,
    fun d xa => cellDoes_of_issueBoth (g := cellVldDec d xa) (fun _ => rfl) (fun _ _ => rfl) fun r t h => ?_⟩
  · exact loadThrough_none h
  · exact loadThrough_some h.1 h.2
  · obtain ⟨hbad, hshare, hlast⟩ := h
    rw [cellVldx, ite_physLast_of_isSome hshare, loadThrough_some hbad hlast]
  · obtain ⟨hbad, hconv⟩ := h
    simp only [cellVldDec, hbad, hconv, Bool.or_self, Bool.false_eq_true, if_false]

/-- Settles O16: each store executes through its last, or straight, once its address, its directions and its last pass. -/
theorem networkStores : Obligations.NetworkStores := by
  refine ⟨fun v em xa => cellDoes_of_issueBoth (g := cellVstStraight v em xa) (fun _ => rfl) (fun _ _ => rfl) fun r t h => ?_,
    fun v le em xa => cellDoes_of_issueBoth (g := cellVst v le em xa) (fun _ => rfl) (fun _ _ => rfl) fun r t h => ?_,
    fun v xe em xa => cellDoes_of_issueBoth (g := cellVstx v xe em xa) (fun _ => rfl) (fun _ _ => rfl) fun r t h => ?_,
    fun v xa => cellDoes_of_issueBoth (g := cellVstEnc v xa) (fun _ => rfl) (fun _ _ => rfl) fun r t h => ?_⟩
  · exact storeThrough_none h.1 h.2
  · obtain ⟨hbad, hbusy, hlast⟩ := h
    exact storeThrough_some hbad hbusy hlast
  · obtain ⟨hbad, hbusy, hshare, hlast⟩ := h
    rw [cellVstx, ite_physLast_of_isSome hshare, storeThrough_some hbad hbusy hlast]
  · obtain ⟨hbad, hconv⟩ := h
    have hconv' : r.convBad t (r.addr t xa) (fun k => !(!r.convBank k || bfSparse (mapGet 0 r.f.bfmt k))) = false := by
      simpa using hconv
    simp only [cellVstEnc, hbad, hconv', Bool.or_self, Bool.false_eq_true, if_false]

/-- Settles O17: with its addresses, its lasts and its scale bytes in order, BCOPY executes with the effect stated. -/
theorem bankCopy : Obligations.BankCopy := by
  intro rs rl ws wl xd xs
  refine cellDoes_of_issueBoth (g := cellBcopy rs rl ws wl xd xs) (fun _ => rfl) (fun _ _ => rfl) fun r t h => ?_
  obtain ⟨hsrc, hdst, hle, hwe, hscales⟩ := h
  obtain ⟨l, hl⟩ := Option.isSome_iff_exists.mp hle
  obtain ⟨w, hw⟩ := Option.isSome_iff_exists.mp hwe
  simp only [hl, hw] at hscales
  simp only [cellBcopy, hl, hw, hsrc, hdst, Bool.or_self, Bool.false_eq_true, if_false]
  generalize r.copyLanes t _ _ _ = lanes at hscales ⊢
  exact if_neg (by rw [hscales]; exact Bool.false_ne_true)

/-- Settles O19: each slot executes with the effect stated, once its last, its directions and its rows pass. -/
theorem permuteEdgeAndLastSlots : Obligations.PermuteEdgeAndLastSlots := by
  refine ⟨⟨fun d a le => cellDoes_of_issueBoth (g := cellVperm d a le) (fun _ => rfl) (fun _ _ => rfl) fun r t h => ?_,
      fun le n => cellIssues_of_issueCell_of_eq (g := cellLlast le n) (fun _ _ => rfl) (fun _ => rfl) fun r t => ?_,
      fun dm a lg => cellDoes_of_issueBoth (g := cellEsend dm a lg) (fun _ => rfl) (fun _ _ => rfl) fun r t h => ?_,
      fun d dir lg => cellIssues_of_issueCell (fun _ _ => rfl) (fun _ => rfl),
      fun dm xa => cellDoes_of_issueBoth (g := cellHalo dm xa) (fun _ => rfl) (fun _ _ => rfl) fun r t h => ?_⟩,
    fun scatter le a pen pp => ?_⟩
  · obtain ⟨l, hl⟩ := Option.isSome_iff_exists.mp h
    simp only [cellVperm, hl]
  · simp only [cellLlast, toNat_imm14_false]
  · simp only [cellEsend, h, Bool.false_eq_true, if_false]
  · obtain ⟨hsrow, hdrow, hbusy⟩ := h
    simp only [cellHalo, hbusy, Nat.not_lt.mpr hsrow, Nat.not_lt.mpr hdrow, decide_false, Bool.or_self, Bool.false_eq_true,
      if_false]
  · cases scatter
    · refine cellIssues_of_issueCell_of_eq (g := cellAwlGather le a pen pp) (fun _ _ => rfl) (fun _ => rfl) fun r t => ?_
      simp only [cellAwlGather, cellAwl, Bool.false_and, Bool.or_false, Bool.false_eq_true, false_and, or_false, if_false]
    · refine cellIssues_of_issueCell_of_eq (g := cellAwlScatter le a pen pp) (fun _ _ => rfl) (fun _ => rfl) fun r t => ?_
      simp only [cellAwlScatter, cellAwl, Bool.true_and, true_and, if_true, Bool.or_eq_true, bne_iff_ne]

/-- Settles O20: each slot executes with the effect stated, MLDW's once its line and its last pass. -/
theorem matrixSlots : Obligations.MatrixSlots := by
  refine ⟨fun m a => cellIssues_of_issueCell (fun _ _ => rfl) (fun _ => rfl),
    fun pl => cellIssues_of_issueCell (fun _ _ => rfl) (fun _ => rfl),
    fun pl fmt str le xa => cellDoes_of_issueBoth (g := cellMldw pl fmt str le xa) (fun _ => rfl) (fun _ _ => rfl) fun r t h => ?_,
    fun pl str le xa => cellDoes_of_issueBoth (g := cellMldwScl pl str le xa) (fun _ => rfl) (fun _ _ => rfl) fun r t h => ?_,
    fun n bc => ?_⟩
  · obtain ⟨hq, hbad, hlast⟩ := h
    rw [cellMldw, loadLine_of_clear hq hbad hlast] <;> rfl
  · obtain ⟨hq, hbad, hlast⟩ := h
    rw [cellMldwScl, loadLine_of_clear hq hbad hlast] <;> rfl
  · simp only [toNat_imm14_false]
    exact cellDoes_of_issueBoth (g := cellMcall n bc) (fun _ => rfl) (fun _ _ => rfl) (fun _ _ _ => rfl)

/-- Settles O22: each slot executes with the effect stated, once its tile, its address and its last pass. -/
theorem accumulatorSlots : Obligations.AccumulatorSlots := by
  refine ⟨fun d t0 xen xt => cellDoes_of_issueBoth (g := cellAmov d t0 xen xt) (fun _ => rfl) (fun _ _ => rfl) fun r t h => ?_,
    fun d t0 xen xt => cellDoes_of_issueBoth (g := cellAmovClr d t0 xen xt) (fun _ => rfl) (fun _ _ => rfl) fun r t h => ?_,
    fun d t0 xen xt => cellDoes_of_issueBoth (g := cellAmovTo d t0 xen xt) (fun _ => rfl) (fun _ _ => rfl) fun r t h => ?_,
    fun wstr le t0 xk xd => cellDoes_of_issueBoth (g := cellAtopk wstr le t0 xk xd) (fun _ => rfl) (fun _ _ => rfl)
      fun r t h => ?_⟩
  · obtain ⟨p, hp⟩ := Option.isSome_iff_exists.mp h
    simp [cellAmov, amovFrom, hp]
  · obtain ⟨p, hp⟩ := Option.isSome_iff_exists.mp h
    simp [cellAmovClr, amovFrom, hp]
  · obtain ⟨p, hp⟩ := Option.isSome_iff_exists.mp h
    simp [cellAmovTo, hp]
  · obtain ⟨htile, hbad, hlast⟩ := h
    simp only [Run.addr] at hbad
    cases wstr with
    | true =>
      simp only [cellAtopk, Run.addr, Option.isNone_eq_false_iff.mpr htile, hbad, Bool.false_eq_true, if_false, if_true]
      rfl
    | false =>
      obtain ⟨l, hl⟩ := Option.isSome_iff_exists.mp (hlast rfl)
      simp only [cellAtopk, Run.addr, Option.isNone_eq_false_iff.mpr htile, hbad, hl, Bool.false_eq_true, if_false]
      rfl

/-- Refutes O23: an ALD whose rows a freeze on its counter has had sent ahead (`FSlot.ahead`) sends no request at e, though
its rows, its alignment and its object pass; the statement has every ALD send one a row. -/
theorem not_copySlots : ¬ Obligations.CopySlots := by
  unfold Obligations.CopySlots
  rintro ⟨-, -, hald, -, -⟩
  have hsends := (hald 0 0 0 0 0).1 aheadRun oneGroup copyFits_aheadRun
  rw [cellExec_aheadRun] at hsends
  have hcount := congrArg State.nextId hsends
  rw [show (0 : BitVec 5).toNat = 0 from rfl, nextId_eachRow_aheadRun] at hcount
  omega

/-- Settles O24: each slot enters its effect at t and executes with the effect stated, once its addresses pass. -/
theorem atomicAndStackSlots : Obligations.AtomicAndStackSlots := by
  refine ⟨⟨fun g xm d op ty n => cellDoes_of_issueBoth (g := cellAmo g xm d op ty n) (fun _ => rfl) (fun _ _ => rfl)
        fun r t h => atomicCell_of_fits h,
      fun g xm d n => cellDoes_of_issueBoth (g := cellCas g xm d n) (fun _ => rfl) (fun _ _ => rfl)
        fun r t h => atomicCell_of_fits h,
      fun g xm d op ty => cellDoes_of_issueBoth (g := cellRed g xm d op ty) (fun _ => rfl) (fun _ _ => rfl)
        fun r t h => atomicCell_of_fits h⟩,
    fun v lg cnt xo => cellDoes_of_issueBoth (g := cellSbst v lg cnt xo) (fun _ => rfl) (fun _ _ => rfl) fun r t h => ?_,
    fun v lg cnt xo => cellDoes_of_issueBoth (g := cellSbld v lg cnt xo) (fun _ => rfl) (fun _ _ => rfl) fun r t h => ?_⟩
  · obtain ⟨halign, hlo, hhi⟩ := h
    simp only [cellSbst, stackBad_eq_false halign hlo hhi, Bool.false_eq_true, if_false]
  · obtain ⟨halign, hlo, hhi⟩ := h
    simp only [cellSbld, stackBad_eq_false halign hlo hhi, Bool.false_eq_true, if_false]

end


section
/-!
PROOF. The routine's words (R266 to R275), the step of the machine, the words of a bundle (R134), the manual's worked words, and
the machine at reset.
-/

namespace Sys2Proof.Proofs

open Sys2Proof.Machine Sys2Proof.Claims

variable {s : State} {q : Routine}

/-! ### A routine's word (R267) -/

/-- A word at its step of the window performs. -/
theorem microWord_of_due {endm : Bool} (h : WordDue q endm s) (k : Routine → State → State) :
    microWord endm k s = .next (k q s) := by
  obtain ⟨hq, hended, hat, hlast⟩ := h
  have hend : (s.now + 1 == q.e + q.bc) = endm := by rw [Bool.eq_iff_iff, beq_iff_eq, hlast]
  simp [microWord, hq, hended, hat, hend]

/-- A word elsewhere does not: the routine stops. -/
theorem microWord_of_misplaced {endm : Bool} (hq : s.routine = some q) (hended : q.ended = false) (hat : q.at_ = s.now)
    (hlast : ¬ (endm = true ↔ s.now + 1 = q.e + q.bc)) (k : Routine → State → State) :
    microWord endm k s = .next (routineFault q .sched 2 s) := by
  have hend : (endm != (s.now + 1 == q.e + q.bc)) = true := by
    rw [bne_iff_ne]
    intro he
    rw [he] at hlast
    simp at hlast
  simp [microWord, hq, hended, hat, hend]

/-- Every micro-operation other than ENDM is a word for a step before the last. -/
theorem exists_exec_eq_microWord {i : Instr} (hi : notEndm i = true) : ∃ k, ∀ s, exec i s = microWord false k s := by
  cases i <;> cases hi <;> exact ⟨_, fun _ => rfl⟩

/-! ### ROWIN, STEP and ACCUM (R269 to R274) -/

theorem exec_rowin_past_end (h : WordDue q false s) (hdone : q.rowsM s ≤ q.fi) :
    exec .rowin s = .next (s.setRoutine ({ q with fi := q.fi + 1 }.goto s.now (q.pc + 1) 1)) := by
  simp only [exec, execRowin, microWord_of_due h, hdone, if_true]

theorem exec_rowin_of_clear {x : Lanes} (h : WordDue q false s) (hrow : q.fi < q.rowsM s) (hroom : q.fi < q.sc + 2)
    (hfmt : q.afmt s ≠ 0) (hfmt6 : q.afmt s ≤ 6) (hhad : q.had s = 0 ∨ q.afmt s < 5)
    (hlo : 0 ≤ ((netAddr (q.m s 0)).base : Int) + q.rb + q.fi)
    (hhi : ((netAddr (q.m s 0)).base : Int) + q.rb + q.fi + 31 ≤ 255)
    (hshare : q.field s 1 6 1 = 0 → (((q.run s.cell .rowin).share s).physLast (q.field s 1 0 6)).isSome)
    (hline : q.line s (((netAddr (q.m s 0)).base : Int) + q.rb + q.fi).toNat = some x) :
    exec .rowin s = .next (rowinConflicts ((s.updCell s.focus (fun c =>
      { c with rowBuf := mapSet 0 c.rowBuf (q.fi % 2) x })).setRoutine
        ({ q with rows := mapInsert q.rows (q.fi % 2) (q.fi, s.now + 6, false), fi := q.fi + 1,
                  rowin := some s.now }.goto s.now (q.pc + 1) 1))) := by
  have hformat : (q.afmt s = 0 || 6 < q.afmt s || (q.had s != 0 && 5 ≤ q.afmt s)) = false := by
    obtain h0 | h5 := hhad
    · simp [hfmt, hfmt6, h0]
    · simp [hfmt, hfmt6, h5]
  have hrange : ¬ (((netAddr (q.m s 0)).base : Int) + q.rb + q.fi < 0 ∨
      255 < ((netAddr (q.m s 0)).base : Int) + q.rb + q.fi + 31) := by omega
  have hentry : (q.field s 1 6 1 = 0 && (((q.run s.cell .rowin).share s).physLast (q.field s 1 0 6)).isNone) = false := by
    by_cases h0 : q.field s 1 6 1 = 0
    · simp [Option.isNone_eq_false_iff.mpr (hshare h0)]
    · simp [h0]
  simp only [exec, execRowin, microWord_of_due h, Nat.not_le.mpr hrow, Nat.not_le.mpr hroom, hformat, hrange, hentry, hline,
    if_false, Bool.false_eq_true]
  rfl

theorem exec_accum_of_clear {lag : Bool} {ready : Nat} (h : WordDue q false s)
    (hsc : q.ai + 1 + (if lag then 1 else 0) ≤ q.sc) (hpass : mapFind q.passes (q.ai % 2) = some (q.ai, ready))
    (hready : ready ≤ s.now) :
    let base := (q.field s 3 0 6 : Int) + q.toff + 2 * q.nm s * (q.ai / 32 : Nat)
    let tile := fun (j : Nat) => (s.ctxAt (ctxKey s.lay q.ctx)).share.physTile (base.toNat + j)
    0 ≤ base → (∀ j, j < 2 * q.nm s → (tile j).isSome) →
    exec (.accum lag) s = .next ((s.updLayer s.lay (fun l => { l with pend := l.pend ++ (upto (2 * q.nm s)).flatMap (fun j =>
      (upto (q.km s)).map (fun kb =>
        ({ ctx := q.ctx, region := q.region, due := s.now + 3, lag := 0, seq := q.seq,
           loc := .accum s.cell ((tile j).getD 0) (q.ai % 32), mask := onesMask 1024,
           val := (partialRow (s.cellAt s.focus) (q.ai % 2) (q.nm s) kb j).setWidth 32768, last := none, lm := q.lm,
           baddr := q.baddr, slot := q.slot } : Pend))) })).setRoutine
        ({ q with passes := mapErase q.passes (q.ai % 2), ai := q.ai + 1 }.goto s.now (q.pc + 1) 1)) := by
  intro base tile hbase htiles
  have htiles' : (upto (2 * q.nm s)).any (fun j => (tile j).isNone) = false := by
    rw [List.any_eq_false]
    intro j hj
    simp [Option.isNone_eq_false_iff.mpr (htiles j (List.mem_range.mp hj))]
  have hplace : (decide (base < 0) || (upto (2 * q.nm s)).any (fun j => (tile j).isNone)) = false := by
    rw [htiles', Bool.or_false, decide_eq_false (Int.not_lt.mpr hbase)]
  simp only [exec, execAccum, microWord_of_due h, Nat.not_lt.mpr hsc, hpass, bne_self_eq_false, Nat.not_lt.mpr hready,
    if_false, decide_false, Bool.or_self, Bool.false_eq_true]
  exact congrArg Host.Outcome.next (if_neg fun hbad => Bool.false_ne_true (hplace.symm.trans hbad))

theorem exec_step_of_clear {ready : Nat} {used : Bool} (h : WordDue q false s) (hlegal : stepIllegal q s = false)
    (hrows : mapFind q.rows (q.sc % 2) = some (q.sc, ready, used)) (hready : ready ≤ s.now) (hfree : q.arrayFree ≤ s.now)
    (hpass : mapFind q.passes (q.sc % 2) = none) (hparity : badWeight q s = none) :
    ∃ t, exec .step s = .next t ∧ t.layers = s.layers ∧ t.ctxs = s.ctxs ∧
      t.routine = some ({ q with rows := mapInsert q.rows (q.sc % 2) (q.sc, ready, true),
                                 passes := mapInsert q.passes (q.sc % 2) (q.sc, s.now + passLength (q.afmt s)),
                                 arrayFree := s.now + passLength (q.afmt s), sc := q.sc + 1 }.goto s.now (q.pc + 1) 1) := by
  simp only [exec, execStep, microWord_of_due h, hlegal, hrows, hparity, hpass, bne_self_eq_false, Nat.not_lt.mpr hready,
    Nat.not_lt.mpr hfree, if_false, decide_false, Bool.or_self, Bool.false_eq_true, Option.isSome_none]
  exact ⟨_, rfl, rfl, rfl, by simp [State.routine, State.setRoutine, State.focus]; rfl⟩

/-! ### The words that move the routine's own registers (R269, R275) -/

theorem exec_rstc_of_clear (h : WordDue q false s) (hfree : s.now ≥ q.arrayFree) (hpasses : q.passes = [])
    (hrows : ∀ e ∈ q.rows, e.2.2.2 = true) :
    exec .rstc s = .next (s.setRoutine ({ q with fi := 0, sc := 0, ai := 0, rows := [] }.goto s.now (q.pc + 1) 1)) := by
  have hbusy : (decide (s.now < q.arrayFree) || !q.passes.isEmpty || q.rows.any (fun e => !e.2.2.2)) = false := by
    have hused : q.rows.any (fun e => !e.2.2.2) = false := by
      rw [List.any_eq_false]
      intro e he
      simp [hrows e he]
    rw [hused, hpasses]
    simpa using hfree
  simp only [exec, execRstc, microWord_of_due h, hbusy, Bool.false_eq_true, if_false]

theorem exec_loopm_of_clear {len : BitVec 4} {src : BitVec 2} {n : BitVec 24} (h : WordDue q false s) (hlen : len ≠ 0)
    (hdepth : q.loops.length < 2) (hstop : q.pc + len.toNat ≤ q.len)
    (hinner : ∀ f l k rest, q.loops = (f, l, k) :: rest → q.pc + 1 + len.toNat ≤ f + l) :
    let count := if src = 0 then n.toNat else if src = 1 then q.rowsM s
      else if src = 2 then q.field s 5 0 24 else q.field s 6 0 24
    exec (.loopm len src n) s = .next (s.setRoutine (
      if count = 0 then q.goto s.now (q.pc + 1 + len.toNat) 1
      else { q with loops := (q.pc + 1, len.toNat, count) :: q.loops }.goto s.now (q.pc + 1) 1)) := by
  intro count
  have hsrc : src = 0 ∨ src = 1 ∨ src = 2 ∨ src = 3 := by
    revert src
    decide
  have hlen' : ¬ len = 0#4 := hlen
  simp only [exec, execLoopm, microWord_of_due h]
  rw [if_neg]
  · obtain rfl | rfl | rfl | rfl := hsrc <;> exact congrArg Host.Outcome.next (apply_ite _ _ _ _).symm
  · cases hl : q.loops with
    | nil =>
      simp [hlen']
      omega
    | cons e rest =>
      obtain ⟨first, l, k⟩ := e
      have hin := hinner _ _ _ _ hl
      have hrest : rest = [] := by
        rw [hl, List.length_cons] at hdepth
        exact List.length_eq_zero_iff.mp (by omega)
      simp [hlen', hrest]
      omega

/-! ### The machine's step (R155) -/

theorem step_of_slot {w : Word} {i : Instr} (hphase : s.phase = .slots) (hw : s.latch.words[s.latch.slot]? = some w)
    (hi : decodeSlot w = .ok i) : step s = andThen (exec i s) (fun t => .next (afterSlot i t)) := by
  simp only [step, nextStep, hphase, slotStep, hw, hi]

theorem step_of_badWord {w : Word} {e : Reject} (hphase : s.phase = .slots) (hw : s.latch.words[s.latch.slot]? = some w)
    (he : decodeSlot w = .error e) : step s = .next (badSlot e s) := by
  simp only [step, nextStep, hphase, slotStep, hw, he]

theorem step_of_event {i : Instr} {rest : List Instr} (hphase : s.phase ≠ .slots) (hagenda : s.agenda = i :: rest) :
    step s = exec i { s with agenda := rest } := by
  unfold step nextStep
  split
  · next hslots => exact absurd hslots hphase
  · next j r hcons _ =>
    rw [hagenda] at hcons
    cases hcons
    rfl
  · next hnil _ =>
    rw [hagenda] at hnil
    cases hnil

/-! ### The words of a bundle (R134) -/

/-- What a fetch of at most n words from `pc` adds to those it has: the code words up to the first with a stop bit. -/
theorem exists_words_of_bundleAt {lay : Nat} {c : Ctx} {n : Nat} : ∀ {pc : Nat} {acc ws : List Word},
    bundleAt s lay c n pc acc = .ok ws → ∃ xs, ws = acc ++ xs ∧ (0 < n → 1 ≤ xs.length) ∧ xs.length ≤ n ∧
      (∀ j w, xs[j]? = some w → codeWord s lay c (pc + 4 * j) = .word w) ∧
      (∀ j w, xs[j]? = some w → j + 1 < xs.length → stopBit w = false) ∧
      (xs.length < n → ∀ w, xs.getLast? = some w → stopBit w = true) := by
  induction n with
  | zero =>
    intro pc acc ws h
    cases h
    exact ⟨[], by simp⟩
  | succ n ih =>
    intro pc acc ws h
    rw [bundleAt] at h
    split at h
    next w hw =>
      split at h
      next hstop =>
        cases h
        refine ⟨[w], rfl, by simp, by simp, fun j v hv => ?_, fun j v _ hj => ?_, fun _ v hv => ?_⟩
        · obtain ⟨rfl, rfl⟩ : j = 0 ∧ w = v := by simpa [List.getElem?_singleton] using hv
          simpa using hw
        · simp at hj
        · obtain rfl : w = v := by simpa using hv
          exact hstop
      next hstop =>
        obtain ⟨xs, rfl, hpos, hlen, hread, hinner, hlast⟩ := ih h
        refine ⟨w :: xs, by simp, by simp, by simpa using hlen, fun j v hv => ?_, fun j v hv hj => ?_, fun hlt v hv => ?_⟩
        · cases j with
          | zero =>
            cases hv
            simpa using hw
          | succ j => simpa [Nat.mul_succ, Nat.add_assoc, Nat.add_comm] using hread j v hv
        · cases j with
          | zero =>
            cases hv
            simpa using hstop
          | succ j => exact hinner j v hv (by simpa using hj)
        · have hlt' : xs.length < n := by simpa using hlt
          have hne : xs ≠ [] := List.ne_nil_of_length_pos (hpos (by omega))
          exact hlast hlt' v (by simpa [List.getLast?_cons, List.getLast?_eq_getLast_of_ne_nil hne] using hv)
    next => cases h

end Sys2Proof.Proofs

open Sys2Proof Sys2Proof.Machine Sys2Proof.Claims Sys2Proof.Proofs

/-- Settles O25: where nothing stops it, each word of its routine has the effect stated. -/
theorem microData : Obligations.MicroData := by
  intro s q h
  exact ⟨exec_rowin_past_end h, fun x => exec_rowin_of_clear h, fun ready used => exec_step_of_clear h,
    fun lag ready => exec_accum_of_clear h⟩

/-- Settles O26: each word performs at its own step of the window, and nowhere else. -/
theorem microControl : Obligations.MicroControl := by
  refine ⟨fun s q => ⟨fun h => ?_, fun h => ⟨fun p => ?_, fun d => ?_, fun d => ?_, fun n hn => ?_, exec_rstc_of_clear h,
    fun len src n => exec_loopm_of_clear h⟩⟩, fun s q hq hended hat => ⟨fun hlast => ?_, fun hlast i hi => ?_⟩⟩
  · simp only [exec, execEndm, microWord_of_due h]
  · simp only [exec, execPlane, microWord_of_due h]
  · simp only [exec, execAbas, microWord_of_due h]
  · simp only [exec, execTadd, microWord_of_due h]
  · simp only [exec, execWaitin, microWord_of_due h, hn, if_false]
  · have hmisplaced : ¬ (true = true ↔ s.now + 1 = q.e + q.bc) := by simpa using hlast
    simp only [exec, execEndm, microWord_of_misplaced hq hended hat hmisplaced]
  · obtain ⟨k, hk⟩ := exists_exec_eq_microWord hi
    rw [hk, microWord_of_misplaced hq hended hat (by simpa using hlast)]

/-- Settles O55: a step is the next slot's meaning, or the waiting event's, as the phase says. -/
theorem stepRunsTheDecodedInstruction : Obligations.StepRunsTheDecodedInstruction := by
  refine ⟨fun s w i hphase hw hi => ?_, fun i t ht => ?_, fun s w e hphase hw he => ?_, fun s i rest hphase hagenda => ?_,
    fun i s hi => ?_⟩
  · rw [step_of_slot hphase hw hi]
    exact ⟨fun t ht => by rw [ht]; rfl, fun f hf => by rw [hf]; rfl, fun f hf => by rw [hf]; rfl⟩
  · have hwords : t.latch.words.isEmpty = false := by simpa using ht
    unfold afterSlot
    exact if_neg (by rw [hwords]; exact Bool.false_ne_true)
  · refine ⟨_, ?_, step_of_badWord hphase hw he⟩
    rfl
  · exact step_of_event hphase hagenda
  · obtain hi | rfl := hi
    · cases i <;> cases hi <;> rfl
    · rfl

/-- Settles O56: the words that a fetch collects are read one by one, and only the last may stop the bundle. -/
theorem fetchStopsAtTheStopBit : Obligations.FetchStopsAtTheStopBit := by
  intro s lay c pc ws h
  obtain ⟨xs, rfl, hpos, hlen, hread, hinner, hstop⟩ := exists_words_of_bundleAt h
  exact ⟨hpos (by omega), hlen, hread, hinner, hstop⟩

/-- Settles O59: the words are decoded one by one. -/
theorem decodedWords : Obligations.DecodedWords := by
  constructor
  · decide
  · decide

/-- Settles O60: each part of the reset state is read off its definition. -/
theorem resetState : Obligations.ResetState :=
  ⟨rfl, fun _ => rfl, rfl, rfl, rfl, rfl, rfl, rfl, fun _ => ⟨rfl, rfl⟩, fun _ => ⟨rfl, rfl, rfl, rfl⟩,
    fun _ => ⟨rfl, rfl, rfl⟩, fun _ _ => rfl⟩

end


section
/-!
PROOF. Traps, discards and the landing of results: what each leaves of the context, and what it does not reach.
-/

namespace Sys2Proof.Proofs

open Sys2Proof.Machine Sys2Proof.Claims

/-! ### Taking a trap -/

theorem takeTrap_of_resident {s : State} {lay c : Nat} {tr : TrapInfo} (hr : (s.ctxAt (ctxKey lay c)).state = .resident)
    (h : ¬ ((s.ctxAt (ctxKey lay c)).task = .trapped ∨ (s.ctxAt (ctxKey lay c)).task = .placed ∨
      ((s.ctxAt (ctxKey lay c)).quieted = true ∧ tr.cause ≠ .watchdog ∧ tr.dec = false))) :
    takeTrap lay c tr s = (s.updCtx (ctxKey lay c) (fun x => { x with
      state := .discarding, trap := some tr, trapStep := (s.layerAt lay).step, trapCycle := s.cycleOf lay,
      resume := x.resumeEntry, wait := .none, waited := 0, untimed := true, quieted := true,
      fromHeld := false })).updLayer lay (endFreeze c) := by
  simp only [takeTrap, hr, Bool.not_eq_true', h, if_false]

theorem takeTrap_of_busy {s : State} {lay c : Nat} {tr : TrapInfo} (hr : (s.ctxAt (ctxKey lay c)).state = .resident)
    (h : (s.ctxAt (ctxKey lay c)).task = .trapped ∨ (s.ctxAt (ctxKey lay c)).task = .placed ∨
      ((s.ctxAt (ctxKey lay c)).quieted = true ∧ tr.cause ≠ .watchdog ∧ tr.dec = false)) :
    takeTrap lay c tr s = s.updCtx (ctxKey lay c) (fun x => { x with held := x.held ++ [tr] }) := by
  simp only [takeTrap, hr, Bool.not_eq_true', h, if_true]

/-- A trap reaches no context but its own. -/
theorem takeTrap_ctxAt_of_ne {lay c : Nat} {tr : TrapInfo} {s : State} {k : Nat} (hk : k ≠ ctxKey lay c) :
    (takeTrap lay c tr s).ctxAt k = s.ctxAt k := by
  unfold takeTrap
  dsimp only
  split <;> (try split) <;> (try split) <;> simp [State.updCtx_ctxAt_ne _ _ (Ne.symm hk)]


/-! ### A discard -/

/-- The two contexts have the same registers, pop log and committed shadow stack: what a discard does not reach (R51). -/
structure SameRegs (x y : Ctx) : Prop where
  s : x.s = y.s
  g : x.g = y.g
  k : x.k = y.k
  b : x.b = y.b
  shadow : x.shadow = y.shadow
  popLog : x.popLog = y.popLog

theorem SameRegs.refl (x : Ctx) : SameRegs x x := ⟨rfl, rfl, rfl, rfl, rfl, rfl⟩

theorem SameRegs.trans {x y z : Ctx} (h : SameRegs x y) (h' : SameRegs y z) : SameRegs x z :=
  ⟨h.s.trans h'.s, h.g.trans h'.g, h.k.trans h'.k, h.b.trans h'.b, h.shadow.trans h'.shadow, h.popLog.trans h'.popLog⟩

theorem sameRegs_setCtxSpecial (n : Nat) (v : DWord) (x : Ctx) : SameRegs (setCtxSpecial n v x) x := by
  unfold setCtxSpecial
  repeat' refine iteInduction (motive := fun y => SameRegs y x) (fun _ => ?_) fun _ => ?_
  all_goals exact ⟨rfl, rfl, rfl, rfl, rfl, rfl⟩

/-- Restoring a special register keeps every context's registers. -/
theorem sameRegs_restoreSpecial (lay c : Nat) (s : State) (e : Nat × DWord) (j : Nat) :
    SameRegs ((restoreSpecial lay c s e).ctxAt j) (s.ctxAt j) := by
  have hupd : ∀ k, SameRegs ((s.updCtx k (setCtxSpecial (e.1 % 4096) e.2)).ctxAt j) (s.ctxAt j) := fun k => by
    by_cases hk : k = j
    · subst hk
      rw [State.updCtx_ctxAt_same]
      exact sameRegs_setCtxSpecial ..
    · rw [State.updCtx_ctxAt_ne _ _ hk]
      exact SameRegs.refl _
  unfold restoreSpecial
  repeat' refine iteInduction (motive := fun u : State => SameRegs (u.ctxAt j) (s.ctxAt j)) (fun _ => ?_) fun _ => ?_
  all_goals (try exact hupd _)
  all_goals exact SameRegs.refl _

/-- Restoring a special register leaves a layer's results on their way. -/
theorem restoreSpecial_pend (lay c : Nat) (s : State) (e : Nat × DWord) (l : Nat) :
    ((restoreSpecial lay c s e).layerAt l).pend = (s.layerAt l).pend := by
  have hupd : ∀ f : Layer → Layer, (∀ x, (f x).pend = x.pend) → ((s.updLayer lay f).layerAt l).pend = (s.layerAt l).pend :=
    fun f hf => by
      by_cases hl : lay = l
      · subst hl
        rw [State.updLayer_layerAt_same, hf]
      · rw [State.updLayer_layerAt_ne _ _ hl]
  unfold restoreSpecial
  repeat' refine iteInduction (motive := fun u : State => (u.layerAt l).pend = (s.layerAt l).pend) (fun _ => ?_) fun _ => ?_
  all_goals (try exact hupd _ fun _ => rfl)
  all_goals rfl

theorem sameRegs_restoreSpecials (lay c j : Nat) (es : List (Nat × DWord)) : ∀ s : State,
    SameRegs ((es.foldl (restoreSpecial lay c) s).ctxAt j) (s.ctxAt j) := by
  induction es with
  | nil => exact fun s => SameRegs.refl _
  | cons e es ih => exact fun s => (ih _).trans (sameRegs_restoreSpecial lay c s e j)

theorem restoreSpecials_pend (lay c l : Nat) (es : List (Nat × DWord)) : ∀ s : State,
    ((es.foldl (restoreSpecial lay c) s).layerAt l).pend = (s.layerAt l).pend := by
  induction es with
  | nil => exact fun s => rfl
  | cons e es ih => exact fun s => (ih _).trans (restoreSpecial_pend lay c s e l)

/-- Withdrawing additions changes only counters. -/
theorem exists_withdraw_eq (adds : List (Nat × Nat)) : ∀ x : Ctx, ∃ n, withdraw x adds = { x with n := n } := by
  induction adds with
  | nil => exact fun x => ⟨x.n, rfl⟩
  | cons a adds ih =>
    intro x
    obtain ⟨n, hn⟩ := ih { x with n := mapSet 0 x.n a.1 (x.nReg a.1 - BitVec.ofNat 24 a.2) }
    exact ⟨n, hn⟩

/-- Updating cells leaves contexts and layers. -/
theorem foldl_updCell_frame (key : Nat → Nat) (f : Cell → Cell) (ks : List Nat) : ∀ s : State,
    (ks.foldl (fun s k => s.updCell (key k) f) s).ctxs = s.ctxs ∧
    (ks.foldl (fun s k => s.updCell (key k) f) s).layers = s.layers := by
  induction ks with
  | nil => exact fun s => ⟨rfl, rfl⟩
  | cons k ks ih => exact fun s => ih _

/-- The special registers a discard restores, in order (R211). -/
def restoredSpecials (x : Ctx) (r0 : Region) : List (Nat × DWord) :=
  (x.regions.reverse.map (fun r => r.specials)).flatten.map r0.entryOf

theorem discard_ctxs_layers {lay c : Nat} {s : State} {r0 : Region} {rest : List Region}
    (h : (s.ctxAt (ctxKey lay c)).regions = r0 :: rest) :
    let x := s.ctxAt (ctxKey lay c)
    let u := (restoredSpecials x r0).foldl (restoreSpecial lay c) s
    (discard lay c s).ctxs = (u.updCtx (ctxKey lay c) (fun x' => withdraw { x' with
        regions := [], pc := r0.entry, loops := r0.loops, xfer := none, delay := 0, notBefore := 0,
        mcallUntil := if r0.id ≤ x'.mcallRegion then 0 else x'.mcallUntil,
        outs := x'.outs.filter (fun o => o.region < r0.id) } (x.regions.map (fun r => r.adds)).flatten)).ctxs ∧
    (discard lay c s).layers = (u.updLayer lay (fun l => { l with
      pend := l.pend.filter (fun p => !isGone c r0.id p.ctx p.region)
      votes := l.votes.filter (fun v => !isGone c r0.id v.ctx v.region)
      flight := l.flight.filter (fun f => !isGone c r0.id f.ctx f.region)
      beats := l.beats.filter (fun b => !(isGone c r0.id b.ctx b.region && b.ready.isNone)) })).layers := by
  unfold Machine.discard
  simp only [restoredSpecials, h]
  constructor
  · rw [(foldl_updCell_frame (cellKey lay) (dropWork c r0.id) (upto 64) _).1]
    rfl
  · rw [(foldl_updCell_frame (cellKey lay) (dropWork c r0.id) (upto 64) _).2]
    rfl

/-- The discard of a context with a region leaves it at the entry of the oldest one, with the registers it had, and the layer
without the results of the discarded regions. -/
theorem discard_of_regions {lay c : Nat} {s : State} {r0 : Region} {rest : List Region}
    (h : (s.ctxAt (ctxKey lay c)).regions = r0 :: rest) :
    let y := (discard lay c s).ctxAt (ctxKey lay c)
    (y.regions = [] ∧ y.pc = r0.entry ∧ y.loops = r0.loops ∧ y.xfer = none ∧ y.delay = 0) ∧
    SameRegs y (s.ctxAt (ctxKey lay c)) ∧
    ((discard lay c s).layerAt lay).pend = (s.layerAt lay).pend.filter (fun p => !isGone c r0.id p.ctx p.region) := by
  intro y
  obtain ⟨hctxs, hlayers⟩ := discard_ctxs_layers h
  have hy : y = _ := congrArg (fun m => mapGet _ m (ctxKey lay c)) hctxs
  have hl : (discard lay c s).layerAt lay = _ := congrArg (fun m => mapGet _ m lay) hlayers
  rw [← State.ctxAt, State.updCtx_ctxAt_same] at hy
  rw [← State.layerAt, State.updLayer_layerAt_same] at hl
  obtain ⟨n, hn⟩ := exists_withdraw_eq _ _
  rw [hn] at hy
  refine ⟨by rw [hy]; exact ⟨rfl, rfl, rfl, rfl, rfl⟩, ?_, by rw [hl, restoreSpecials_pend]⟩
  obtain ⟨hs, hg, hk, hb, hshadow, hlog⟩ := sameRegs_restoreSpecials lay c (ctxKey lay c) (restoredSpecials _ r0) s
  rw [hy]
  exact ⟨hs, hg, hk, hb, hshadow, hlog⟩

/-! ### Where a result lands -/

theorem getLsbD_setBitTo (x : BitVec 8) (b : Bool) {n m : Nat} (hn : n < 8) (hm : m < 8) :
    (setBitTo x n b).getLsbD m = if m = n then b else x.getLsbD m := by
  have hbit : (BitVec.ofNat 8 (2 ^ n)).getLsbD m = decide (n = m) := by
    rw [BitVec.getLsbD_ofNat, Nat.testBit_two_pow]
    simp [hm]
  have hzero : (0 : BitVec 8).getLsbD m = false := BitVec.getLsbD_zero
  by_cases h : m = n
  · subst h
    cases b <;> simp only [setBitTo, BitVec.getLsbD_or, BitVec.getLsbD_and, BitVec.getLsbD_not, hbit, hzero, hm, decide_true,
      Bool.not_true, Bool.and_false, Bool.or_true, Bool.or_false, Bool.false_eq_true, if_true, if_false]
  · have h' : n ≠ m := Ne.symm h
    cases b <;> simp only [setBitTo, BitVec.getLsbD_or, BitVec.getLsbD_and, BitVec.getLsbD_not, hbit, hzero, hm, h, h', decide_true,
      decide_false, Bool.not_false, Bool.and_true, Bool.or_false, Bool.false_eq_true, if_true, if_false]

theorem planeClash_bank (lay : Nat) {p : Pend} {k b r : Nat} (hp : p.loc = .bank k b r) (s : State) :
    planeClash lay p s = false := by
  unfold planeClash
  simp only [hp]

theorem landThree_bank (lay : Nat) {p : Pend} {k b r : Nat} (hp : p.loc = .bank k b r) (s : State) :
    landThree lay p s = s.updCell (cellKey lay k) (fun e =>
      let old : Row := mapGet 0 e.banks (256 * b + r)
      { e with banks := mapSet 0 e.banks (256 * b + r) ((merge (old.setWidth 32768) p.mask p.val).setWidth 1024) }) := by
  simp only [landThree, planeClash_bank lay hp, hp, Bool.false_eq_true, if_false]

/-- Poison, once raised, stands. -/
theorem setPois_pois (lay k c : Nat) (s : State) : ((setPois lay k c s).ccAt (ccKey lay k c)).pois = true := by
  simp [setPois]

/-- A register result that is no special register reaches no context but its own. -/
theorem landReg_ctxAt_of_ne {lay : Nat} {p : Pend} {s : State} {k : Nat} (hk : k ≠ ctxKey lay p.ctx)
    (hp : ∀ n, p.loc ≠ .special n) : (landReg lay p s).ctxAt k = s.ctxAt k := by
  have hne := Ne.symm hk
  cases h : p.loc with
  | special n => exact absurd h (hp n)
  | pois j =>
    simp only [landReg, h]
    split
    · exact State.updCtx_ctxAt_ne _ _ hne
    · rfl
  | spois =>
    simp only [landReg, h, setSpois]
    split
    · exact State.updCtx_ctxAt_ne _ _ hne
    · rfl
  | v j n => simp [landReg, h, writeV]
  | _ => simp [landReg, h, State.updCtx_ctxAt_ne _ _ hne]

end Sys2Proof.Proofs

open Sys2Proof Sys2Proof.Machine Sys2Proof.Claims Sys2Proof.Proofs

/-- Settles O51: the branches of `takeTrap`, one by one. -/
theorem trapTaken : Obligations.TrapTaken := by
  unfold Obligations.TrapTaken
  intro s lay c tr
  refine ⟨fun hr h1 h2 h3 => ?_, fun hr h => ?_, fun h => ?_, fun old hd ht hs hf => ?_, fun old hd ht h => ?_,
    fun hd ht hs => ?_, fun hd ht hs => ?_, fun k hk => takeTrap_ctxAt_of_ne hk, takeTrap_mem ..⟩
  · have h : ¬ ((s.ctxAt (ctxKey lay c)).task = .trapped ∨ (s.ctxAt (ctxKey lay c)).task = .placed ∨
        ((s.ctxAt (ctxKey lay c)).quieted = true ∧ tr.cause ≠ .watchdog ∧ tr.dec = false)) := by
      rintro (h | h | ⟨hq, hw, hd⟩)
      · exact h1 h
      · exact h2 h
      · rcases h3 hq with h | h
        · exact hw h
        · exact absurd (h.symm.trans hd) (by decide)
    rw [takeTrap_of_resident hr h]
    exact ⟨by rw [State.updLayer_ctxAt, State.updCtx_ctxAt_same]; rfl, by simp⟩
  · rw [takeTrap_of_busy hr h, State.updCtx_ctxAt_same]
  · rcases h with h | h | h <;> simp [takeTrap, h]
  · simp [takeTrap, hd, ht, hs, hf]
  · rcases h with h | h <;> simp [takeTrap, hd, ht, h]
  · simp [takeTrap, hd, ht, hs]
  · simp [takeTrap, hd, ht, hs]

/-- Settles O52: `endDiscard` discards from the oldest region, and `discard` restores special registers only. -/
theorem discardReturnsToTheOldestRegion : Obligations.DiscardReturnsToTheOldestRegion := by
  unfold Obligations.DiscardReturnsToTheOldestRegion
  intro s lay c r0 rest h hkill _
  have he : endDiscard lay c s = Machine.discard lay c s := by
    simp [endDiscard, h, hkill]
  obtain ⟨⟨hregions, hpc, hloops, hxfer, hdelay⟩, hkept, hpend⟩ := discard_of_regions h
  rw [he]
  refine ⟨hregions, hpc, hloops, hxfer, hdelay, hkept.popLog, hkept.s, hkept.g, hkept.k, hkept.b, hkept.shadow, fun p => ?_,
    discard_mem lay c s⟩
  rw [hpend, List.mem_filter]
  simp [isGone, imp_iff_not_or]

/-- Settles O53, location by location: `landReg` and `landThree` update one map at one key. -/
theorem resultsLand : Obligations.ResultsLand := by
  unfold Obligations.ResultsLand
  intro lay p s
  refine ⟨fun n h => ?_, fun n h => ?_, fun n h => ?_, fun n h hn => ?_, fun k n h => ?_, fun k n h => ?_, fun k n h => ?_,
    fun k h hv => ?_, fun k b r h => ?_, fun k n h => ?_, landReg_mem .., landThree_mem .., fun c hc hp => landReg_ctxAt_of_ne hc hp⟩
  · simp only [landReg, h, State.updCtx_ctxAt_same, Ctx.sReg, mapGet_mapSet_same, true_and]
    exact fun m hm => mapGet_mapSet_ne _ _ _ (Ne.symm hm)
  · simp only [landReg, h, State.updCtx_ctxAt_same, Ctx.gReg, mapGet_mapSet_same, true_and]
    exact fun m hm => mapGet_mapSet_ne _ _ _ (Ne.symm hm)
  · simp only [landReg, h, State.updCtx_ctxAt_same, Ctx.bReg, Ctx.bReadyAt, mapGet_mapSet_same, true_and]
    exact fun m hm => mapGet_mapSet_ne _ _ _ (Ne.symm hm)
  · simp only [landReg, h, State.updCtx_ctxAt_same]
    refine ⟨by rw [getLsbD_setBitTo _ _ hn hn, if_pos rfl], fun m hm hmn => ?_⟩
    rw [getLsbD_setBitTo _ _ hn hm, if_neg hmn]
  · simp only [landReg, h, State.updCc_ccAt_same, mapGet_mapSet_same, true_and]
    exact fun m hm => mapGet_mapSet_ne _ _ _ (Ne.symm hm)
  · simp only [landReg, writeV, h, State.updCell_cellAt_same, mapGet_mapSet_same, true_and]
    exact fun m hm => mapGet_mapSet_ne _ _ _ (Ne.symm hm)
  · simp only [landReg, h, State.updCell_cellAt_same, mapGet_mapSet_same, true_and]
    exact fun m hm => mapGet_mapSet_ne _ _ _ (Ne.symm hm)
  · simp only [landReg, h, hv, if_true]
    exact setPois_pois ..
  · simp only [landThree_bank lay h, State.updCell_cellAt_same, mapGet_mapSet_same]
    refine ⟨fun n hn => ?_, fun m hm => mapGet_mapSet_ne _ _ _ (Ne.symm hm)⟩
    have hn' : n < 32768 := by omega
    rw [BitVec.getLsbD_setWidth, getLsbD_merge _ _ _ hn', BitVec.getLsbD_setWidth]
    simp [hn, hn']
  · refine ⟨landThree_accumulator lay h s, fun m hm => ?_⟩
    simp only [landThree, planeClash_accumulator lay h, h, Bool.false_eq_true, if_false, State.updCell_cellAt_same]
    exact mapGet_mapSet_ne _ _ _ (Ne.symm hm)

end


section
/-!
PROOF. The step of a layer whose cells hold nothing (R34, R105): its front and its back leave everything but the results that
land.
-/

namespace Sys2Proof.Proofs

open Sys2Proof.Machine Sys2Proof.Claims

/-! ### A layer in which nothing runs -/

/-- Nothing runs in the layer and nothing of the machine waits for its step: no bundle is on its way through the mesh, no cell
holds anything, no request or released effect stands, and no context has a region, a counter's work or a discard before it. -/
structure Idle (lay : Nat) (s : State) : Prop where
  flight : (s.layerAt lay).flight = []
  cells : s.cells = []
  reqs : s.reqs = []
  released : s.released = []
  ctxs : ∀ c, c < 5 → (s.ctxAt (ctxKey lay c)).regions = [] ∧ (s.ctxAt (ctxKey lay c)).outs = [] ∧
    mustDiscard (s.ctxAt (ctxKey lay c)) = false

variable {lay : Nat} {s t : State}

/-- What is idle in a state is idle in one with the same bundles, cells, requests, effects and contexts. -/
theorem Idle.congr (h : Idle lay s) (hflight : (t.layerAt lay).flight = (s.layerAt lay).flight) (hcells : t.cells = s.cells)
    (hreqs : t.reqs = s.reqs) (hreleased : t.released = s.released) (hctxs : t.ctxs = s.ctxs) : Idle lay t := by
  refine ⟨hflight.trans h.flight, hcells.trans h.cells, hreqs.trans h.reqs, hreleased.trans h.released, fun c hc => ?_⟩
  have hx : t.ctxAt (ctxKey lay c) = s.ctxAt (ctxKey lay c) := congrArg (fun m => mapGet _ m _) hctxs
  rw [hx]
  exact h.ctxs c hc

theorem Idle.liveCells (h : Idle lay s) : liveCells lay s = [] := by
  simp [Machine.liveCells, h.cells]

theorem Idle.cellAt (h : Idle lay s) (k : Nat) : s.cellAt k = .reset := by
  simp only [State.cellAt, h.cells]
  rfl

/-- A fold over the layer's contexts that does nothing in any of them does nothing. -/
theorem foldl_upto_five_eq_self {f : State → Nat → State} (hf : ∀ c, c < 5 → f s c = s) : (upto 5).foldl f s = s := by
  change f (f (f (f (f s 0) 1) 2) 3) 4 = s
  rw [hf 0 (by decide), hf 1 (by decide), hf 2 (by decide), hf 3 (by decide), hf 4 (by decide)]

theorem Idle.settleOuts (h : Idle lay s) : settleOuts lay s = s :=
  foldl_upto_five_eq_self fun c hc => by
    obtain ⟨_, houts, _⟩ := h.ctxs c hc
    simp only [houts, List.foldl_nil]

theorem Idle.commitAll (h : Idle lay s) : commitAll lay (upto 5) s = s := by
  have hcommit : (upto 5).foldl (fun s c => commitOldest lay c s) s = s :=
    foldl_upto_five_eq_self fun c hc => by
      obtain ⟨hregions, _, _⟩ := h.ctxs c hc
      simp only [commitOldest, hregions]
  rw [Machine.commitAll, hcommit, h.settleOuts]
  simp [settleLayer, h.released]

theorem Idle.discards (h : Idle lay s) :
    (upto 5).foldl (fun s c => if mustDiscard (s.ctxAt (ctxKey lay c)) then endDiscard lay c s else s) s = s :=
  foldl_upto_five_eq_self fun c hc => by
    obtain ⟨_, _, hdiscard⟩ := h.ctxs c hc
    simp only [hdiscard, Bool.false_eq_true, if_false]

theorem Idle.landReturns (h : Idle lay s) : landReturns lay s = s := by
  simp [Machine.landReturns, h.reqs]

theorem Idle.runCells (h : Idle lay s) : runCells lay s = s := by
  simp [Machine.runCells, h.flight]

theorem Idle.sendHalos (h : Idle lay s) (fresh : Bool) : sendHalos lay fresh s = s := by
  simp [Machine.sendHalos, h.liveCells]

theorem Idle.debugCells (h : Idle lay s) (fresh : Bool) : debugCells lay fresh s = s := by
  simp [Machine.debugCells, h.flight]

theorem Idle.phaseTwo (h : Idle lay s) : phaseTwo lay s = s := by
  simp [Machine.phaseTwo, takeHeld, h.reqs, h.liveCells]

theorem Idle.rowinFresh (h : Idle lay s) : rowinFresh lay s = { s with lay := lay, cell := 0 } := by
  have hq : State.routine { s with lay := lay, cell := 0 } = none := by
    change (s.cellAt _).routine = none
    rw [h.cellAt]
    rfl
  simp only [Machine.rowinFresh, hq]

theorem Idle.runFirstWord (h : Idle lay s) : runFirstWord lay s = s := by
  have hq : (s.cellAt (cellKey lay 0)).routine = none := by rw [h.cellAt]; rfl
  simp only [Machine.runFirstWord, hq]

/-- With register results alone on their way, nothing lands in phase 3. -/
theorem phaseThree_of_registers (hpend : ∀ p ∈ (s.layerAt lay).pend, phaseOf p.loc = 3) :
    phaseThree lay s = s.updLayer lay (fun l => { l with pend := (s.layerAt lay).pend }) := by
  have hdue : (s.layerAt lay).pend.filter (fun p => decide (p.due ≤ (s.layerAt lay).step) && phaseOf p.loc != 3) = [] :=
    List.filter_eq_nil_iff.mpr fun p hp => by simp [hpend p hp]
  have hrest : (s.layerAt lay).pend.filter (fun p => !(decide (p.due ≤ (s.layerAt lay).step) && phaseOf p.loc != 3)) =
      (s.layerAt lay).pend := List.filter_eq_self.mpr fun p hp => by simp [hpend p hp]
  simp only [phaseThree, hdue, List.mergeSort_nil, List.foldl_nil, State.updLayer, hrest]

/-- The two states agree in what a step of the layer lands: its results and votes, its step, and every context. -/
structure SameLanding (lay : Nat) (s t : State) : Prop where
  idle : Idle lay t
  ctxs : t.ctxs = s.ctxs
  step : (t.layerAt lay).step = (s.layerAt lay).step
  pend : (t.layerAt lay).pend = (s.layerAt lay).pend
  votes : (t.layerAt lay).votes = (s.layerAt lay).votes

/-- The front of an idle layer's step does nothing that its back sees. -/
theorem Idle.stepFrontOnce (h : Idle lay s) : SameLanding lay s (stepFrontOnce lay s) := by
  have hlay : Idle lay { s with lay := lay } := h.congr rfl rfl rfl rfl rfl
  simp only [Machine.stepFrontOnce]
  split
  · exact ⟨hlay, rfl, rfl, rfl, rfl⟩
  · have hearly : Idle lay (State.updLayer { s with lay := lay } lay (fun l => { l with early := true })) :=
      hlay.congr (by rw [State.updLayer_layerAt_same]) rfl rfl rfl rfl
    simp only [stepFront, hlay.landReturns, hlay.runCells, hlay.liveCells, List.foldl_nil, hlay.sendHalos, hlay.debugCells,
      hearly.commitAll]
    exact ⟨hearly, rfl, by rw [State.updLayer_layerAt_same]; rfl, by rw [State.updLayer_layerAt_same]; rfl,
      by rw [State.updLayer_layerAt_same]; rfl⟩

/-- The back of an idle layer's step lands registers on the contexts as they stand, one step on. -/
theorem Idle.stepBack (h : Idle lay s) (hpend : ∀ p ∈ (s.layerAt lay).pend, phaseOf p.loc = 3) :
    ∃ u : State, stepBack lay s = clearDone lay (landRegs lay u) ∧ u.ctxs = s.ctxs ∧
      (u.layerAt lay).step = (s.layerAt lay).step + 1 ∧ (u.layerAt lay).pend = (s.layerAt lay).pend ∧
      (u.layerAt lay).votes = (s.layerAt lay).votes := by
  have hcell : Idle lay { s with lay := lay, cell := 0 } := h.congr rfl rfl rfl rfl rfl
  obtain ⟨w, hw⟩ : ∃ w, w = State.updLayer { s with lay := lay, cell := 0 } lay (fun l => { l with pend := (s.layerAt lay).pend }) :=
    ⟨_, rfl⟩
  have hlayer : w.layerAt lay = s.layerAt lay := by rw [hw, State.updLayer_layerAt_same]; rfl
  have hidle : Idle lay w := h.congr (by rw [hlayer]) (by rw [hw]; rfl) (by rw [hw]; rfl) (by rw [hw]; rfl) (by rw [hw]; rfl)
  have hphase : Machine.phaseThree lay { s with lay := lay, cell := 0 } = w := by
    rw [hw]
    exact phaseThree_of_registers (s := { s with lay := lay, cell := 0 }) hpend
  refine ⟨w.updLayer lay (fun l => { l with step := l.step + 1, early := false, seal77 := [], landed := [], thaw := none }),
    ?_, by rw [State.updLayer_ctxs, hw]; rfl, ?_, ?_, ?_⟩
  · simp only [Machine.stepBack, h.rowinFresh, hcell.runFirstWord, hcell.sendHalos, hcell.debugCells, hcell.phaseTwo, hphase,
      hidle.discards, hidle.settleOuts]
  all_goals rw [State.updLayer_layerAt_same, ← hlayer]

/-! ### What landing keeps -/

/-- The two layers agree in their step, their results, their votes and their freeze. -/
structure SameQueue (l m : Layer) : Prop where
  step : l.step = m.step
  pend : l.pend = m.pend
  votes : l.votes = m.votes
  frozen : l.frozen = m.frozen

theorem SameQueue.refl (l : Layer) : SameQueue l l := ⟨rfl, rfl, rfl, rfl⟩

theorem SameQueue.trans {l m n : Layer} (h : SameQueue l m) (h' : SameQueue m n) : SameQueue l n :=
  ⟨h.step.trans h'.step, h.pend.trans h'.pend, h.votes.trans h'.votes, h.frozen.trans h'.frozen⟩

theorem sameQueue_updLayer (s : State) (k j : Nat) {f : Layer → Layer} (hf : ∀ l, SameQueue (f l) l) :
    SameQueue ((s.updLayer k f).layerAt j) (s.layerAt j) := by
  by_cases hk : k = j
  · subst hk
    rw [State.updLayer_layerAt_same]
    exact hf _
  · rw [State.updLayer_layerAt_ne _ _ hk]
    exact SameQueue.refl _

theorem sameQueue_landSpecial (lay sel n j : Nat) (m v : Lanes) (s : State) :
    SameQueue ((landSpecial lay sel n m v s).layerAt j) (s.layerAt j) := by
  unfold landSpecial
  repeat' refine iteInduction (motive := fun u : State => SameQueue (u.layerAt j) (s.layerAt j)) (fun _ => ?_) fun _ => ?_
  all_goals (try exact sameQueue_updLayer s _ j fun l => ⟨rfl, rfl, rfl, rfl⟩)
  all_goals exact SameQueue.refl _

/-- A register result keeps every layer's queue. -/
theorem sameQueue_landReg (p : Pend) (j : Nat) : SameQueue ((landReg lay p s).layerAt j) (s.layerAt j) := by
  cases h : p.loc with
  | special n =>
    simp only [landReg, h]
    exact sameQueue_landSpecial ..
  | pois k =>
    simp only [landReg, h]
    split <;> exact SameQueue.refl _
  | spois =>
    simp only [landReg, h, setSpois]
    split <;> exact SameQueue.refl _
  | _ => simp only [landReg, h, writeV]; exact SameQueue.refl _

/-- A fold of updates that keep contexts and layers keeps them. -/
theorem foldl_ctxs_layers {f : State → Nat → State} (hf : ∀ u k, (f u k).ctxs = u.ctxs ∧ (f u k).layers = u.layers)
    (ks : List Nat) : ∀ u : State, (ks.foldl f u).ctxs = u.ctxs ∧ (ks.foldl f u).layers = u.layers := by
  induction ks with
  | nil => exact fun u => ⟨rfl, rfl⟩
  | cons k ks ih => exact fun u => ⟨(ih _).1.trans (hf u k).1, (ih _).2.trans (hf u k).2⟩

/-- What leaves at the end of a step leaves contexts and queues. -/
theorem clearDone_frame (lay : Nat) (s : State) :
    (clearDone lay s).ctxs = s.ctxs ∧ SameQueue ((clearDone lay s).layerAt lay) (s.layerAt lay) := by
  have hcells : (clearDone lay s).ctxs = s.ctxs ∧ (clearDone lay s).layers = _ :=
    foldl_ctxs_layers (fun u k => by dsimp only; split <;> exact ⟨rfl, rfl⟩) _ _
  have hlayer : (clearDone lay s).layerAt lay = _ := congrArg (fun m => mapGet _ m lay) hcells.2
  refine ⟨hcells.1, ?_⟩
  rw [hlayer]
  exact sameQueue_updLayer s lay lay fun l => ⟨rfl, rfl, rfl, rfl⟩

/-! ### The registers that land -/

theorem setSpois_ctxAt_of_ne {k key : Nat} (h : k ≠ key) : (setSpois key s).ctxAt k = s.ctxAt k := by
  unfold setSpois
  split
  · exact State.updCtx_ctxAt_ne _ _ (Ne.symm h)
  · rfl

/-- Setting SPOIS keeps a context's registers. -/
theorem sameRegs_setSpois (key k : Nat) (s : State) : SameRegs ((setSpois key s).ctxAt k) (s.ctxAt k) := by
  by_cases h : k = key
  · subst h
    unfold setSpois
    split
    · rw [State.updCtx_ctxAt_same]
      exact ⟨rfl, rfl, rfl, rfl, rfl, rfl⟩
    · exact SameRegs.refl _
  · rw [setSpois_ctxAt_of_ne h]
    exact SameRegs.refl _

/-- The votes that land before the layer's present step. -/
def dueVotes (lay : Nat) (s : State) : List Vote := (s.layerAt lay).votes.filter (fun v => v.due ≤ (s.layerAt lay).step)

/-- The results and votes that land before the layer's present step, in the order in which they land. -/
def dueResults (lay : Nat) (s : State) : List Pend :=
  ((s.layerAt lay).pend.filter (regDue (s.layerAt lay).pend (s.layerAt lay).step) ++ (dueVotes lay s).map Vote.pend).mergeSort
    (fun a b => if a.due != b.due then a.due < b.due else a.seq ≤ b.seq)

/-- What a vote that has landed does beside its result: a poison vote that found poison sets SPOIS (R177). -/
def markPoison (lay : Nat) (s : State) (v : Vote) : State :=
  if v.kind = 3 ∧ v.acc ≠ 0 then setSpois (ctxKey lay v.ctx) s else s

/-- `landRegs` lands the results and votes that are due, takes them from the layer's queues, and marks the poison votes found. -/
theorem landRegs_eq (lay : Nat) (s : State) :
    ∃ u : State, landRegs lay s = (dueVotes lay s).foldl (markPoison lay) ((dueResults lay s).foldl (fun s p => landReg lay p s) u) ∧
      u.ctxs = s.ctxs ∧ (u.layerAt lay).step = (s.layerAt lay).step ∧
      (u.layerAt lay).pend = (s.layerAt lay).pend.filter (fun p => !regDue (s.layerAt lay).pend (s.layerAt lay).step p) ∧
      (u.layerAt lay).votes = (s.layerAt lay).votes.filter (fun v => (s.layerAt lay).step < v.due) ∧
      (u.layerAt lay).frozen = (s.layerAt lay).frozen :=
  ⟨_, rfl, rfl, by rw [State.updLayer_layerAt_same], by rw [State.updLayer_layerAt_same], by rw [State.updLayer_layerAt_same], by rw [State.updLayer_layerAt_same]⟩

/-- One result alone on its way, due before the step to come, lands. -/
theorem landRegs_of_single_result {p : Pend} (hpend : (s.layerAt lay).pend = [p]) (hvotes : (s.layerAt lay).votes = [])
    (hphase : phaseOf p.loc = 3) (hdue : p.due + p.lag ≤ (s.layerAt lay).step) :
    ∃ u : State, landRegs lay s = landReg lay p u ∧ u.ctxs = s.ctxs ∧ (u.layerAt lay).step = (s.layerAt lay).step ∧
      (u.layerAt lay).pend = [] := by
  have hreg : regDue [p] (s.layerAt lay).step p = true := by simp [regDue, hphase, hdue]
  obtain ⟨u, hu, hctxs, hstep, hrest, _⟩ := landRegs_eq lay s
  refine ⟨u, ?_, hctxs, hstep, by simp [hrest, hpend, hreg]⟩
  have hno : dueVotes lay s = [] := by simp [dueVotes, hvotes]
  have hone : dueResults lay s = [p] := by simp [dueResults, hno, hpend, hreg]
  rw [hu, hno, hone]
  rfl

/-- One vote alone on its way, due before the step to come, lands its result and marks the poison it found. -/
theorem landRegs_of_single_vote {v : Vote} (hpend : (s.layerAt lay).pend = []) (hvotes : (s.layerAt lay).votes = [v])
    (hdue : v.due ≤ (s.layerAt lay).step) :
    ∃ u : State, landRegs lay s = markPoison lay (landReg lay v.pend u) v ∧ u.ctxs = s.ctxs ∧
      (u.layerAt lay).step = (s.layerAt lay).step ∧ (u.layerAt lay).votes = [] := by
  obtain ⟨u, hu, hctxs, hstep, _, hrest, _⟩ := landRegs_eq lay s
  refine ⟨u, ?_, hctxs, hstep, by simp [hrest, hvotes, hdue]⟩
  have hone : dueVotes lay s = [v] := by simp [dueVotes, hvotes, hdue]
  have hres : dueResults lay s = [v.pend] := by simp [dueResults, hone, hpend]
  rw [hu, hone, hres]
  rfl

theorem ctxAt_congr (h : t.ctxs = s.ctxs) (k : Nat) : t.ctxAt k = s.ctxAt k := congrArg (fun m => mapGet _ m k) h

theorem sameRegs_markPoison (v : Vote) (k : Nat) : SameRegs ((markPoison lay s v).ctxAt k) (s.ctxAt k) := by
  unfold markPoison
  split
  · exact sameRegs_setSpois ..
  · exact SameRegs.refl _

theorem markPoison_ctxAt_of_ne {v : Vote} {k : Nat} (hk : k ≠ ctxKey lay v.ctx) : (markPoison lay s v).ctxAt k = s.ctxAt k := by
  unfold markPoison
  split
  · exact setSpois_ctxAt_of_ne hk
  · rfl

theorem markPoison_layerAt (v : Vote) (l : Nat) : (markPoison lay s v).layerAt l = s.layerAt l := by
  unfold markPoison setSpois
  split
  · split <;> rfl
  · rfl

/-- The whole step of an idle layer that runs: what lands lands in the contexts as they stand, and the counter advances. -/
theorem exec_stepAdvance_of_idle (h : Idle lay s) (hrun : (s.layerAt lay).power = .run) (hfrozen : (s.layerAt lay).frozen = none)
    (hpend : ∀ p ∈ (s.layerAt lay).pend, phaseOf p.loc = 3) :
    ∃ u : State, exec (.stepAdvance lay) s = .next (clearDone lay (landRegs lay u)) ∧ u.ctxs = s.ctxs ∧
      (u.layerAt lay).step = (s.layerAt lay).step + 1 ∧ (u.layerAt lay).pend = (s.layerAt lay).pend ∧
      (u.layerAt lay).votes = (s.layerAt lay).votes := by
  obtain ⟨hfront, hctxs, hstep, hp, hv⟩ := h.stepFrontOnce
  obtain ⟨u, hu, huctxs, hustep, hup, huv⟩ := hfront.stepBack (by rw [hp]; exact hpend)
  refine ⟨u, ?_, huctxs.trans hctxs, by rw [hustep, hstep], hup.trans hp, huv.trans hv⟩
  change execStepAdvance lay s = _
  simp only [execStepAdvance, hrun, hfrozen, Option.isNone_none, and_self, if_true, hu]

end Sys2Proof.Proofs

open Sys2Proof Sys2Proof.Machine Sys2Proof.Claims Sys2Proof.Proofs

/-- Settles O54: the step of an idle layer lands the one result or the one vote, and `ResultsLand` says where. -/
theorem stepAdvanceLandsResults : Obligations.StepAdvanceLandsResults := by
  unfold Obligations.StepAdvanceLandsResults
  refine ⟨?_, ?_, fun s lay h => ?_⟩
  · intro s lay p n hrun hfrozen hpend hflight hvotes hcells hreqs hreleased hidle hloc hdue hlag
    have hphase : phaseOf p.loc = 3 := by rw [hloc]; rfl
    obtain ⟨u, hexec, hctxs, hstep, hp, hv⟩ := exec_stepAdvance_of_idle ⟨hflight, hcells, hreqs, hreleased, hidle⟩ hrun hfrozen
      (by rw [hpend]; simpa using hphase)
    obtain ⟨w, hland, hwctxs, hwstep, hwpend⟩ := landRegs_of_single_result (hp.trans hpend) (hv.trans hvotes) hphase
      (by rw [hstep]; omega)
    obtain ⟨hdctxs, hdqueue⟩ := clearDone_frame lay (landRegs lay u)
    have hqueue := sameQueue_landReg (lay := lay) (s := w) p lay
    have hctx : ∀ k, (clearDone lay (landRegs lay u)).ctxAt k = (landReg lay p w).ctxAt k := fun k => by
      rw [ctxAt_congr hdctxs, hland]
    have hold : ∀ k, w.ctxAt k = s.ctxAt k := ctxAt_congr (hwctxs.trans hctxs)
    obtain ⟨hs, _, _, _, _, _, _, _, _, _, _, _, hne⟩ := resultsLand lay p w
    obtain ⟨hval, hothers⟩ := hs n hloc
    refine ⟨_, hexec, ?_, ?_, by rw [hctx, hval], fun m hm => by rw [hctx, hothers m hm, hold], fun k hk => ?_⟩
    · rw [hdqueue.step, hland, hqueue.step, hwstep, hstep]
    · rw [hdqueue.pend, hland, hqueue.pend, hwpend]
    · rw [hctx, hne k hk (by simp [hloc]), hold]
  · intro s lay v hrun hfrozen hpend hflight hvotes hcells hreqs hreleased hidle hdue
    obtain ⟨u, hexec, hctxs, hstep, hp, hv⟩ := exec_stepAdvance_of_idle ⟨hflight, hcells, hreqs, hreleased, hidle⟩ hrun hfrozen
      (by simp [hpend])
    obtain ⟨w, hland, hwctxs, hwstep, hwvotes⟩ := landRegs_of_single_vote (hp.trans hpend) (hv.trans hvotes) (by rw [hstep]; omega)
    obtain ⟨hdctxs, hdqueue⟩ := clearDone_frame lay (landRegs lay u)
    have hqueue := sameQueue_landReg (lay := lay) (s := w) v.pend lay
    have hctx : ∀ k, (clearDone lay (landRegs lay u)).ctxAt k = (markPoison lay (landReg lay v.pend w) v).ctxAt k := fun k => by
      rw [ctxAt_congr hdctxs, hland]
    have hold : ∀ k, w.ctxAt k = s.ctxAt k := ctxAt_congr (hwctxs.trans hctxs)
    have hregs : ∀ k, SameRegs ((clearDone lay (landRegs lay u)).ctxAt k) ((landReg lay v.pend w).ctxAt k) := fun k => by
      rw [hctx]
      exact sameRegs_markPoison v k
    obtain ⟨hs, _, _, hk, _, _, _, _, _, _, _, _, hne⟩ := resultsLand lay v.pend w
    refine ⟨_, hexec, ?_, ?_, fun n hloc => ?_, fun n hloc hn => ?_, fun n hloc hkind hacc hkey => ?_, fun n k hloc hkne => ?_⟩
    · rw [hdqueue.step, hland, markPoison_layerAt, hqueue.step, hwstep, hstep]
    · rw [hdqueue.votes, hland, markPoison_layerAt, hqueue.votes, hwvotes]
    · obtain ⟨hval, hothers⟩ := hs n hloc
      refine ⟨?_, fun m hm => ?_⟩
      · rw [Ctx.sReg, (hregs _).s]
        exact hval.trans (BitVec.setWidth_ofNat_of_le (by decide) _)
      · rw [Ctx.sReg, (hregs _).s, ← hold]
        exact hothers m hm
    · obtain ⟨hval, hothers⟩ := hk n hloc hn
      refine ⟨?_, fun m hm hmn => ?_⟩
      · rw [(hregs _).k]
        exact hval.trans ((BitVec.getLsbD_ofNat 32768 v.acc 0).trans (by simp))
      · rw [(hregs _).k, ← hold]
        exact hothers m hm hmn
    · rw [hctx]
      simp [markPoison, hkind, hacc, setSpois, hkey]
    · have hnot : ∀ j, v.pend.loc ≠ .special j := fun j hj => by
        have hj' : v.loc = .special j := hj
        rcases hloc with h | h <;> rw [h] at hj' <;> cases hj'
      rw [hctx, markPoison_ctxAt_of_ne hkne, hne k hkne hnot, hold]
  · change execStepAdvance lay s = _
    have hno : ¬ ((s.layerAt lay).power = .run ∧ (s.layerAt lay).frozen.isNone = true) := by
      rintro ⟨hrun, hfrozen⟩
      rcases h with h | h
      · exact h hrun
      · exact h (Option.isNone_iff_eq_none.mp hfrozen)
    simp only [execStepAdvance, hno, if_false]

end


section
/-!
PROOF. What a slot reaches at its issue (R30, R31, R46): its own context, the results and requests on their way in its own layer,
and cell (0,0).
-/

namespace Sys2Proof.Proofs

open Sys2Proof.Machine Sys2Proof.Claims

/-! ### Reaching no further than the own task -/

/-- What of a layer no slot reaches at its issue. -/
def storesOf (l : Layer) :=
  (l.power, l.step, l.flags, l.eyelets, l.dmem, l.store, l.mprog, l.mdir, l.sctx, l.preq, l.tpend)

/-- From `s` to `t` nothing changed but what belongs to the context in hand of `s`. -/
structure OwnOnly (s t : State) : Prop where
  lay : t.lay = s.lay
  ctx : t.ctx = s.ctx
  outside : ∀ l, outside t l = outside s l
  ctxAt : ∀ k, k ≠ ctxKey s.lay s.ctx → t.ctxAt k = s.ctxAt k
  cellAt : ∀ k, k ≠ cellKey s.lay 0 → t.cellAt k = s.cellAt k
  ccAt : ∀ k, k ≠ ccKey s.lay 0 s.ctx → t.ccAt k = s.ccAt k

variable {s t u : State} {r : Run} {i : Instr}

theorem OwnOnly.refl (s : State) : OwnOnly s s := ⟨rfl, rfl, fun _ => rfl, fun _ _ => rfl, fun _ _ => rfl, fun _ _ => rfl⟩

theorem OwnOnly.trans (h : OwnOnly s t) (h' : OwnOnly t u) : OwnOnly s u := by
  obtain ⟨hlay, hctx, hout, hctxs, hcells, hccs⟩ := h'
  rw [h.lay, h.ctx] at hctxs hccs
  rw [h.lay] at hcells
  exact ⟨hlay.trans h.lay, hctx.trans h.ctx, fun l => (hout l).trans (h.outside l),
    fun k hk => (hctxs k hk).trans (h.ctxAt k hk), fun k hk => (hcells k hk).trans (h.cellAt k hk),
    fun k hk => (hccs k hk).trans (h.ccAt k hk)⟩

/-- A fold of steps that each reach no further. -/
theorem ownOnly_foldl {β : Type} {f : State → β → State} (hf : ∀ u x, OwnOnly u (f u x)) (l : List β) :
    ∀ s : State, OwnOnly s (l.foldl f s) := by
  induction l with
  | nil => exact OwnOnly.refl
  | cons x l ih => exact fun s => (hf s x).trans (ih _)

theorem ownOnly_ite {c : Prop} [Decidable c] {a b : State} (ha : OwnOnly s a) (hb : OwnOnly s b) :
    OwnOnly s (if c then a else b) := by
  split
  · exact ha
  · exact hb

/-- A change of a layer that keeps what no slot reaches. -/
theorem ownOnly_updLayer {f : Layer → Layer} (hf : ∀ l, storesOf (f l) = storesOf l) (k : Nat) (s : State) :
    OwnOnly s (s.updLayer k f) := by
  refine ⟨rfl, rfl, fun l => ?_, fun _ _ => rfl, fun _ _ => rfl, fun _ _ => rfl⟩
  have hl : storesOf ((s.updLayer k f).layerAt l) = storesOf (s.layerAt l) := by
    by_cases h : k = l
    · subst h
      rw [State.updLayer_layerAt_same, hf]
    · rw [State.updLayer_layerAt_ne _ _ h]
  exact congrArg (fun x => (s.mem, s.tags, s.released, s.saved, s.towers, x)) hl

/-- A change of the context in hand. -/
theorem ownOnly_updMe (f : Ctx → Ctx) (s : State) : OwnOnly s (s.updMe f) :=
  ⟨rfl, rfl, fun _ => rfl, fun _ hk => State.updCtx_ctxAt_ne _ _ (Ne.symm hk), fun _ _ => rfl, fun _ _ => rfl⟩

theorem ownOnly_pushPend (k : Nat) (p : Pend) (s : State) : OwnOnly s (s.pushPend k p) :=
  ownOnly_updLayer (f := fun l => { l with pend := l.pend ++ [p] }) (fun _ => rfl) k s

theorem ownOnly_land (loc : Loc) (n : Nat) (mask val : Lanes) (s : State) : OwnOnly s (land loc n mask val s) :=
  ownOnly_pushPend ..

theorem ownOnly_pushReq (q : Req) (s : State) : OwnOnly s (pushReq q s) :=
  ⟨rfl, rfl, fun _ => rfl, fun _ _ => rfl, fun _ _ => rfl, fun _ _ => rfl⟩

theorem ownOnly_latch (l : Latch) (s : State) : OwnOnly s { s with latch := l } :=
  ⟨rfl, rfl, fun _ => rfl, fun _ _ => rfl, fun _ _ => rfl, fun _ _ => rfl⟩

theorem ownOnly_weltAt (id : Nat) (e : Effect) (s : State) : OwnOnly s (weltAt id e s) := ownOnly_updMe ..

theorem ownOnly_welt (e : Effect) (s : State) : OwnOnly s (welt e s) :=
  ⟨rfl, rfl, fun _ => rfl, fun _ hk => State.updCtx_ctxAt_ne _ _ (Ne.symm hk), fun _ _ => rfl, fun _ _ => rfl⟩

theorem ownOnly_ctrAdd (n : Nat) (s : State) : OwnOnly s (ctrAdd n s) := ownOnly_updMe ..

theorem ownOnly_addOut (eff n : Nat) (s : State) : OwnOnly s (addOut eff n s) := ownOnly_updMe ..

theorem ownOnly_counted (ctr : Option Nat) (s : State) : OwnOnly s (counted ctr s) := by
  cases ctr with
  | none => exact OwnOnly.refl s
  | some n => exact ownOnly_ctrAdd n s

theorem storesOf_keepHolds (cs : List (Nat × Wait)) (l : Layer) : storesOf (l.keepHolds cs) = storesOf l := by
  unfold Layer.keepHolds
  split <;> rfl

theorem storesOf_hold (now c : Nat) (w : Wait) (l : Layer) : storesOf (l.hold now c w) = storesOf l := by
  unfold Layer.hold
  split
  · rfl
  · split <;> rfl

/-- A trap of the context in hand. -/
theorem ownOnly_takeTrap (tr : TrapInfo) (s : State) : OwnOnly s (takeTrap s.lay s.ctx tr s) := by
  have hme : ∀ f : Ctx → Ctx, OwnOnly s (s.updCtx (ctxKey s.lay s.ctx) f) := fun f => ownOnly_updMe f s
  unfold takeTrap
  dsimp only
  split
  · split
    · exact hme _
    · exact (hme _).trans (ownOnly_updLayer (fun l => storesOf_keepHolds _ l) _ _)
  · split
    · split
      · exact hme _
      · exact hme _
    · split
      · exact hme _
      · exact hme _
  all_goals (try exact hme _)
  all_goals exact OwnOnly.refl s

theorem ownOnly_trapHere (tr : TrapInfo) (s : State) : OwnOnly s (trapHere tr s) :=
  (ownOnly_latch .empty s).trans (ownOnly_takeTrap tr _)

/-! ### What a cell does at the step of its bundle's issue -/

/-- Cell (0,0) executes a slot of the context in hand. -/
structure OwnRun (r : Run) (s : State) : Prop where
  cell : r.cell = 0
  ctx : r.f.ctx = s.ctx

theorem ownOnly_raise (h : OwnRun r s) (cause : Cause) (sub aux0 aux1 : Nat) : OwnOnly s (r.raise cause sub s aux0 aux1) := by
  rw [Run.raise, h.ctx]
  exact ownOnly_takeTrap ..

theorem ownOnly_runLandLag (r : Run) (lag : Nat) (loc : Loc) (n : Nat) (mask val : Lanes) (s : State) :
    OwnOnly s (r.landLag lag loc n mask val s) := ownOnly_pushPend ..

theorem ownOnly_runLand (r : Run) (loc : Loc) (n : Nat) (mask val : Lanes) (s : State) : OwnOnly s (r.land loc n mask val s) :=
  ownOnly_pushPend ..

theorem ownOnly_landV (r : Run) (n lat : Nat) (act : Row) (v : Lanes) (s : State) : OwnOnly s (r.landV n lat act v s) :=
  ownOnly_pushPend ..

theorem ownOnly_landP (r : Run) (n lat : Nat) (act v : Row) (s : State) : OwnOnly s (r.landP n lat act v s) :=
  ownOnly_pushPend ..

theorem ownOnly_landX (r : Run) (n lat : Nat) (v : Word) (s : State) : OwnOnly s (r.landX n lat v s) := ownOnly_pushPend ..

theorem ownOnly_landPois (r : Run) (lat : Nat) (any : Bool) (s : State) : OwnOnly s (r.landPois lat any s) :=
  ownOnly_ite (ownOnly_runLand ..) (OwnOnly.refl s)

theorem ownOnly_landLoadPois (r : Run) (lat : Nat) (act pois : Row) (s : State) : OwnOnly s (r.landLoadPois lat act pois s) :=
  ownOnly_ite (OwnOnly.refl s) (ownOnly_runLand ..)

theorem ownOnly_landRow (r : Run) (lat k row : Nat) (en : Word) (w : Row) (s : State) :
    OwnOnly s (r.landRow lat k row en w s) := by
  unfold Run.landRow
  split
  · exact ownOnly_ite (OwnOnly.refl s) (ownOnly_runLand ..)
  · exact OwnOnly.refl s

theorem ownOnly_landBytes (r : Run) (lat k row : Nat) (be : Nat → Bool) (w : Row) (s : State) :
    OwnOnly s (r.landBytes lat k row be w s) := by
  unfold Run.landBytes
  split
  · exact ownOnly_runLand ..
  · exact OwnOnly.refl s

theorem ownOnly_landScale (r : Run) (lat k row j e : Nat) (s : State) : OwnOnly s (r.landScale lat k row j e s) :=
  ownOnly_landBytes ..

theorem ownOnly_sendWords (r : Run) (d : Nat) (en : Word) (w : Row) (s : State) : OwnOnly s (r.sendWords d en w s) := by
  unfold Run.sendWords
  split
  · exact ownOnly_ite (OwnOnly.refl s) ((ownOnly_runLand ..).trans (ownOnly_runLand ..))
  · exact OwnOnly.refl s

theorem ownOnly_storeLine (r : Run) (lat : Nat) (a : NetAddr) (em : BitVec 4) (w : Lanes) (wen : Row) (s : State) :
    OwnOnly s (r.storeLine lat a em w wen s) := by
  refine ownOnly_foldl (fun u k => ?_) _ s
  dsimp only
  split
  · exact ownOnly_sendWords ..
  · exact ownOnly_landRow ..

theorem ownOnly_contribute (r : Run) (v : Nat) (s : State) : OwnOnly s (contribute r v s) :=
  ownOnly_updLayer (f := fun l => { l with votes := l.votes.map _ }) (fun _ => rfl) _ s

theorem ownOnly_startVote (kind : Nat) (loc : Loc) (s : State) : OwnOnly s (startVote kind loc s) :=
  ownOnly_updLayer (f := fun l => { l with votes := l.votes ++ [_] }) (fun _ => rfl) _ s

theorem ownOnly_updCell (h : OwnRun r s) (f : Cell → Cell) : OwnOnly s (s.updCell (cellKey s.lay r.cell) f) := by
  rw [h.cell]
  exact ⟨rfl, rfl, fun _ => rfl, fun _ _ => rfl, fun _ hk => State.updCell_cellAt_ne _ _ (Ne.symm hk), fun _ _ => rfl⟩

theorem ownOnly_updCc (h : OwnRun r s) (f : CellCtx → CellCtx) : OwnOnly s (s.updCc (r.key s) f) := by
  rw [Run.key, h.cell, h.ctx]
  exact ⟨rfl, rfl, fun _ => rfl, fun _ _ => rfl, fun _ _ => rfl, fun _ hk => State.updCc_ccAt_ne _ _ (Ne.symm hk)⟩

theorem ownOnly_loadThrough (h : OwnRun r s) (d : BitVec 7) (entry : Option Nat) (em : BitVec 4) (xa : BitVec 3) :
    OwnOnly s (loadThrough d entry em xa r s) := by
  unfold loadThrough
  dsimp only
  refine ownOnly_ite (ownOnly_raise h ..) ?_
  split
  · exact (ownOnly_runLandLag ..).trans (ownOnly_landLoadPois ..)
  · split
    · exact ownOnly_raise h ..
    · exact (ownOnly_runLandLag ..).trans (ownOnly_landLoadPois ..)

theorem ownOnly_storeThrough (h : OwnRun r s) (v : BitVec 7) (entry : Option Nat) (em : BitVec 4) (xa : BitVec 3) :
    OwnOnly s (storeThrough v entry em xa r s) := by
  unfold storeThrough
  dsimp only
  refine ownOnly_ite (ownOnly_raise h ..) (ownOnly_ite (ownOnly_raise h ..) ?_)
  split
  · exact ownOnly_storeLine ..
  · split
    · exact ownOnly_raise h ..
    · exact ownOnly_storeLine ..

theorem ownOnly_cellVldDec (h : OwnRun r s) (d : BitVec 7) (xa : BitVec 3) : OwnOnly s (cellVldDec d xa r s) :=
  ownOnly_ite (ownOnly_raise h ..) ((ownOnly_runLandLag ..).trans (ownOnly_runLandLag ..))

theorem ownOnly_cellVstEnc (h : OwnRun r s) (v : BitVec 7) (xa : BitVec 3) : OwnOnly s (cellVstEnc v xa r s) := by
  refine ownOnly_ite (ownOnly_raise h ..) ((ownOnly_foldl (fun u k => ?_) _ s).trans (ownOnly_foldl (fun u k => ?_) _ _))
  · exact ownOnly_ite (ownOnly_landBytes ..) (ownOnly_landRow ..)
  · exact ownOnly_ite (OwnOnly.refl u) (ownOnly_foldl (fun u j => ownOnly_ite (ownOnly_landBytes ..) (OwnOnly.refl u)) _ u)

theorem ownOnly_cellBcopy (h : OwnRun r s) (rs : Bool) (rl : BitVec 6) (ws : Bool) (wl : BitVec 6) (xd xs : BitVec 3) :
    OwnOnly s (cellBcopy rs rl ws wl xd xs r s) := by
  refine ownOnly_ite (ownOnly_raise h ..) ?_
  generalize (if rs = true then some Last.none else r.lastAt s rl.toNat .read) = le
  generalize (if ws = true then some Last.none else r.lastAt s wl.toNat .write) = we
  cases le with
  | none => exact ownOnly_raise h ..
  | some l =>
    cases we with
    | none => exact ownOnly_raise h ..
    | some w =>
      refine ownOnly_ite (ownOnly_raise h ..) ?_
      have hscales : ∀ (l : List ((Nat × Nat) × Nat × Bool)) (u : State), OwnOnly u (l.foldl (fun t e =>
          if e.2.2 then r.landScale 9 e.1.1 ((r.addr s xd).row (r.addr s xd).base e.1.1) e.1.2 e.2.1 t else t) u) :=
        fun l => ownOnly_foldl (fun u e => ownOnly_ite (ownOnly_landScale ..) (OwnOnly.refl u)) l
      refine ownOnly_ite (OwnOnly.trans ?_ (ownOnly_runLand ..)) ?_
      all_goals
        refine OwnOnly.trans ?_ (hscales _ _)
        exact ownOnly_storeLine ..

theorem ownOnly_cellVperm (h : OwnRun r s) (d a : BitVec 7) (le : BitVec 6) : OwnOnly s (cellVperm d a le r s) := by
  unfold cellVperm
  split
  · exact ownOnly_landV ..
  · exact ownOnly_raise h ..

theorem ownOnly_cellEsend (h : OwnRun r s) (dm : BitVec 4) (a : BitVec 7) (lg : BitVec 5) : OwnOnly s (cellEsend dm a lg r s) :=
  ownOnly_ite (ownOnly_raise h ..)
    (ownOnly_foldl (fun u _ => ownOnly_ite (ownOnly_sendWords ..) (OwnOnly.refl u)) _ s)

theorem ownOnly_cellHalo (h : OwnRun r s) (dm : BitVec 4) (xa : BitVec 3) : OwnOnly s (cellHalo dm xa r s) :=
  ownOnly_ite (ownOnly_raise h ..) (ownOnly_ite (ownOnly_raise h ..) (ownOnly_updCell h _))

theorem ownOnly_cellCvt (sat : Bool) (f : BitVec 4) (d a : BitVec 7) (rm : BitVec 3) (c : BitVec 4) (r : Run) (s : State) :
    OwnOnly s (cellCvt sat f d a rm c r s) :=
  (ownOnly_foldl (fun u _ => ownOnly_landV r _ _ _ _ u) _ s).trans (ownOnly_landPois ..)

theorem ownOnly_cellVquant (d a : BitVec 7) (rm : BitVec 3) (n : BitVec 4) (r : Run) (s : State) :
    OwnOnly s (cellVquant d a rm n r s) :=
  ((ownOnly_landV ..).trans (ownOnly_runLand ..)).trans (ownOnly_landPois ..)

theorem ownOnly_cellTopk (d a : BitVec 7) (xk : BitVec 4) (dir : Bool) (ty : BitVec 2) (r : Run) (s : State) :
    OwnOnly s (cellTopk d a xk dir ty r s) := (ownOnly_landV ..).trans (ownOnly_landV ..)

theorem ownOnly_cellSort (d a : BitVec 7) (g : BitVec 3) (dir : Bool) (ty : BitVec 2) (r : Run) (s : State) :
    OwnOnly s (cellSort d a g dir ty r s) := (ownOnly_landV ..).trans (ownOnly_landV ..)

theorem ownOnly_cellCompact (d a : BitVec 7) (xc : BitVec 5) (r : Run) (s : State) : OwnOnly s (cellCompact d a xc r s) := by
  unfold cellCompact
  exact (ownOnly_landV ..).trans (ownOnly_landX ..)

theorem ownOnly_cellHist (d a : BitVec 7) (acc : Bool) (r : Run) (s : State) : OwnOnly s (cellHist d a acc r s) := by
  unfold cellHist
  exact ownOnly_ite ((ownOnly_landV ..).trans (ownOnly_runLand ..)) (ownOnly_landV ..)

theorem ownOnly_cellAwl (scatter : Bool) (le : BitVec 6) (a : BitVec 7) (pen : Bool) (pp : BitVec 4) (r : Run) (s : State) :
    OwnOnly s (cellAwl scatter le a pen pp r s) := by
  unfold cellAwl
  exact ownOnly_ite ((ownOnly_pushPend ..).trans (ownOnly_runLand ..)) (ownOnly_pushPend ..)

theorem ownOnly_amovFrom (h : OwnRun r s) (clr : Bool) (d : BitVec 7) (t : BitVec 6) (xen : Bool) (xt : BitVec 3) :
    OwnOnly s (amovFrom clr d t xen xt r s) := by
  unfold amovFrom
  split
  · exact ownOnly_raise h ..
  · exact ownOnly_ite ((ownOnly_landV ..).trans (ownOnly_runLand ..)) (ownOnly_landV ..)

theorem ownOnly_cellAmovTo (h : OwnRun r s) (d : BitVec 7) (t : BitVec 6) (xen : Bool) (xt : BitVec 3) :
    OwnOnly s (cellAmovTo d t xen xt r s) := by
  unfold cellAmovTo
  split
  · exact ownOnly_raise h ..
  · exact ownOnly_runLand ..

theorem ownOnly_cellAclr (t cnt : BitVec 6) (r : Run) (s : State) : OwnOnly s (cellAclr t cnt r s) := by
  refine ownOnly_foldl (fun u i => ?_) _ s
  split
  · exact ownOnly_runLand ..
  · exact OwnOnly.refl u

theorem ownOnly_cellAtopk (h : OwnRun r s) (wstr : Bool) (le t : BitVec 6) (xk : BitVec 4) (xd : BitVec 3) :
    OwnOnly s (cellAtopk wstr le t xk xd r s) := by
  refine ownOnly_ite (ownOnly_raise h ..) (ownOnly_ite (ownOnly_raise h ..) ?_)
  generalize (if wstr = true then some Last.none else r.lastAt s le.toNat .write) = last
  cases last with
  | none => exact ownOnly_raise h ..
  | some l => exact ownOnly_storeLine ..

theorem ownOnly_copyCell {f : Nat → Nat → Nat → State → State} (h : OwnRun r s) (hf : ∀ k row off u, OwnOnly u (f k row off u))
    (xa : BitVec 3) (xm : BitVec 5) (ln : BitVec 2) : OwnOnly s (copyCell xa xm ln f r s) :=
  ownOnly_ite (ownOnly_raise h ..) (ownOnly_foldl (fun u (w : Nat × Nat × Nat) => hf w.1 w.2.1 w.2.2 u) _ s)

theorem ownOnly_cellAld (h : OwnRun r s) (g : BitVec 4) (xa : BitVec 3) (xm : BitVec 5) (ln : BitVec 2) (n : BitVec 5) :
    OwnOnly s (cellAld g xa xm ln n r s) := by
  refine ownOnly_copyCell h (fun k row off u => ?_) xa xm ln
  split
  · exact OwnOnly.refl u
  · exact ownOnly_pushReq ..

theorem ownOnly_atomicCell (h : OwnRun r s) (op ty : Nat) (cas returns : Bool) (ctr : Option Nat) (xm : BitVec 3) (d : BitVec 7) :
    OwnOnly s (atomicCell op ty cas returns ctr xm d r s) :=
  ownOnly_ite (ownOnly_raise h ..) (ownOnly_ite (OwnOnly.refl s) (ownOnly_pushReq ..))

theorem ownOnly_cellSbst (h : OwnRun r s) (v : BitVec 7) (lg : BitVec 5) (cnt xo : BitVec 3) :
    OwnOnly s (cellSbst v lg cnt xo r s) :=
  ownOnly_ite (ownOnly_raise h ..) (ownOnly_updLayer (f := fun l => { l with beats := l.beats ++ _ }) (fun _ => rfl) _ s)

theorem ownOnly_cellSbld (h : OwnRun r s) (v : BitVec 7) (lg : BitVec 5) (cnt xo : BitVec 3) :
    OwnOnly s (cellSbld v lg cnt xo r s) :=
  ownOnly_ite (ownOnly_raise h ..) (ownOnly_landV ..)

theorem ownOnly_loadLine {k : Nat → Lanes → State → State} (h : OwnRun r s) (hk : ∀ q x, OwnOnly s (k q x s))
    (entry : Option Nat) (xa : BitVec 3) (limit : Nat) : OwnOnly s (loadLine entry xa limit k r s) := by
  refine ownOnly_ite (ownOnly_raise h ..) ?_
  split
  · exact hk ..
  · split
    · exact ownOnly_raise h ..
    · exact hk ..

theorem ownOnly_cellMldw (h : OwnRun r s) (pl : BitVec 2) (fmt : BitVec 3) (str : Bool) (le : BitVec 6) (xa : BitVec 3) :
    OwnOnly s (cellMldw pl fmt str le xa r s) := by
  unfold cellMldw
  exact ownOnly_loadLine h (fun q x => (ownOnly_runLand r _ _ _ x s).trans (ownOnly_runLand ..)) _ _ _

theorem ownOnly_cellMldwScl (h : OwnRun r s) (pl : BitVec 2) (str : Bool) (le : BitVec 6) (xa : BitVec 3) :
    OwnOnly s (cellMldwScl pl str le xa r s) := by
  unfold cellMldwScl
  exact ownOnly_loadLine h (fun q x => ownOnly_runLand ..) _ _ _

theorem ownOnly_cellMcall (h : OwnRun r s) (n : BitVec 5) (bc : BitVec 14) : OwnOnly s (cellMcall n bc r s) := by
  unfold cellMcall
  exact (ownOnly_updCc h _).trans (ownOnly_updCell (s := s.updCc (r.key s) _) ⟨h.cell, h.ctx⟩ _)

theorem ownOnly_cellPvoteClr (h : OwnRun r s) : OwnOnly s (cellPvoteClr r s) := by
  unfold cellPvoteClr
  rw [h.ctx]
  exact (ownOnly_contribute r _ s).trans (ownOnly_updMe _ (contribute r _ s))

/-- No slot reaches further in the cell that executes it at t. -/
theorem ownOnly_cellExec (h : OwnRun r s) (i : Instr) : OwnOnly s (cellExec i r s) := by
  cases i
  all_goals simp only [cellExec, cellVld, cellVldStraight, cellVst, cellVstStraight, cellVldx, cellVstx, cellAwlGather,
    cellAwlScatter, cellAmov, cellAmovClr, cellVcvt, cellVcvts]
  case vany | vall | vcount | pvote => exact ownOnly_contribute ..
  case pvoteClr => exact ownOnly_cellPvoteClr h
  case xadd | xsub | xmul | xand | xior | xeor | xshl | xshr | xsar | xmin | xmax | xaddi | xli => exact ownOnly_landX ..
  case vld | vldStraight => exact ownOnly_loadThrough h ..
  case vldDec => exact ownOnly_cellVldDec h ..
  case vst | vstStraight => exact ownOnly_storeThrough h ..
  case vstEnc => exact ownOnly_cellVstEnc h ..
  case vldx => exact ownOnly_ite (ownOnly_raise h ..) (ownOnly_loadThrough h ..)
  case vstx => exact ownOnly_ite (ownOnly_raise h ..) (ownOnly_storeThrough h ..)
  case bcopy => exact ownOnly_cellBcopy h ..
  case vperm => exact ownOnly_cellVperm h ..
  case llast => exact ownOnly_pushPend ..
  case esend => exact ownOnly_cellEsend h ..
  case erecv => exact ownOnly_runLand ..
  case halo => exact ownOnly_cellHalo h ..
  case vadd | vsub | vadds | vsubs | vmul | vmulh | vmin | vmax | vand | vior | veor | vshl | vshr | vabs | vsel =>
    exact ownOnly_landV ..
  case vcmpeq | vcmplt | vfcmpeq | vfcmplt | vfcmple => exact ownOnly_landP ..
  case vrng | vdeq => exact ownOnly_foldl (fun u _ => ownOnly_landV r _ _ _ _ u) _ s
  case vfadd | vfsub | vfmul | vfma | vfnma | vfmin | vfmax | vfabs | vfneg | vfrcp | vfrsq | vfexp2 | vflog2 | vfsqrt =>
    exact ownOnly_landV ..
  case vcvt | vcvts => exact ownOnly_cellCvt ..
  case vquant => exact ownOnly_cellVquant ..
  case pand | pior | peor | pandn | pnot | pall | pnone => exact ownOnly_landP ..
  case scan | segscan | reduce => exact ownOnly_landV ..
  case topk => exact ownOnly_cellTopk ..
  case sort => exact ownOnly_cellSort ..
  case compact => exact ownOnly_cellCompact ..
  case hist => exact ownOnly_cellHist ..
  case awlGather | awlScatter => exact ownOnly_cellAwl ..
  case mpar | msel => exact ownOnly_runLand ..
  case mcall => exact ownOnly_cellMcall h ..
  case mldw => exact ownOnly_cellMldw h ..
  case mldwScl => exact ownOnly_cellMldwScl h ..
  case amov | amovClr => exact ownOnly_amovFrom h ..
  case amovTo => exact ownOnly_cellAmovTo h ..
  case aclr => exact ownOnly_cellAclr ..
  case atopk => exact ownOnly_cellAtopk h ..
  case tld | tst | ast | ntst => exact ownOnly_copyCell h (fun _ _ _ _ => ownOnly_pushReq ..) _ _ _
  case ald => exact ownOnly_cellAld h ..
  case amo | cas | red => exact ownOnly_atomicCell h ..
  case sbst => exact ownOnly_cellSbst h ..
  case sbld => exact ownOnly_cellSbld h ..
  all_goals exact OwnOnly.refl s

/-! ### What a slot reaches at its issue -/

theorem ownOnly_of_issue {k : State → State} (hk : OwnOnly s (k s)) (h : issue i s k = .next t) : OwnOnly s t := by
  unfold issue issueWith at h
  split at h
  · cases h
    exact ownOnly_trapHere ..
  · split at h
    · cases h
      exact OwnOnly.refl s
    · cases h
      exact hk

theorem ownOnly_joinBundle (i : Instr) (s : State) : OwnOnly s (joinBundle i s) :=
  ⟨rfl, rfl, fun _ => rfl, fun _ hk => State.updCtx_ctxAt_ne _ _ (Ne.symm hk), fun _ _ => rfl, fun _ _ => rfl⟩

theorem ownOnly_of_issueBoth {pre : Nat → State → State} {f : Run → State → State} (hpre : ∀ n u, OwnOnly u (pre n u))
    (hf : ∀ r u, cellExec i r u = f r u) (h : issueBoth i pre f s = .next t) : OwnOnly s t := by
  refine ownOnly_of_issue ?_ h
  have hjoined := (ownOnly_joinBundle i s).trans (hpre s.nextId (joinBundle i s))
  refine ownOnly_ite (hjoined.trans ?_) hjoined
  rw [← hf]
  exact ownOnly_cellExec ⟨rfl, rfl⟩ i

theorem ownOnly_freezeHere (w : Wait) (s : State) : OwnOnly s (freezeHere w s) :=
  ((ownOnly_updLayer (fun l => storesOf_hold _ _ w l) s.lay s).trans (ownOnly_updMe _ _)).trans (ownOnly_latch .empty _)

theorem ownOnly_waitHere (i : Instr) (s : State) : OwnOnly s (waitHere i id s) := by
  unfold waitHere
  split
  · exact OwnOnly.refl s
  · exact ownOnly_freezeHere ..
  · exact ownOnly_trapHere ..

theorem ownOnly_transfer (target : DWord) (ready : Nat) (s : State) : OwnOnly s (transfer target ready s) := ownOnly_updMe ..

theorem ownOnly_transferIf (cond : Bool) (b : BitVec 2) (s : State) : OwnOnly s (transferIf cond b s) :=
  ownOnly_ite (ownOnly_transfer ..) (OwnOnly.refl s)

theorem ownOnly_startLoop (lv : BitVec 2) (off : BitVec 14) (n : Nat) (s : State) : OwnOnly s (startLoop lv off n s) :=
  ownOnly_ite (ownOnly_latch ..) (ownOnly_updMe ..)

theorem ownOnly_rememberSpecial (n : Nat) (s : State) : OwnOnly s (rememberSpecial n s) :=
  ownOnly_ite (ownOnly_updMe ..) (OwnOnly.refl s)

/-- The slots that act at the sequencer at t, other than by one result or one welt entry. -/
def actsAtSequencer : Instr → Bool
  | .nop | .bctl .. | .limm _ | .yield | .mtsr .. | .bxfer .. | .bpois .. | .call .. | .ret _ | .loopTable .. | .loopRegister ..
  | .flwait .. | .cwait .. | .cst .. | .cld .. | .epop .. => true
  | _ => false

theorem ownOnly_of_actsAtSequencer (hi : actsAtSequencer i = true) (hpop : ∀ d e, i ≠ .epop d e) (h : exec i s = .next t) :
    OwnOnly s t := by
  cases i
  case nop =>
    simp only [exec, execNop] at h
    exact ownOnly_of_issue (k := id) (OwnOnly.refl s) h
  case bctl | limm =>
    simp only [exec, execBctl, execLimm] at h
    refine ownOnly_of_issue ?_ h
    exact ownOnly_latch ..
  case yield =>
    simp only [exec, execYield] at h
    refine ownOnly_of_issue ?_ h
    exact (ownOnly_updLayer (f := fun l => { l with switch := true }) (fun _ => rfl) s.lay s).trans (ownOnly_updMe _ _)
  case mtsr =>
    simp only [exec, execMtsr] at h
    refine ownOnly_of_issue ?_ h
    exact (ownOnly_rememberSpecial _ s).trans (ownOnly_land ..)
  case bxfer | bpois =>
    simp only [exec, execBxfer, execBpois] at h
    refine ownOnly_of_issue ?_ h
    exact ownOnly_transferIf ..
  case call =>
    simp only [exec, execCall] at h
    refine ownOnly_of_issue ?_ h
    exact ((ownOnly_land ..).trans (ownOnly_transferIf true _ _)).trans (ownOnly_welt ..)
  case ret =>
    simp only [exec, execRet] at h
    refine ownOnly_of_issue ?_ h
    exact (ownOnly_welt ..).trans (ownOnly_transfer ..)
  case loopTable | loopRegister =>
    simp only [exec, execLoopTable, execLoopRegister] at h
    refine ownOnly_of_issue ?_ h
    exact ownOnly_startLoop ..
  case flwait | cwait =>
    simp only [exec, execFlwait, execCwait] at h
    refine ownOnly_of_issue ?_ h
    exact ownOnly_waitHere ..
  case cst =>
    simp only [exec, execCst] at h
    refine ownOnly_of_issue ?_ h
    exact (ownOnly_welt ..).trans (ownOnly_pushReq ..)
  case cld =>
    simp only [exec, execCld] at h
    refine ownOnly_of_issue ?_ h
    exact (ownOnly_ctrAdd _ s).trans (ownOnly_pushReq ..)
  case epop d e => exact absurd rfl (hpop d e)
  all_goals cases hi

/-- The slots that cells execute and the sequencer has a part of. -/
def hasSequencerPart : Instr → Bool
  | .vany .. | .vall .. | .vcount .. | .pvote _ | .pvoteClr _ | .tst .. | .ntst .. | .red .. | .sbst .. | .ald .. | .ast ..
  | .amo .. | .cas .. | .mcall .. => true
  | _ => false

theorem exists_exec_eq_issueCell (hi : (isCellSlot i && !hasSequencerPart i) = true) :
    ∃ f, (∀ s, exec i s = issueCell i f s) ∧ ∀ r u, cellExec i r u = f r u := by
  cases i <;> cases hi <;> exact ⟨_, fun _ => rfl, fun _ _ => rfl⟩

/-- A slot that cells execute has a part of its own at the sequencer, if any, that reaches no further than its task. -/
theorem exists_exec_eq_issueBoth (hi : isCellSlot i = true) :
    ∃ pre f, (∀ s, exec i s = issueBoth i pre f s) ∧ (∀ r u, cellExec i r u = f r u) ∧ ∀ n u, OwnOnly u (pre n u) := by
  cases i
  case vany k p =>
    exact ⟨fun _ => startVote 0 (.k k.toNat), _, fun _ => rfl, fun _ _ => rfl, fun _ _ => ownOnly_startVote ..⟩
  case vall k p =>
    exact ⟨fun _ => startVote 1 (.k k.toNat), _, fun _ => rfl, fun _ _ => rfl, fun _ _ => ownOnly_startVote ..⟩
  case vcount d p =>
    exact ⟨fun _ => startVote 2 (.s d.toNat), _, fun _ => rfl, fun _ _ => rfl, fun _ _ => ownOnly_startVote ..⟩
  case pvote k =>
    exact ⟨fun _ => startVote 3 (.k k.toNat), _, fun _ => rfl, fun _ _ => rfl, fun _ _ => ownOnly_startVote ..⟩
  case pvoteClr k =>
    exact ⟨fun _ => startVote 3 (.k k.toNat), _, fun _ => rfl, fun _ _ => rfl, fun _ _ => ownOnly_startVote ..⟩
  case tst g xa xm ln =>
    exact ⟨fun eff => weltAt eff (.copyStore false none), _, fun _ => rfl, fun _ _ => rfl, fun _ _ => ownOnly_weltAt ..⟩
  case ntst g xa xm ln =>
    exact ⟨fun eff => weltAt eff (.copyStore true none), _, fun _ => rfl, fun _ _ => rfl, fun _ _ => ownOnly_weltAt ..⟩
  case red g xm d op ty =>
    exact ⟨fun eff => weltAt eff (.atomic none), _, fun _ => rfl, fun _ _ => rfl, fun _ _ => ownOnly_weltAt ..⟩
  case sbst v lg cnt xo =>
    exact ⟨fun eff => weltAt eff .stackStore, _, fun _ => rfl, fun _ _ => rfl, fun _ _ => ownOnly_weltAt ..⟩
  case ald g xa xm ln n =>
    exact ⟨fun eff s => addOut eff n.toNat (ctrAdd n.toNat s), _, fun _ => rfl, fun _ _ => rfl,
      fun _ u => (ownOnly_ctrAdd _ u).trans (ownOnly_addOut ..)⟩
  case ast g xa xm ln n =>
    exact ⟨fun eff s => weltAt eff (.copyStore false (some n.toNat)) (ctrAdd n.toNat s), _, fun _ => rfl, fun _ _ => rfl,
      fun _ u => (ownOnly_ctrAdd _ u).trans (ownOnly_weltAt ..)⟩
  case amo g xm d op ty n =>
    exact ⟨fun eff s => addOut eff n.toNat (weltAt eff (.atomic (some n.toNat)) (ctrAdd n.toNat s)), _, fun _ => rfl, fun _ _ => rfl,
      fun _ u => ((ownOnly_ctrAdd _ u).trans (ownOnly_weltAt ..)).trans (ownOnly_addOut ..)⟩
  case cas g xm d n =>
    exact ⟨fun eff s => addOut eff n.toNat (weltAt eff (.atomic (some n.toNat)) (ctrAdd n.toNat s)), _, fun _ => rfl, fun _ _ => rfl,
      fun _ u => ((ownOnly_ctrAdd _ u).trans (ownOnly_weltAt ..)).trans (ownOnly_addOut ..)⟩
  case mcall n bc =>
    exact ⟨fun _ s => s.updMe (fun c => { c with
      mcallUntil := s.now + immNat s.latch.limm 14 bc.toNat, mcallRegion := c.regionId }), _, fun _ => rfl, fun _ _ => rfl,
      fun _ u => ownOnly_updMe _ u⟩
  all_goals
    obtain ⟨f, hexec, hcell⟩ := exists_exec_eq_issueCell (by rw [hi]; rfl)
    exact ⟨fun _ s => s, f, hexec, hcell, fun _ u => OwnOnly.refl u⟩

/-- A slot is one that cells execute, lands a result, enters the welt, or acts at the sequencer otherwise. -/
theorem slot_cases (i : Instr) :
    (!isSlot i || isCellSlot i || (landsIn i).isSome || (waitsInWelt i).isSome || actsAtSequencer i) = true := by
  cases i <;> rfl

/-- A slot's meaning at issue reaches no further than its own task, but for EPOP. -/
theorem ownOnly_of_slot (hi : isSlot i = true) (hpop : ∀ d e, i ≠ .epop d e) (h : exec i s = .next t) : OwnOnly s t := by
  have hcases := slot_cases i
  simp only [hi, Bool.not_true, Bool.false_or, Bool.or_eq_true, Option.isSome_iff_exists] at hcases
  rcases hcases with ((hcell | ⟨n, hland⟩) | ⟨ctr, hwelt⟩) | hseq
  · obtain ⟨pre, f, hexec, hf, hpre⟩ := exists_exec_eq_issueBoth hcell
    rw [hexec] at h
    exact ownOnly_of_issueBoth hpre hf h
  · obtain ⟨loc, mask, val, hexec⟩ := landsOnly_of_landsIn hland
    rw [hexec] at h
    exact ownOnly_of_issue (ownOnly_land ..) h
  · obtain ⟨e, hexec⟩ := exists_exec_eq_issue_welt hwelt
    rw [hexec] at h
    exact ownOnly_of_issue ((ownOnly_counted ctr s).trans (ownOnly_welt ..)) h
  · exact ownOnly_of_actsAtSequencer hseq hpop h

end Sys2Proof.Proofs

open Sys2Proof Sys2Proof.Machine Sys2Proof.Claims Sys2Proof.Proofs

/-- Settles O47: each slot form is one `issue` of operations that reach the own task alone. -/
theorem slotsReachOnlyTheirOwnTask : Obligations.SlotsReachOnlyTheirOwnTask := by
  unfold Obligations.SlotsReachOnlyTheirOwnTask
  intro i hi hpop s t h
  obtain ⟨_, _, hout, hctxs, hcells, hccs⟩ := ownOnly_of_slot hi hpop h
  exact ⟨hout, hctxs, hcells, hccs⟩

end


section
/-!
PROOF. Accesses that perform (R125, R130), the commit of a region (R45), released effects (R46) and flag updates (R191, R194).
-/

namespace Sys2Proof.Proofs

open Sys2Proof.Machine Sys2Proof.Claims

variable {s : State} {q : Req}

/-! ### Accesses -/

theorem execLoadPerform_of_load {b w : Nat} {due : Option Nat} {strict : Bool} (hfind : s.findReq q.id = some q)
    (hkind : q.kind = .load b w due strict) (hmay : mayPerform s q = true) :
    exec (.loadPerform q.id) s = .next (performLoad q s) := by
  change execLoadPerform q.id s = _
  simp only [execLoadPerform, hfind, hkind, hmay, if_true]

theorem execStorePerform_of_store {nt : Bool} (hfind : s.findReq q.id = some q) (hkind : q.kind = .store nt)
    (hmay : mayPerform s q = true) : exec (.storePerform q.id) s = .next (settleReleased (performStore q s)) := by
  change execStorePerform q.id s = _
  simp only [execStorePerform, hfind, hkind, hmay, if_true]

theorem execStorePerform_of_cst {c : Cap} (hfind : s.findReq q.id = some q) (hkind : q.kind = .cst c)
    (hmay : mayPerform s q = true) : exec (.storePerform q.id) s = .next (settleReleased (performStore q s)) := by
  change execStorePerform q.id s = _
  simp only [execStorePerform, hfind, hkind, hmay, if_true]

/-- Which granules keep their tags over a write: those it does not touch (R435). -/
theorem mem_tags_writeMem (g : Nat) (b : List Byte) : ∀ (pa : Nat) (s : State),
    g ∈ (writeMem pa b s).tags ↔ g ∈ s.tags ∧ ∀ j, j < b.length → (pa + j) / 16 ≠ g := by
  induction b with
  | nil => simp [writeMem]
  | cons x b ih =>
    intro pa s
    rw [writeMem, ih]
    simp only [List.mem_filter, State.setMemByte_tags, bne_iff_ne, List.length_cons]
    constructor
    · rintro ⟨⟨hg, hpa⟩, hrest⟩
      refine ⟨hg, fun j hj => ?_⟩
      cases j with
      | zero => exact Ne.symm hpa
      | succ j =>
        have h := hrest j (by omega)
        rwa [Nat.add_right_comm] at h
    · rintro ⟨hg, hall⟩
      refine ⟨⟨hg, Ne.symm (hall 0 (by omega))⟩, fun j hj => ?_⟩
      have h := hall (j + 1) (by omega)
      rwa [← Nat.add_assoc, Nat.add_right_comm] at h

/-! ### Flags -/

theorem flagP_append (p : BitVec 1) (x : BitVec 63) : flagP (p ++ x) = p.getLsbD 0 := by
  rw [flagP, BitVec.getLsbD_append]
  rfl

theorem flagV_append (p : BitVec 1) (x : BitVec 63) : flagV (p ++ x) = x := by
  apply BitVec.eq_of_getLsbD_eq
  intro i hi
  rw [flagV, BitVec.getLsbD_extractLsb', Nat.zero_add, BitVec.getLsbD_append, if_pos hi, decide_eq_true hi, Bool.true_and]

theorem flagP_flagApply (set : Bool) (v old : DWord) : flagP (flagApply set v old) = (flagP old || v.getLsbD 63) := by
  rw [flagApply, flagP_append]
  simp

theorem flagV_flagApply (set : Bool) (v old : DWord) : flagV (flagApply set v old) =
    if set = true then flagV old ||| v.extractLsb' 0 63 else flagV old + v.extractLsb' 0 63 := flagV_append _ _

/-! ### Released effects -/

variable {e : Released}

/-- An effect at its port that nothing before it holds acts. -/
theorem exec_releaseWaitEnd (hfind : s.released.find? (fun r => r.id == e.id) = some e) (hphase : e.phase = 0)
    (hfree : blocked s e = false) : exec (.releaseWaitEnd e.id) s = .next (perform e s) := by
  change execReleaseWaitEnd e.id s = _
  simp only [execReleaseWaitEnd, hfind, hphase, hfree, Bool.not_false, and_self, true_or, if_true]

/-- A pushed word enters its eyelet, or stays at the head. -/
theorem perform_epush {y : BitVec 4} {w : DWord} (he : e.effect = .epush y w) : perform e s =
    let q := mapGet .reset (s.layerAt e.lay).eyelets y.toNat
    if q.words.length < 16 then
      dropReleased e.id (s.updLayer e.lay (fun l =>
        { l with eyelets := mapSet .reset l.eyelets y.toNat { q with words := q.words ++ [w] } }))
    else setReleased { e with phase := 1 } s := by
  simp only [perform, he]

/-- A fence ends once both its waits have. -/
theorem perform_fence_of_ended {sc : Nat} {acq rel : Bool} (he : e.effect = .fence sc acq rel)
    (hrel : rel = true → waitEnded s e sc = true) (hacq : acq = true → 2 ≤ sc → acquireEnded s e.ctxKey e.id = true) :
    perform e s = dropReleased e.id s := by
  have hreldone : (!rel || e.phase == 2 || waitEnded s e sc) = true := by
    cases rel with
    | false => rfl
    | true => rw [hrel rfl, Bool.or_true]
  have hacqdone : (!acq || decide (sc < 2) || acquireEnded s e.ctxKey e.id) = true := by
    cases acq with
    | false => rfl
    | true =>
      by_cases hsc : sc < 2
      · rw [decide_eq_true hsc]
        rfl
      · rw [hacq rfl (Nat.not_lt.mp hsc), Bool.or_true]
  simp only [perform, he, hreldone, hacqdone, Bool.and_self, if_true]

end Sys2Proof.Proofs

open Sys2Proof Sys2Proof.Machine Sys2Proof.Claims Sys2Proof.Proofs

/-- Settles O30: each access performs by `performLoad`, `performStore` or `performLane`, and `writeMem` says what it writes. -/
theorem accessesPerform : Obligations.AccessesPerform := by
  unfold Obligations.AccessesPerform
  refine ⟨?_, ?_, ?_, ?_, ?_, fun old x y => ⟨rfl, ?_, rfl, rfl, rfl, rfl⟩, ?_⟩
  · intro s q b w due strict l hfind hkind hmay hdropped hstate hsize
    rw [execLoadPerform_of_load hfind hkind hmay]
    simp only [performLoad, hdropped, hstate, loadData, hsize, hkind, Bool.false_eq_true, if_false]
  · intro s q b w due strict p hfind hkind hmay hdropped hstate
    rw [execLoadPerform_of_load hfind hkind hmay]
    simp only [performLoad, hdropped, hstate, Bool.false_eq_true, if_false]
  · intro s q nt l hfind hkind hmay hstate hsize
    rw [execStorePerform_of_store hfind hkind hmay]
    simp only [performStore, hstate, hsize, hkind, if_false, rowBytes]
  · intro s q c l hfind hkind hmay hstate hsize
    rw [execStorePerform_of_cst hfind hkind hmay]
    have hnull : (!capNull c) = decide (c ≠ 0) := by rw [capNull, decide_not, beq_eq_decide]
    simp only [performStore, hstate, hsize, hkind, if_false, hnull]
  · intro s q op ty cas returns v n a x y rest done l hfind hkind hmay hstate hsize
    change execAtomicPerform q.id s = _
    simp only [execAtomicPerform, hfind, hmay, if_true, performLane, hkind, hstate, hsize, if_false, Bool.and_eq_true, bne_iff_ne]
  · rfl
  · intro b pa s
    refine ⟨fun a ha => ?_, fun j x hj => ?_, fun g => mem_tags_writeMem g b pa s⟩
    · rw [memByte_writeMem, if_neg ha]
    · obtain ⟨hlt, hget⟩ := List.getElem?_eq_some_iff.mp hj
      rw [memByte_writeMem, if_pos ⟨Nat.le_add_right .., Nat.add_lt_add_left hlt pa⟩, Nat.add_sub_cancel_left,
        List.getD_eq_getElem _ _ hlt, hget]

/-- Settles O31: the branches of `commitOldest`. -/
theorem regionCommits : Obligations.RegionCommits := by
  unfold Obligations.RegionCommits
  intro s lay c
  refine ⟨fun r rest n hregions hsealed hdue htrap hclash => ?_, fun r rest hregions hdue => ?_,
    fun r rest tr hregions htrap hle => ?_, fun r rest hregions hclash => ?_, fun hregions => ?_⟩
  all_goals change execRegionCommit lay c s = _
  · cases htr : (s.ctxAt (ctxKey lay c)).trap with
    | none =>
      simp only [execRegionCommit, commitOldest, hregions, hsealed, htr, decide_eq_true hdue, hclash]
      rfl
    | some tr =>
      simp only [execRegionCommit, commitOldest, hregions, hsealed, htr, decide_eq_true hdue, hclash,
        decide_eq_false (Nat.not_le.mpr (htrap tr htr))]
      rfl
  · cases hsealed : r.sealedAt with
    | none => simp only [execRegionCommit, commitOldest, hregions, hsealed, Bool.false_and, Bool.false_eq_true, if_false]
    | some n =>
      simp only [execRegionCommit, commitOldest, hregions, hsealed, decide_eq_false (Nat.not_le.mpr (hdue n hsealed)),
        Bool.false_and, Bool.false_eq_true, if_false]
  · simp only [execRegionCommit, commitOldest, hregions, htrap, decide_eq_true hle, Bool.not_true, Bool.and_false,
      Bool.false_and, Bool.false_eq_true, if_false]
  · simp only [execRegionCommit, commitOldest, hregions, hclash, Bool.not_true, Bool.and_false, Bool.false_eq_true, if_false]
  · simp only [execRegionCommit, commitOldest, hregions]

/-- Settles O33: an update applies by `flagApply` at its own flag. -/
theorem flagUpdates : Obligations.FlagUpdates := by
  unfold Obligations.FlagUpdates
  refine ⟨fun s lay u hupd hat hon => ?_, fun s lay set i v => rfl, fun s lay i => ⟨_, rfl, ?_⟩,
    fun s tw n owners => ⟨_, rfl, by simp, by simp⟩⟩
  · have hdue : [u].filter (fun u => u.at_ ≤ s.cycleOf lay) = [u] := by simp [hat]
    have hrest : [u].filter (fun u => s.cycleOf lay < u.at_) = [] := by simp [hat]
    have hexec : exec (.flagUpdateApply lay none) s =
        .next (applyFlag lay u (s.updLayer lay (fun l => { l with updates := [] }))) := by
      change execFlagUpdateApply lay none s = _
      simp only [execFlagUpdateApply, applyUpdates, State.updLayer, hupd, hdue, hrest, List.isEmpty_cons,
        List.mergeSort_singleton, List.foldl_cons, List.foldl_nil, Bool.false_eq_true, if_false]
    refine ⟨_, hexec, ?_⟩
    simp only [applyFlag, State.updLayer_layerAt_same, hon, if_false, Layer.flag, mapGet_mapSet_same, true_and]
    refine ⟨flagV_flagApply .., flagP_flagApply .., fun j hj => ?_⟩
    exact mapGet_mapSet_ne _ _ _ (fun h => hj (BitVec.eq_of_toNat_eq h.symm))
  · simp only [State.updLayer_layerAt_same, Layer.flag]
    exact ⟨mapGet_mapSet_same .., fun j hj => mapGet_mapSet_ne _ _ _ (fun h => hj (BitVec.eq_of_toNat_eq h.symm))⟩

/-- Settles O32: the event is `perform`, and each kind of effect is one of its branches. -/
theorem releasedEffectsAct : Obligations.ReleasedEffectsAct := by
  unfold Obligations.ReleasedEffectsAct
  intro s e hfind
  refine ⟨fun hphase hfree => ?_, fun lay c hhead => ⟨fun y w he hroom => ?_, fun q rec he hroom => ?_⟩⟩
  · rw [exec_releaseWaitEnd hfind hphase hfree]
    refine ⟨fun nt ctr he => ?_, fun ctr he => ?_, fun set homes v sc he hend => ?_, fun sc acq rel he hrel hacq => ?_,
      fun y w he => ⟨fun hroom => ?_, fun hfull => ?_⟩⟩
    · simp only [perform, he]
    · simp only [perform, he]
    · simp only [perform, he, hend, if_true]
    · rw [perform_fence_of_ended he hrel hacq]
    · rw [perform_epush he, if_pos hroom]
    · rw [perform_epush he, if_neg (Nat.not_lt.mpr hfull)]
  · change execEpushDeferred lay c s = _
    simp only [execEpushDeferred, hhead, he, hroom, if_true, perform_epush he]
  · change execTlaunchDeferredAppend lay c s = _
    simp only [execTlaunchDeferredAppend, hhead, he, hroom, if_true]

end


section
/-!
PROOF. Rows that are late, results that lag, rows that land and replies that arrive (R106, R286, R351, R352).
-/

namespace Sys2Proof.Proofs

open Sys2Proof.Machine Sys2Proof.Claims

variable {lay : Nat} {s : State}

/-! ### Freezes -/

/-- A freeze that stands keeps its first cycle and its owner whatever else holds the layer. -/
theorem hold_frozen_of_some {l : Layer} {f : Nat × Nat} (now c : Nat) (w : Wait) (h : l.frozen = some f) :
    (l.hold now c w).frozen = some f := by
  simp only [Layer.hold, h]
  exact iteInduction (motive := fun m : Layer => m.frozen = some f) (fun _ => h) fun _ => rfl

theorem hold_step (l : Layer) (now c : Nat) (w : Wait) : (l.hold now c w).step = l.step := by
  unfold Layer.hold
  cases l.frozen with
  | none => rfl
  | some f => simp only []; split <;> rfl

theorem hold_pend (l : Layer) (now c : Nat) (w : Wait) : (l.hold now c w).pend = l.pend := by
  unfold Layer.hold
  cases l.frozen with
  | none => rfl
  | some f => simp only []; split <;> rfl

theorem freezeOn_layerAt (lay c : Nat) (w : Wait) (s : State) :
    (freezeOn lay c w s).layerAt lay = (s.layerAt lay).hold (s.cycleOf lay) c w := by
  unfold freezeOn
  rw [State.updLayer_layerAt_same]
  rfl

/-- The first condition of a layer that is not frozen freezes it from this cycle on, or from the freeze it goes on with. -/
theorem freezeOn_frozen_of_none (c : Nat) (w : Wait) (h : (s.layerAt lay).frozen = none) :
    ((freezeOn lay c w s).layerAt lay).frozen = some ((s.layerAt lay).thaw.getD (s.cycleOf lay), c) := by
  rw [freezeOn_layerAt, Layer.hold, h]

/-- Further conditions keep a freeze, the layer's step and its results. -/
theorem foldl_freezeOn {α : Type} (owner : α → Nat) (w : Wait) {f : Nat × Nat} (hs : List α) :
    ∀ s : State, (s.layerAt lay).frozen = some f →
      ((hs.foldl (fun s h => freezeOn lay (owner h) w s) s).layerAt lay).frozen = some f ∧
      ((hs.foldl (fun s h => freezeOn lay (owner h) w s) s).layerAt lay).step = (s.layerAt lay).step ∧
      ((hs.foldl (fun s h => freezeOn lay (owner h) w s) s).layerAt lay).pend = (s.layerAt lay).pend := by
  induction hs with
  | nil => exact fun s hf => ⟨hf, rfl, rfl⟩
  | cons h hs ih =>
    intro s hf
    have hl := freezeOn_layerAt lay (owner h) w s
    obtain ⟨hfrozen, hstep, hpend⟩ := ih (freezeOn lay (owner h) w s) (by rw [hl]; exact hold_frozen_of_some _ _ _ hf)
    exact ⟨hfrozen, hstep.trans (by rw [hl, hold_step]), hpend.trans (by rw [hl, hold_pend])⟩

/-- The registers that land keep the layer's freeze and step, and leave a part of its results. -/
theorem landRegs_layer (lay : Nat) (s : State) :
    ((landRegs lay s).layerAt lay).frozen = (s.layerAt lay).frozen ∧ ((landRegs lay s).layerAt lay).step = (s.layerAt lay).step ∧
      ∀ e ∈ ((landRegs lay s).layerAt lay).pend, e ∈ (s.layerAt lay).pend := by
  obtain ⟨u, hu, _, hstep, hpend, _, hfrozen⟩ := landRegs_eq lay s
  have hvotes : ∀ (vs : List Vote) (t : State), ((vs.foldl (markPoison lay) t).layerAt lay) = t.layerAt lay := by
    intro vs
    induction vs with
    | nil => exact fun _ => rfl
    | cons v vs ih => exact fun t => (ih _).trans (markPoison_layerAt v lay)
  have hregs : ∀ (ps : List Pend) (t : State), SameQueue ((ps.foldl (fun s p => landReg lay p s) t).layerAt lay) (t.layerAt lay) := by
    intro ps
    induction ps with
    | nil => exact fun _ => SameQueue.refl _
    | cons p ps ih => exact fun t => (ih _).trans (sameQueue_landReg p lay)
  have hq := hregs (dueResults lay s) u
  rw [hu, hvotes]
  refine ⟨hq.frozen.trans hfrozen, hq.step.trans hstep, fun e he => ?_⟩
  rw [hq.pend, hpend] at he
  exact List.mem_of_mem_filter he

/-! ### Late rows -/

/-- A row that is late is one of a context of its layer. -/
theorem ctxKey_of_isLate {q : Req} (h : isLate s lay q = true) : ctxKey lay (q.ctxKey % 8) = q.ctxKey := by
  simp only [isLate, Bool.and_eq_true, beq_iff_eq] at h
  obtain ⟨⟨⟨hlay, _⟩, _⟩, _⟩ := h
  unfold ctxKey
  omega

/-- The wait that a late row of a context begins, where it waits for nothing else. -/
def waitForLanding (q : Req) (x : Ctx) : Ctx :=
  if x.wait = .none then { x with wait := .landing, waitAddr := q.baddr, waitSlot := q.slot } else x

theorem waitForLanding_task (q : Req) (x : Ctx) : (waitForLanding q x).task = x.task := by
  unfold waitForLanding
  split <;> rfl

/-- A row late under the landing mode freezes its layer on its context (R286). -/
theorem execLate_of_landing {q : Req} {id b w d : Nat} (hq : s.reqs.find? (fun p => p.id == id && isLate s lay p) = some q)
    (hkind : q.kind = .load b w (some d) false) :
    execLate lay id s = .next (freezeOn lay (q.ctxKey % 8) .landing (s.updCtx q.ctxKey (waitForLanding q))) := by
  simp only [execLate, hq, hkind]
  rfl

/-- What a freeze makes of its owner. -/
theorem freezeOn_ctxAt_same (lay c : Nat) (w : Wait) (s : State) :
    (freezeOn lay c w s).ctxAt (ctxKey lay c) = { s.ctxAt (ctxKey lay c) with
      task := if (s.ctxAt (ctxKey lay c)).task = .ready ∨ (s.ctxAt (ctxKey lay c)).task = .issuing then .frozen
        else (s.ctxAt (ctxKey lay c)).task } := by
  unfold freezeOn
  rw [State.updLayer_ctxAt, State.updCtx_ctxAt_same]

theorem freezeOn_reqs (lay c : Nat) (w : Wait) (s : State) : (freezeOn lay c w s).reqs = s.reqs := by
  unfold freezeOn
  rw [State.updLayer_reqs, State.updCtx_reqs]

/-- One cycle on, every result that lags lags by a cycle less (R351). -/
def advanceLagging (now : Nat) (l : Layer) : Layer :=
  { l with pend := l.pend.map (fun p => if isLagging now p then { p with lag := p.lag - 1 } else p) }

/-! ### Rows that land -/

/-- Bytes that are all ones are a number that is all ones. -/
theorem bytesNat_ones {f : Nat → Byte} (hf : ∀ n, n < 128 → f n = 0xFF) :
    ∀ n w, n ≤ 128 → w = 8 * n → bytesNat f n = 2 ^ w - 1 := by
  intro n
  induction n with
  | zero => rintro _ _ rfl; rfl
  | succ n ih =>
    rintro _ hn rfl
    rw [bytesNat, ih _ (by omega) rfl, hf n (by omega), Nat.mul_succ, Nat.pow_add]
    have := Nat.one_le_two_pow (n := 8 * n)
    change 2 ^ (8 * n) - 1 + 255 * 2 ^ (8 * n) = 2 ^ (8 * n) * 256 - 1
    omega

theorem ofNat_two_pow_sub_one (w : Nat) : BitVec.ofNat w (2 ^ w - 1) = BitVec.allOnes w :=
  BitVec.eq_of_toNat_eq (by
    rw [BitVec.toNat_ofNat, BitVec.toNat_allOnes]
    exact Nat.mod_eq_of_lt (Nat.sub_lt (Nat.two_pow_pos w) Nat.one_pos))

/-- A row whose bytes are all ones is all ones. -/
theorem rowOfBytes_ones {f : Nat → Byte} (hf : ∀ n, n < 128 → f n = 0xFF) : rowOfBytes f = BitVec.allOnes 1024 := by
  rw [rowOfBytes, bytesNat_ones hf 128 1024 le_rfl rfl, ofNat_two_pow_sub_one]

/-- A whole word replaces what was there. -/
theorem and_not_allOnes_or {w : Nat} (x y : BitVec w) : x &&& ~~~ BitVec.allOnes w ||| y &&& BitVec.allOnes w = y := by simp

/-- The entry alone in a cell's landing buffer, due and not poisoned, leaves the buffer and writes its bytes of its row. -/
theorem landEntries_of_single {k : Nat} {d : Landing} {due : Landing → Bool} (hd : (s.cellAt (cellKey lay k)).landing = [d])
    (hdue : due d = true) (hpois : d.pois = false) :
    ∃ e : Cell, (landEntries lay k due s).cellAt (cellKey lay k) = e ∧ e.landing = [] ∧
      e.banks = mapSet 0 (s.cellAt (cellKey lay k)).banks (256 * d.bank + d.row)
        ((mapGet 0 (s.cellAt (cellKey lay k)).banks (256 * d.bank + d.row) &&&
            ~~~ rowOfBytes (fun b => if d.be.getLsbD b then 0xFF else 0)) |||
          (d.data &&& rowOfBytes (fun b => if d.be.getLsbD b then 0xFF else 0))) := by
  simp only [landEntries, hd, List.filter_cons, hdue, if_true, List.filter_nil, List.mergeSort_singleton, List.foldl_cons,
    List.foldl_nil, landEntry, hpois, Bool.false_eq_true, if_false, State.updCell_cellAt_same]
  exact ⟨_, rfl, by simp, rfl⟩

/-- The timed landing of a row takes the row's entry once its step has come. -/
theorem execTimedLanding_of_due (k : Nat) {d : Landing} (hdue : d.due = some (s.layerAt lay).step) :
    ∃ due, execTimedLanding lay k (256 * d.bank + d.row) s = .next (landEntries lay k due s) ∧ due d = true :=
  ⟨_, rfl, by simp [hdue]⟩

end Sys2Proof.Proofs

open Sys2Proof Sys2Proof.Machine Sys2Proof.Claims Sys2Proof.Proofs

/-- Settles O28. A hit keeps the freeze that the first of its bundles begins, since further conditions and landing registers keep a
freeze. -/
theorem arrivalEvents : Obligations.ArrivalEvents := by
  intro s lay
  refine ⟨?_, ?_, ?_, ?_, ?_, ?_, ?_⟩
  · intro q b w d hq hkind
    exact ⟨lateTrap (s.ctxAt q.ctxKey) q d, rfl, rfl, rfl, by
      change execLate lay q.id s = _
      simp only [execLate, hq, hkind]⟩
  · intro q b w d hq hkind hfrozen
    have hlate := List.find?_some hq
    rw [Bool.and_eq_true] at hlate
    have hkey := ctxKey_of_isLate hlate.2
    refine ⟨_, execLate_of_landing hq hkind, freezeOn_frozen_of_none _ _ hfrozen, fun htask => ?_, ?_⟩
    · have howner := freezeOn_ctxAt_same lay (q.ctxKey % 8) .landing (s.updCtx q.ctxKey (waitForLanding q))
      rw [hkey, State.updCtx_ctxAt_same] at howner
      rw [howner]
      simp only [waitForLanding_task, htask, or_true, if_true]
    · rw [freezeOn_reqs, State.updCtx_reqs]
  · intro c m tr rest hlatch hhits hrest
    have hopen : (if s.lay = lay ∧ !s.latch.words.isEmpty then some s.flightNow else none) = none := by
      simp [hlatch, Latch.empty]
    have hs : { s with latch := .empty } = s := by rw [← hlatch]
    have hnone : rest.filter (fun h => h.2.1 == 1) = [] := List.filter_eq_nil_iff.mpr fun h hh =>
      fun he => hrest h hh (beq_iff_eq.mp he)
    constructor
    · intro hm
      change execLaggingHit lay s = _
      simp only [execLaggingHit, hopen, hhits, hs, List.filter_cons, hm, BEq.rfl, if_true, hnone, List.foldl_cons, List.foldl_nil]
    · intro hm hfrozen
      have hm' : (m == 1) = false := beq_eq_false_iff_ne.mpr hm
      let u := s.updLayer lay (advanceLagging (s.layerAt lay).step)
      let v := freezeOn lay c .none u
      have hexec : execLaggingHit lay s = .next (landRegs lay (rest.foldl (fun s h => freezeOn lay h.1 .none s) v)) := by
        simp only [execLaggingHit, hopen, hhits, hs, List.filter_cons, hm', Bool.false_eq_true, if_false, hnone, List.foldl_cons]
        rfl
      have hul : u.layerAt lay = advanceLagging (s.layerAt lay).step (s.layerAt lay) := State.updLayer_layerAt_same ..
      have hv : (v.layerAt lay).frozen = some ((s.layerAt lay).thaw.getD (s.cycleOf lay), c) := by
        have h := freezeOn_frozen_of_none (s := u) (lay := lay) c .none (by rw [hul]; exact hfrozen)
        rwa [hul] at h
      obtain ⟨hfrozen', hstep, hpend⟩ := foldl_freezeOn (lay := lay) (fun h : Nat × BitVec 2 × TrapInfo => h.1) .none rest v hv
      obtain ⟨hf, hst, hp⟩ := landRegs_layer lay (rest.foldl (fun s h => freezeOn lay h.1 .none s) v)
      have hvl : v.layerAt lay = (u.layerAt lay).hold (u.cycleOf lay) c .none := freezeOn_layerAt ..
      refine ⟨_, hexec, hf.trans hfrozen', ?_, fun e he => ?_⟩
      · rw [hst, hstep, hvl, hold_step, hul]
        rfl
      · have he' := hp e he
        rw [hpend, hvl, hold_pend, hul] at he'
        obtain ⟨e0, he0, rfl⟩ := List.mem_map.mp he'
        exact ⟨e0, he0, rfl⟩
  · intro k d hd hdue hpois
    obtain ⟨due, hexec, hpick⟩ := execTimedLanding_of_due k hdue
    obtain ⟨e, he, hlanding, hbanks⟩ := landEntries_of_single hd hpick hpois
    refine ⟨_, hexec, (congrArg Cell.landing he).trans hlanding, fun j hj => ?_, fun hbe => ?_⟩
    · rw [he, hbanks, mapGet_mapSet_ne _ _ _ (Ne.symm hj)]
    · rw [he, hbanks, mapGet_mapSet_same, rowOfBytes_ones fun n hn => by
        rw [hbe, BitVec.getLsbD_allOnes, decide_eq_true hn, if_pos rfl], and_not_allOnes_or]
  · intro q b w due strict n hq hkind hstate hn hdropped hroom
    change execCopyRowArrival q.id s = _
    simp only [execCopyRowArrival, hq, hkind, hstate, hdropped, Bool.false_eq_true, if_false, landingRoom, hroom, if_true,
      Nat.not_lt.mpr hn]
  · intro q g hq hkind hstate
    change execCldDataArrival q.id s = _
    simp only [execCldDataArrival, hq, hkind, hstate, if_true]
  · intro q op ty cas v done hq hkind hstate hsrid
    change execAtomicReply q.id s = _
    simp only [execAtomicReply, hq, hkind, hstate, hsrid, Option.isNone_none, and_self, if_true]

end


section
/-!
PROOF. Translation at a port (R439, R440, R442, R444, R446 to R448).
-/

namespace Sys2Proof.Proofs

open Sys2Proof.Machine Sys2Proof.Claims

variable {s : State} {q : Req}

/-! ### Filling caches -/

/-- Choosing an entry to leave a cache reaches nothing but the free choices. -/
theorem victim_frame {α : Type} (xs : List α) (s : State) :
    (victim xs s).2.hret = s.hret ∧ (victim xs s).2.hmask = s.hmask := by
  induction xs generalizing s with
  | nil => exact ⟨rfl, rfl⟩
  | cons x xs ih =>
    cases xs with
    | nil => exact ⟨rfl, rfl⟩
    | cons y r =>
      rw [victim]
      split
      · exact ⟨rfl, rfl⟩
      · exact ih _

/-- A filled cache leaves the placement of lines, and which target is retired. -/
theorem tlbFill_frame (home cap : Nat) (o : BitVec 24) (off : Nat) (l : Leaf) (s : State) :
    (tlbFill home cap o off l s).hret = s.hret ∧ (tlbFill home cap o off l s).hmask = s.hmask := by
  simp only [tlbFill]
  split
  · exact ⟨rfl, rfl⟩
  · split
    · exact victim_frame _ s
    · exact ⟨rfl, rfl⟩

theorem isRetired_congr {t : State} (hret : t.hret = s.hret) (hmask : t.hmask = s.hmask) (pa : Nat) :
    isRetired t pa = isRetired s pa := by
  simp only [isRetired, hbmTarget, hret, hmask]

theorem isRetired_fillCaches (q : Req) (l : Leaf) (pa : Nat) : isRetired (fillCaches q l s) pa = isRetired s pa := by
  have h2 := tlbFill_frame q.home 4096 q.obj q.addr l s
  simp only [fillCaches]
  split
  · split
    · rfl
    · have h1 := tlbFill_frame ‹Nat› 96 q.obj q.addr l (tlbFill q.home 4096 q.obj q.addr l s)
      exact isRetired_congr (h1.1.trans h2.1) (h1.2.trans h2.2) pa
  · exact isRetired_congr h2.1 h2.2 pa

/-! ### What the walk of a request finds -/

theorem reqWalk_of_finds {l : Leaf} (h : finds s q l) : q.walk s = .leaf l := by
  obtain ⟨⟨hreserved, hremote, hentry, hobj⟩, hfound⟩ := h
  simp only [Req.walk, Machine.translate, hreserved, hremote, Nat.not_le.mpr hentry, hobj, Bool.false_eq_true, if_false, Bool.not_true]
  obtain hcache | ⟨hmiss, htower, hwalk⟩ := hfound
  · simp only [hcache]
  · simp only [hmiss, htower, hwalk, Bool.false_eq_true, if_false]

theorem reqWalk_of_faults {pol base size : Nat} {np : Bool} (h : faults s q pol np base size) :
    q.walk s = .fault pol np base size := by
  obtain ⟨⟨hreserved, hremote, hentry, hobj⟩, hmiss, htower, hwalk⟩ := h
  simp only [Req.walk, Machine.translate, hreserved, hremote, Nat.not_le.mpr hentry, hobj, Bool.false_eq_true, if_false, Bool.not_true,
    hmiss, htower, hwalk]

theorem reqWalk_of_remote (hremote : objRemote s q.obj = true) (hreserved : isReserved q.obj = false)
    (hok : isWindow q.obj = false ∨ windowOk s q.obj q.addr q.len q.asid q.writes = true) : q.walk s = .away := by
  have hrefused : (isWindow q.obj && !windowOk s q.obj q.addr q.len q.asid q.writes) = false := by
    obtain h | h := hok <;> simp [h]
  simp only [Req.walk, Machine.translate, hreserved, hremote, hrefused, Bool.false_eq_true, if_false, if_true]

theorem reqWalk_of_refused (hwindow : isWindow q.obj = true) (hno : windowOk s q.obj q.addr q.len q.asid q.writes = false) :
    q.walk s = .fault 3 true q.addr 1 := by
  have hreserved : isReserved q.obj = false := by simp [isReserved, hwindow]
  have hremote : objRemote s q.obj = true := by simp [objRemote, hwindow]
  simp only [Req.walk, Machine.translate, hreserved, hremote, hwindow, hno, Bool.not_false, Bool.and_self, Bool.false_eq_true, if_false,
    if_true]

/-! ### What a request that carries data makes of it -/

/-- What a request's kind is, where it carries a task's data. -/
theorem kind_of_carriesData (h : carriesData q = true) :
    q.kind.page = false ∧ q.kind ≠ .fetch ∧ q.kind ≠ .recordRead ∧ q.kind ≠ .recordWrite := by
  unfold carriesData at h
  cases hk : q.kind <;> simp_all [ReqKind.page]

theorem killReq_of_carriesData (h : carriesData q = true) : killReq q s = killedAt q s := by
  obtain ⟨_, hfetch, _⟩ := kind_of_carriesData h
  simp only [killReq, killedAt, Req.form, hfetch, if_false] <;> rfl

theorem portFault_of_carriesData (h : carriesData q = true) (pol : Nat) (np : Bool) (base size : Nat) :
    portFault q pol np base size s = faulted q pol np base size s := by
  obtain ⟨hpage, hfetch, _⟩ := kind_of_carriesData h
  match pol with
  | 0 => rfl
  | 1 | 2 | n + 4 => simp [portFault, faulted, hpage, hfetch]
  | 3 => simp only [portFault, faulted, hpage, Bool.false_eq_true, if_false, true_or, if_true, killReq_of_carriesData h]

theorem portLeaf_of_carriesData (h : carriesData q = true) {l : Leaf} (hleaf : leafFault l q.writes = false) :
    portLeaf q l s = if isRetired s (l.pa q.addr) then noteRetired (l.pa q.addr) (setReq { q with state := .answer 2 } s)
      else setReq { q with state := .ready l } s := by
  obtain ⟨_, hfetch, hread, hwrite⟩ := kind_of_carriesData h
  cases hk : q.kind <;> simp_all [portLeaf]

theorem portRemote_of_carriesData (h : carriesData q = true) :
    portRemote q s = answeredAway q { s with choice := s.choice + 1 } (remoteAnswer s q.obj) := by
  simp only [portRemote, answeredAway, killReq_of_carriesData h] <;> rfl

/-- A request that nothing holds back is walked. -/
theorem exec_translationWalk (hq : s.findReq q.id = some q) (hport : q.state = .port) (hholds : portHolds s q = false) :
    exec (.translationWalk q.id) s = portWalk q s := by
  change execTranslationWalk q.id s = _
  simp only [execTranslationWalk, hq, hport, hholds, Bool.not_false, and_self, if_true]

end Sys2Proof.Proofs

open Sys2Proof Sys2Proof.Machine Sys2Proof.Claims Sys2Proof.Proofs

/-- Settles O29, by what the request's walk finds. -/
theorem translationAtThePort : Obligations.TranslationAtThePort := by
  refine ⟨?_, ?_, ?_, ?_⟩
  · intro s q hq hport hholds
    change execTranslationWalk q.id s = _
    simp only [execTranslationWalk, hq, hholds, Bool.not_true, Bool.false_eq_true, and_false, if_false]
  · intro s q hq hport hholds hdata
    rw [exec_translationWalk hq hport hholds]
    refine ⟨?_, ?_, ?_, ?_, ?_, ?_⟩
    · intro l hfinds hleaf hretired
      simp only [portWalk, reqWalk_of_finds hfinds, portLeaf_of_carriesData hdata hleaf, isRetired_fillCaches, hretired,
        Bool.false_eq_true, if_false]
    · intro l hfinds hleaf hretired
      simp only [portWalk, reqWalk_of_finds hfinds, portLeaf_of_carriesData hdata hleaf, isRetired_fillCaches, hretired, if_true]
    · intro l hfinds hleaf
      simp only [portWalk, reqWalk_of_finds hfinds, portLeaf, hleaf, if_true, portFault_of_carriesData hdata]
    · intro pol np b z hfaults
      simp only [portWalk, reqWalk_of_faults hfaults, portFault_of_carriesData hdata]
    · intro hremote hreserved hok
      simp only [portWalk, reqWalk_of_remote hremote hreserved hok, portRemote_of_carriesData hdata]
    · intro hwindow hno
      simp only [portWalk, reqWalk_of_refused hwindow hno, portFault_of_carriesData hdata, faulted]
  · intro s q hkey hfree hplaced
    have hnotPlaced : (decide (q.ctxKey < 128) && (s.ctxAt q.ctxKey).task == .placed) = false := by simp [hplaced]
    have hthere : (decide (q.ctxKey < 128) && (s.ctxAt q.ctxKey).task != .free) = true := by simp [hkey, hfree]
    exact ⟨_, by simp only [pgKill, hnotPlaced, hthere, Bool.false_eq_true, if_false, if_true]; rfl, rfl, rfl, rfl, rfl, rfl⟩
  · intro o off asid ask tag s
    exact ⟨_, rfl, _, rfl, rfl, rfl, rfl, rfl, rfl, rfl⟩

end


section
/-!
PROOF. What ends a wait, a freeze or a hold, the watchdog, ageing, and held traps (R35, R52, R54 to R58, R501).
-/

namespace Sys2Proof.Proofs

open Sys2Proof.Machine Sys2Proof.Claims

variable {lay c : Nat} {s : State}

/-- Two updates of a context are one where they make the same of it. -/
theorem updCtx_congr {k : Nat} {f g : Ctx → Ctx} (h : f (s.ctxAt k) = g (s.ctxAt k)) : s.updCtx k f = s.updCtx k g := by
  unfold State.updCtx
  rw [h]

theorem ctxKey_ne {c d : Nat} (h : c ≠ d) : ctxKey lay c ≠ ctxKey lay d := by
  unfold ctxKey
  omega

/-! ### The conditions that hold a layer -/

/-- Without a condition left the freeze ends. -/
theorem keepHolds_nil {l : Layer} {f : Nat × Nat} (h : l.frozen = some f) : (l.keepHolds []).frozen = none := by
  simp only [Layer.keepHolds, h]

/-- With a condition left the freeze is that condition's, and goes on from its first cycle. -/
theorem keepHolds_singleton {l : Layer} {k o d : Nat} (v : Wait) (h : l.frozen = some (k, o)) :
    (l.keepHolds [(d, v)]).frozen = some (k, d) ∧ (l.keepHolds [(d, v)]).frozenBy = v ∧
      (l.keepHolds [(d, v)]).alsoFrozen = [] := by
  simp only [Layer.keepHolds, h, and_self]

/-- What becomes of a context that is no longer Frozen on a condition. -/
theorem unfreeze_ctxAt_same (w : Wait) : (unfreeze lay c w s).ctxAt (ctxKey lay c) =
    if (s.ctxAt (ctxKey lay c)).task = .frozen then
      { s.ctxAt (ctxKey lay c) with
        task := if (s.layerAt lay).cur = some c then .issuing else .ready
        wait := if (s.ctxAt (ctxKey lay c)).wait = w then .none else (s.ctxAt (ctxKey lay c)).wait
        waited := if (s.ctxAt (ctxKey lay c)).wait = w then 0 else (s.ctxAt (ctxKey lay c)).waited }
    else s.ctxAt (ctxKey lay c) := by
  unfold unfreeze
  rw [State.updCtx_ctxAt_same]

theorem unfreeze_ctxAt_ne {d : Nat} (w : Wait) (h : d ≠ c) :
    (unfreeze lay c w s).ctxAt (ctxKey lay d) = s.ctxAt (ctxKey lay d) := by
  unfold unfreeze
  exact State.updCtx_ctxAt_ne _ _ (ctxKey_ne h.symm)

theorem unfreeze_layerAt (w : Wait) (l : Nat) : (unfreeze lay c w s).layerAt l = s.layerAt l := by
  unfold unfreeze
  rw [State.updCtx_layerAt]

theorem holds_of_frozen {l : Layer} {k : Nat} (h : l.frozen = some (k, c)) : l.holds = (c, l.frozenBy) :: l.alsoFrozen := by
  simp only [Layer.holds, h]

/-- The only condition that holds the layer is met: it ends, and the freeze with it (R35). -/
theorem execWaitPass_of_single {k : Nat} (hfrozen : (s.layerAt lay).frozen = some (k, c))
    (hmet : waitCond lay c (s.layerAt lay).frozenBy s = true) (halone : (s.layerAt lay).alsoFrozen = []) :
    execWaitPass lay s = .next ((unfreeze lay c (s.layerAt lay).frozenBy s).updLayer lay (Layer.keepHolds [])) := by
  simp [execWaitPass, holds_of_frozen hfrozen, halone, hmet]

/-- Of two conditions of two contexts the first is met: it ends, and the freeze is the second's (R35). -/
theorem execWaitPass_of_other {k d : Nat} {v : Wait} (hfrozen : (s.layerAt lay).frozen = some (k, c))
    (hmet : waitCond lay c (s.layerAt lay).frozenBy s = true) (htwo : (s.layerAt lay).alsoFrozen = [(d, v)])
    (hstands : waitCond lay d v s = false) (hne : d ≠ c) :
    execWaitPass lay s = .next ((unfreeze lay c (s.layerAt lay).frozenBy s).updLayer lay (Layer.keepHolds [(d, v)])) := by
  simp [execWaitPass, holds_of_frozen hfrozen, htwo, hmet, hstands, hne]

/-- Of two conditions of one context the first is met: the context is Frozen on the second (R35). -/
theorem execWaitPass_of_same {k : Nat} {v : Wait} (hfrozen : (s.layerAt lay).frozen = some (k, c))
    (hmet : waitCond lay c (s.layerAt lay).frozenBy s = true) (htwo : (s.layerAt lay).alsoFrozen = [(c, v)])
    (hstands : waitCond lay c v s = false) :
    execWaitPass lay s = .next (s.updLayer lay (Layer.keepHolds [(c, v)])) := by
  simp [execWaitPass, holds_of_frozen hfrozen, htwo, hmet, hstands]

/-! ### A freeze that lasts -/

/-- The condition of a context's late rows whose region has committed (R56). -/
theorem lateCommitted_of_mem {key : Nat} (h : ∃ q ∈ lateRows lay s, q.ctxKey = key ∧ ∀ g ∈ (s.ctxAt key).regions, g.id ≠ q.region) :
    ((lateRows lay s).any fun q => q.ctxKey == key && !(s.ctxAt key).regions.any (fun g => g.id == q.region)) = true := by
  obtain ⟨q, hq, hkey, hregions⟩ := h
  exact List.any_eq_true.mpr ⟨q, hq, by simpa [hkey] using hregions⟩

/-- The only condition that holds the layer has outlasted its owner's threshold: the owner waits, and the freeze ends (R56). -/
theorem execFreezeSwitch_of_single {k : Nat} (hfrozen : (s.layerAt lay).frozen = some (k, c))
    (halone : (s.layerAt lay).alsoFrozen = []) (htask : (s.ctxAt (ctxKey lay c)).task = .frozen)
    (hfzt : (s.ctxAt (ctxKey lay c)).fzt ≠ 0) (hdue : k + 2 ^ ((s.ctxAt (ctxKey lay c)).fzt.toNat + 5) ≤ s.cycleOf lay) :
    execFreezeSwitch lay s = .next ((switchAway lay (c, (s.layerAt lay).frozenBy) s).updLayer lay (fun l =>
      { l.keepHolds (l.holds.filter (fun h => !([(c, (s.layerAt lay).frozenBy)] : List (Nat × Wait)).contains h)) with
        switch := true })) := by
  have hswitch : switchDue lay k s (c, (s.layerAt lay).frozenBy) = true := by
    simpa [switchDue, htask, hdue] using hfzt
  simp only [execFreezeSwitch, hfrozen, holds_of_frozen hfrozen, halone, List.filter_cons, hswitch, if_true, List.filter_nil,
    List.isEmpty_cons, Bool.false_eq_true, if_false, List.foldl_cons, List.foldl_nil]

/-- What the owner of a condition that has outlasted its threshold becomes (R56). -/
theorem switchAway_ctxAt_same (w : Wait) {committed : Bool} (hcommitted : (w == .landing &&
      (lateRows lay s).any (fun q => q.ctxKey == ctxKey lay c &&
        !(s.ctxAt (ctxKey lay c)).regions.any (fun g => g.id == q.region))) = committed)
    (htask : (s.ctxAt (ctxKey lay c)).task = .frozen) :
    (switchAway lay (c, w) s).ctxAt (ctxKey lay c) = { s.ctxAt (ctxKey lay c) with
      task := .waiting
      wait := if committed then .resumeHold else (s.ctxAt (ctxKey lay c)).wait
      waited := if committed && (s.ctxAt (ctxKey lay c)).wait != .resumeHold then 0 else (s.ctxAt (ctxKey lay c)).waited
      untimed := (s.ctxAt (ctxKey lay c)).untimed || committed } := by
  unfold switchAway
  rw [State.updCtx_ctxAt_same]
  simp only [htask, BEq.rfl, Bool.and_true, hcommitted]

theorem switchAway_layerAt (h : Nat × Wait) (l : Nat) : (switchAway lay h s).layerAt l = s.layerAt l := by
  unfold switchAway
  rw [State.updCtx_layerAt]

/-- A held trap alone takes effect where the task would next issue (R501). -/
theorem execHeldTrapEffect_of_single {tr : TrapInfo} (hheld : (s.ctxAt (ctxKey lay c)).held = [tr])
    (hstate : (s.ctxAt (ctxKey lay c)).state = .resident)
    (htask : (s.ctxAt (ctxKey lay c)).task = .ready ∨ (s.ctxAt (ctxKey lay c)).task = .issuing)
    (hwait : (s.ctxAt (ctxKey lay c)).wait ≠ .resumeHold) :
    execHeldTrapEffect lay c s = .next ((takeTrap lay c tr (s.updCtx (ctxKey lay c) (fun x =>
      { x with held := [], quieted := false }))).updCtx (ctxKey lay c) (fun x => { x with fromHeld := true })) := by
  have hrest : s.updCtx (ctxKey lay c) (fun x => { x with held := x.held.erase tr, quieted := false }) =
      s.updCtx (ctxKey lay c) (fun x => { x with held := [], quieted := false }) :=
    updCtx_congr (by simp [hheld])
  simp only [execHeldTrapEffect, hheld, List.foldl_nil, hstate, htask, hwait, ne_eq, not_false_eq_true, and_self, if_true, hrest]

end Sys2Proof.Proofs

open Sys2Proof Sys2Proof.Machine Sys2Proof.Claims Sys2Proof.Proofs

/-- Settles O27. Of two conditions the met one may be the same context's as the one that stands: the context then stays Frozen. -/
theorem waitEvents : Obligations.WaitEvents := by
  intro s lay c key x clear
  refine ⟨?_, ?_, ?_, ?_, ?_, ?_, ?_, ?_, ?_, ?_⟩
  · intro htask hwait hregions hholds
    change execWaitSatisfied lay c s = _
    have hnone : x.regions.isEmpty = true := by rw [hregions]; rfl
    exact if_pos ⟨htask, hwait, hnone, hholds⟩
  · intro htask hwait hregions hholds
    change execResumeHoldEnd lay c s = _
    have hnone : x.regions.isEmpty = true := by rw [hregions]; rfl
    have hfree : (!holding lay c s) = true := by rw [hholds]; rfl
    refine (if_pos ⟨Or.inl htask, hwait, hnone, hfree⟩).trans (congrArg _ (updCtx_congr ?_))
    have hne : (s.ctxAt (ctxKey lay c)).task ≠ .ready := fun h => by
      rw [show _ = _ from htask] at h
      exact absurd h (by decide)
    simp only [hne, if_false]
  · intro htask hwait hregions hholds
    change execResumeHoldEnd lay c s = _
    have hnone : x.regions.isEmpty = true := by rw [hregions]; rfl
    have hfree : (!holding lay c s) = true := by rw [hholds]; rfl
    refine (if_pos ⟨Or.inr (Or.inl htask), hwait, hnone, hfree⟩).trans (congrArg _ (updCtx_congr ?_))
    have hready : (s.ctxAt (ctxKey lay c)).task = .ready := htask
    simp only [hready, if_true]
  · intro k w hfrozen hmet
    refine ⟨fun halone => ?_, fun d v htwo hstands => ?_⟩
    · refine ⟨_, execWaitPass_of_single hfrozen hmet halone, ?_, fun htask => ?_, fun htask => ?_⟩
      · rw [State.updLayer_layerAt_same, unfreeze_layerAt]
        exact keepHolds_nil hfrozen
      · rw [State.updLayer_ctxAt, unfreeze_ctxAt_same]
        exact if_pos htask
      · rw [State.updLayer_ctxAt, unfreeze_ctxAt_same]
        exact if_neg htask
    · obtain ⟨hf, hby, hrest⟩ := keepHolds_singleton (d := d) v hfrozen
      by_cases hne : d = c
      · subst hne
        refine ⟨_, execWaitPass_of_same hfrozen hmet htwo hstands, ?_, ?_, ?_, ?_, fun h => absurd rfl h⟩
        · rwa [State.updLayer_layerAt_same]
        · rwa [State.updLayer_layerAt_same]
        · rwa [State.updLayer_layerAt_same]
        · rw [State.updLayer_ctxAt]
      · refine ⟨_, execWaitPass_of_other hfrozen hmet htwo hstands hne, ?_, ?_, ?_, ?_, fun _ htask => ?_⟩
        · rwa [State.updLayer_layerAt_same, unfreeze_layerAt]
        · rwa [State.updLayer_layerAt_same, unfreeze_layerAt]
        · rwa [State.updLayer_layerAt_same, unfreeze_layerAt]
        · rw [State.updLayer_ctxAt, unfreeze_ctxAt_ne _ hne]
        · rw [State.updLayer_ctxAt, unfreeze_ctxAt_same, if_pos htask]
          dsimp only
          split <;> decide
  · intro k hfrozen halone htask hfzt hdue
    have hlast : List.filter (fun h => !([(c, (s.layerAt lay).frozenBy)] : List (Nat × Wait)).contains h) (s.layerAt lay).holds = [] := by
      simp [holds_of_frozen hfrozen, halone]
    have howner := switchAway_ctxAt_same (lay := lay) (s := s) (c := c) (s.layerAt lay).frozenBy rfl htask
    refine ⟨_, execFreezeSwitch_of_single hfrozen halone htask hfzt hdue, ?_, ?_, ?_, fun hby => ?_, fun hby hlate => ?_⟩
    · rw [State.updLayer_ctxAt, howner]
    · rw [State.updLayer_layerAt_same, switchAway_layerAt, hlast]
      exact keepHolds_nil hfrozen
    · rw [State.updLayer_layerAt_same]
    · have hno : ((s.layerAt lay).frozenBy == .landing) = false := beq_eq_false_iff_ne.mpr hby
      rw [State.updLayer_ctxAt, switchAway_ctxAt_same (committed := false) _ (by rw [hno, Bool.false_and]) htask]
      exact ⟨rfl, Bool.or_false _⟩
    · have hyes : ((s.layerAt lay).frozenBy == .landing) = true := beq_iff_eq.mpr hby
      rw [State.updLayer_ctxAt,
        switchAway_ctxAt_same (committed := true) _ (by rw [hyes, lateCommitted_of_mem hlate, Bool.and_self]) htask]
      exact ⟨rfl, Bool.or_true _, fun hwait => if_pos (bne_iff_ne.mpr hwait)⟩
  · intro hwdog hwait hlong
    have hno : ¬ (x.wdog = 0 ∨ x.wait = .none ∨ x.waited ≤ 2 ^ (x.wdog.toNat + 10)) := by
      rintro (h | h | h)
      · exact hwdog h
      · exact hwait h
      · omega
    refine ⟨_, rfl, rfl, ?_, ?_, ?_, ?_, ?_, if_neg hno⟩
    · intro i cond b hw
      exact congrArg (fun w => (watchdogSub lay s.pkg w).1) hw
    · intro n m hw
      exact congrArg (fun w => (watchdogSub lay s.pkg w).1) hw
    · intro e hw
      exact congrArg (fun w => (watchdogSub lay s.pkg w).1) hw
    · intro hw
      exact congrArg (fun w => (watchdogSub lay s.pkg w).1) hw
    · intro hw
      exact congrArg (fun w => (watchdogSub lay s.pkg w).1) hw
  · intro htask haged hprio
    change execPriorityAgeing lay c s = _
    refine (if_pos ⟨htask, Nat.ne_of_lt haged⟩).trans (congrArg _ (updCtx_congr ?_))
    rw [if_pos ⟨haged, hprio⟩]
  · intro haged
    change execPriorityAgeing lay c s = _
    exact if_neg fun h => h.2 haged
  · intro htask hprio hidle
    change execStarvationSwitch lay c s = _
    exact if_pos ⟨htask, hprio, hidle⟩
  · intro tr hheld hstate htask hwait
    exact execHeldTrapEffect_of_single hheld hstate htask.symm hwait

end


section
/-!
PROOF. The slots of the stack bus and of the short network, and the eyelets (R118, R119, R198, R459, R460, R471, R482).
-/

namespace Sys2Proof.Proofs

open Sys2Proof.Machine Sys2Proof.Claims

variable {tw : Nat} {s : State}

theorem towerAt_congr {t : State} (h : t.towers = s.towers) (k : Nat) : t.towerAt k = s.towerAt k :=
  congrArg (fun m => mapGet _ m k) h

theorem towerAt_withReqs (s : State) (rs : List Req) (k : Nat) : ({ s with reqs := rs } : State).towerAt k = s.towerAt k := rfl

theorem layerAt_congr {t : State} (h : t.layers = s.layers) (k : Nat) : t.layerAt k = s.layerAt k :=
  congrArg (fun m => mapGet _ m k) h

/-! ### One place among many -/

/-- A list made of what stands at one place has it as often as the place is met. -/
theorem flatMap_ite_eq {α : Type} (c : Nat) (x : α) (l : List Nat) :
    l.flatMap (fun k => if c = k then [x] else []) = List.replicate (l.count c) x := by
  induction l with
  | nil => rfl
  | cons k l ih =>
    rw [List.flatMap_cons, ih, List.count_cons]
    by_cases h : c = k
    · simp [h, List.replicate_succ]
    · simp [h, Ne.symm h]

theorem filterMap_ite_eq {α : Type} (c : Nat) (x : α) (l : List Nat) :
    l.filterMap (fun k => if c = k then some x else none) = List.replicate (l.count c) x := by
  induction l with
  | nil => rfl
  | cons k l ih =>
    rw [List.filterMap_cons, ih, List.count_cons]
    by_cases h : c = k
    · simp [h, List.replicate_succ]
    · simp [h, Ne.symm h]

theorem count_upto {c n : Nat} (h : c < n) : (upto n).count c = 1 :=
  List.count_eq_one_of_mem List.nodup_range (List.mem_range.mpr h)

/-! ### Slots of the short network -/

theorem useSlot_pkg (p : Nat) (s : State) : (useSlot tw p s).pkg = s.pkg := rfl

/-- A port that has sent a packet in a slot has no free slot there (R459). -/
theorem freeSlot_useSlot (p src : Nat) : freeSlot (useSlot tw p s) tw p src = false := by
  have hsent : mapGet 0 ((useSlot tw p s).towerAt tw).shortSent p = slotNow s := by
    simp only [useSlot, State.updLink, State.setLink, State.updTower_towerAt_same, mapGet_mapSet_same]
  have hnow : slotNow (useSlot tw p s) = slotNow s := rfl
  rw [freeSlot, hsent, hnow, bne_self_eq_false, Bool.and_false]

/-! ### A slot's transmission -/

/-- The beats of a layer that has one, in the column of its cell and in no other. -/
theorem columnBeats_of_single {l : Layer} {b : Beat} {c n : Nat} (hbeats : l.beats = [b]) (hready : b.ready = some n) (hn : n < c)
    (k : Nat) : columnBeats l k c = if b.cell = k then [b] else [] := by
  unfold columnBeats
  rw [hbeats]
  by_cases h : b.cell = k
  · simp [h, hready, hn]
  · simp [h]

/-- A layer with one beat to send, and nothing else, sends it in its slot (R118). -/
theorem layerSlot_of_beat {lay c n : Nat} {b : Beat} (hpower : (s.layerAt lay).power = .run)
    (hfailing : (s.layerAt lay).failing = none) (hbeats : (s.layerAt lay).beats = [b]) (hupd : (s.layerAt lay).outUpd = [])
    (hreqs : s.reqs = []) (hcell : b.cell < 64) (hready : b.ready = some n) (hn : n < c) :
    ∃ u : State, layerSlot tw lay c s = pushSlot tw { cycle := c, layer := lay, beats := [b], updates := [] } u ∧
      u.towers = s.towers ∧ (u.layerAt lay).beats = [] := by
  have hcols : (upto 64).flatMap (fun k => columnBeats (s.layerAt lay) k c) = [b] := by
    simp only [columnBeats_of_single hbeats hready hn, flatMap_ite_eq, count_upto hcell, List.replicate_one]
  simp only [layerSlot, hpower, bne_self_eq_false, hfailing, Option.isSome_none, Bool.or_self, Bool.false_eq_true, if_false,
    hcols, hupd, List.filter_nil, List.mergeSort_nil, List.take_nil, hreqs, List.any_nil, List.isEmpty_cons, Bool.false_and,
    List.map_nil]
  refine ⟨_, rfl, rfl, ?_⟩
  rw [State.updLayer_layerAt_same]
  change List.filter _ (s.layerAt lay).beats = []
  simp [hbeats]

/-- The base die with one row to deliver, and no copy to make, sends it in its slot (R285). -/
theorem baseSlot_of_row {c : Nat} {q : Req} (hcopy : ∀ l, l < 8 → (s.layerAt (8 * tw + l)).copyLeft = 0)
    (hdeliver : (s.towerAt tw).deliver = [q.id]) (hreqs : s.reqs = [q]) (hcell : q.cell < 64) :
    ∃ u : State, baseSlot tw c s = pushSlot tw { cycle := c, layer := 8 * tw, base := true, rows := [q.id] } u ∧
      u.reqs = [{ q with state := .arrived (c + 6) }] ∧ u.towerAt tw = { s.towerAt tw with deliver := [] } := by
  have hnone : (upto 8).find? (fun l => (s.layerAt (8 * tw + l)).copyLeft != 0) = none :=
    List.find?_eq_none.mpr fun l hl => by simp [hcopy l (List.mem_range.mp hl)]
  have hfind : s.findReq q.id = some q := by simp [State.findReq, hreqs]
  have hrow : ∀ k, (s.towerAt tw).deliver.find? (fun id => match s.findReq id with | some q => q.cell == k | none => false) =
      if q.cell = k then some q.id else none := by
    intro k
    by_cases h : q.cell = k
    · simp [hdeliver, hfind, h]
    · simp [hdeliver, hfind, h]
  have hgo : (upto 64).filterMap (fun k => (s.towerAt tw).deliver.find?
      (fun id => match s.findReq id with | some q => q.cell == k | none => false)) = [q.id] := by
    simp only [hrow, filterMap_ite_eq, count_upto hcell, List.replicate_one]
  unfold baseSlot
  rw [hnone]
  dsimp only
  generalize hg : List.filterMap _ (upto 64) = go
  obtain rfl : go = [q.id] := hg.symm.trans hgo
  refine ⟨_, if_neg Bool.false_ne_true, ?_, ?_⟩
  · change List.map _ s.reqs = _
    simp [hreqs]
  · rw [towerAt_withReqs, State.updTower_towerAt_same]
    simp [hdeliver]

/-! ### Beats -/

/-- The bytes a beat enables are in the image, each at its place, and the others as they were. -/
theorem beatBytes_prefix (x : Beat) (base : Nat) (m : Map Byte) (n i : Nat) :
    mapGet (0 : Byte) ((upto n).foldl (fun m i =>
      if x.be.getLsbD i then mapSet 0 m (base + x.off + i) (x.data.extractLsb' (8 * i) 8) else m) m) (base + x.off + i) =
      if i < n ∧ x.be.getLsbD i = true then x.data.extractLsb' (8 * i) 8 else mapGet 0 m (base + x.off + i) := by
  induction n with
  | zero => simp [upto]
  | succ n ih =>
    rw [upto, List.range_succ, List.foldl_append, List.foldl_cons, List.foldl_nil]
    by_cases hi : i = n
    · subst hi
      by_cases hbe : x.be.getLsbD i = true
      · rw [if_pos hbe, mapGet_mapSet_same, if_pos ⟨Nat.lt_succ_self i, hbe⟩]
      · rw [if_neg hbe, if_neg fun h => hbe h.2]
        exact ih.trans (if_neg fun h => hbe h.2)
    · have hlt : (i < n + 1 ∧ x.be.getLsbD i = true) ↔ (i < n ∧ x.be.getLsbD i = true) :=
        and_congr_left fun _ => by omega
      have hne : base + x.off + n ≠ base + x.off + i := by omega
      rw [if_congr hlt rfl rfl]
      split
      · rw [mapGet_mapSet_ne _ _ _ hne]
        exact ih
      · exact ih

/-- A beat applied changes no tower but its own, and of that its keeper's image alone; it reaches no request. -/
theorem applyBeat_frame (x : Beat) (s : State) :
    (applyBeat tw x s).towers = (s.updTower tw (fun t => { t with keeper := beatBytes x t.keeper (65536 * x.cell) })).towers ∧
      (applyBeat tw x s).reqs = s.reqs := by
  unfold applyBeat
  refine List.foldlRecOn (motive := fun u : State => u.towers = (s.updTower tw (fun t =>
    { t with keeper := beatBytes x t.keeper (65536 * x.cell) })).towers ∧ u.reqs = s.reqs) _ _ ⟨rfl, rfl⟩ fun u hu l _ => ?_
  refine iteInduction (motive := fun v : State => v.towers = _ ∧ v.reqs = s.reqs) (fun _ => hu) fun _ => ?_
  exact iteInduction (motive := fun v : State => v.towers = _ ∧ v.reqs = s.reqs) (fun _ => hu) fun _ => hu

/-! ### Retries -/

/-- A retry that is counted shows in its column's count and in the telemetry alone. -/
theorem countRetry_frame (col : Nat) (s : State) :
    (countRetry tw col s).layers = s.layers ∧ (countRetry tw col s).reqs = s.reqs ∧
    ((countRetry tw col s).towerAt tw).deliver = (s.towerAt tw).deliver ∧
    ((countRetry tw col s).towerAt tw).busSlots = (s.towerAt tw).busSlots ∧
    ((countRetry tw col s).towerAt tw).cycle = (s.towerAt tw).cycle ∧
    ((countRetry tw col s).towerAt tw).retries = mapSet 0 (s.towerAt tw).retries col (mapGet 0 (s.towerAt tw).retries col + 1) := by
  simp only [countRetry, countTel, State.updTower_towerAt_same, State.updTower_layers, State.updTower_reqs, and_self]

/-- The retries of the bad columns, counted one by one. -/
theorem foldl_countRetry (bad : BitVec 64) (n : Nat) (s : State) :
    let u := (upto n).foldl (fun s k => if bad.getLsbD k then countRetry tw k s else s) s
    u.layers = s.layers ∧ u.reqs = s.reqs ∧ (u.towerAt tw).deliver = (s.towerAt tw).deliver ∧
    (u.towerAt tw).busSlots = (s.towerAt tw).busSlots ∧ (u.towerAt tw).cycle = (s.towerAt tw).cycle ∧
    ∀ k, mapGet 0 (u.towerAt tw).retries k =
      mapGet 0 (s.towerAt tw).retries k + if k < n ∧ bad.getLsbD k = true then 1 else 0 := by
  induction n with
  | zero => exact ⟨rfl, rfl, rfl, rfl, rfl, fun k => by simp [upto]⟩
  | succ n ih =>
    obtain ⟨hlayers, hreqs, hdeliver, hslots, hcycle, hretries⟩ := ih
    rw [upto, List.range_succ, List.foldl_append, List.foldl_cons, List.foldl_nil]
    split
    · rename_i hbad
      obtain ⟨gl, gr, gd, gs, gc, gt⟩ := countRetry_frame (tw := tw) n
        ((List.range n).foldl (fun s k => if bad.getLsbD k then countRetry tw k s else s) s)
      refine ⟨gl.trans hlayers, gr.trans hreqs, gd.trans hdeliver, gs.trans hslots, gc.trans hcycle, fun k => ?_⟩
      rw [gt]
      by_cases hk : k = n
      · subst hk
        rw [mapGet_mapSet_same, if_pos ⟨Nat.lt_succ_self k, hbad⟩]
        exact congrArg (· + 1) ((hretries k).trans (by simp))
      · rw [mapGet_mapSet_ne _ _ _ (Ne.symm hk)]
        exact (hretries k).trans (congrArg _ (if_congr (and_congr_left fun _ => by omega) rfl rfl))
    · rename_i hbad
      refine ⟨hlayers, hreqs, hdeliver, hslots, hcycle, fun k => (hretries k).trans (congrArg _ (if_congr ?_ rfl rfl))⟩
      by_cases hk : k = n
      · simp [hk, hbad]
      · exact and_congr_left fun _ => by omega

/-- What the bad columns of a slot carried of a request's row. -/
def rowAgain (b : BusSlot) (bad : BitVec 64) (q : Req) : Bool := b.rows.contains q.id && bad.getLsbD q.cell

/-- What the base die sent goes back to the rows it has to deliver (R482). -/
def rowsBack (tw : Nat) (b : BusSlot) (bad : BitVec 64) (s : State) : State :=
  State.updTower { s with reqs := s.reqs.map (fun q => if rowAgain b bad q then { q with state := .performed } else q) } tw
    (fun t => { t with deliver := (s.reqs.filter (rowAgain b bad)).map (fun q => q.id) ++ t.deliver })

theorem sendAgain_of_rows {b : BusSlot} (bad : BitVec 64) (flags : Bool) (hbase : b.base = true)
    (hcopy : b.copy = none ∨ bad = 0) : sendAgain tw b bad flags s = rowsBack tw b bad s := by
  simp only [sendAgain, hbase, if_true]
  cases hc : b.copy with
  | none => rfl
  | some l =>
    obtain h | h := hcopy
    · rw [hc] at h
      exact absurd h (by simp)
    · exact if_pos h

theorem sendAgain_of_copy {b : BusSlot} {bad : BitVec 64} {l : Nat} (flags : Bool) (hbase : b.base = true) (hcopy : b.copy = some l)
    (hbad : bad ≠ 0) : sendAgain tw b bad flags s =
      (rowsBack tw b bad s).updLayer (8 * tw + l) (fun x => { x with copyLeft := x.copyLeft + 1 }) := by
  simp only [sendAgain, hbase, if_true, hcopy]
  exact if_neg hbad

theorem sendAgain_of_dropped {b : BusSlot} (bad : BitVec 64) (flags : Bool) (hbase : b.base = false)
    (h : (s.layerAt b.layer).power ≠ .run ∨ (s.layerAt b.layer).failing.isSome) :
    sendAgain tw b bad flags s = { s with reqs := s.reqs.filter (fun q => !rowAgain b bad q) } := by
  simp only [sendAgain, hbase, Bool.false_eq_true, if_false]
  exact if_pos (by simpa using h)

theorem sendAgain_of_layer {b : BusSlot} (bad : BitVec 64) (flags : Bool) (hbase : b.base = false)
    (hpower : (s.layerAt b.layer).power = .run) (hfailing : (s.layerAt b.layer).failing = none) :
    sendAgain tw b bad flags s =
      State.updLayer { s with reqs := s.reqs.map (fun q => if rowAgain b bad q then { q with state := .queued } else q) } b.layer
        (fun l => { l with
          beats := b.beats.filter (fun x => bad.getLsbD x.cell) ++ l.beats
          outUpd := (if flags then b.updates.map (fun u => (0, u.1, u.2)) else []) ++ l.outUpd }) := by
  simp only [sendAgain, hbase, Bool.false_eq_true, if_false, hpower, hfailing]
  rfl

/-- What has to be sent again goes by the requests, the layers and the rows to deliver alone, and reaches nothing else. -/
structure SameSending (tw : Nat) (s t : State) : Prop where
  layers : t.layers = s.layers
  reqs : t.reqs = s.reqs
  deliver : (t.towerAt tw).deliver = (s.towerAt tw).deliver

theorem SameSending.updLayer {t : State} (h : SameSending tw s t) (k : Nat) (f : Layer → Layer) :
    SameSending tw (s.updLayer k f) (t.updLayer k f) := by
  refine ⟨?_, h.reqs, h.deliver⟩
  simp only [State.updLayer, State.setLayer, State.layerAt, h.layers]

theorem sameSending_withReqs (rs : List Req) {g : Tower → Tower} (hg : ∀ t, (g t).deliver = t.deliver) :
    SameSending tw { s with reqs := rs } { s.updTower tw g with reqs := rs } := by
  refine ⟨rfl, rfl, ?_⟩
  change ((s.updTower tw g).towerAt tw).deliver = (s.towerAt tw).deliver
  rw [State.updTower_towerAt_same, hg]

theorem sameSending_rowsBack (b : BusSlot) (bad : BitVec 64) {g : Tower → Tower} (hg : ∀ t, (g t).deliver = t.deliver) :
    SameSending tw (rowsBack tw b bad s) (rowsBack tw b bad (s.updTower tw g)) := by
  refine ⟨rfl, rfl, ?_⟩
  simp only [rowsBack, State.updTower_towerAt_same, towerAt_withReqs, hg, State.updTower_reqs]

theorem rowsBack_towerAt (b : BusSlot) (bad : BitVec 64) (s : State) :
    ((rowsBack tw b bad s).towerAt tw).busSlots = (s.towerAt tw).busSlots ∧
    ((rowsBack tw b bad s).towerAt tw).cycle = (s.towerAt tw).cycle ∧
    ((rowsBack tw b bad s).towerAt tw).retries = (s.towerAt tw).retries := by
  simp only [rowsBack, State.updTower_towerAt_same, towerAt_withReqs, and_self]

/-- A change to the tower that leaves its rows to deliver leaves what is sent again, which keeps the slots and the retries. -/
theorem sendAgain_frame (b : BusSlot) (bad : BitVec 64) (flags : Bool) {g : Tower → Tower} (hg : ∀ t, (g t).deliver = t.deliver) :
    SameSending tw (sendAgain tw b bad flags s) (sendAgain tw b bad flags (s.updTower tw g)) ∧
    ((sendAgain tw b bad flags s).towerAt tw).busSlots = (s.towerAt tw).busSlots ∧
    ((sendAgain tw b bad flags s).towerAt tw).cycle = (s.towerAt tw).cycle ∧
    ((sendAgain tw b bad flags s).towerAt tw).retries = (s.towerAt tw).retries := by
  cases hbase : b.base with
  | true =>
    by_cases hcopy : b.copy = none ∨ bad = 0
    · rw [sendAgain_of_rows bad flags hbase hcopy, sendAgain_of_rows bad flags hbase hcopy]
      exact ⟨sameSending_rowsBack b bad hg, rowsBack_towerAt b bad s⟩
    · obtain ⟨hsome, hbad⟩ := not_or.mp hcopy
      obtain ⟨l, hl⟩ := Option.ne_none_iff_exists'.mp hsome
      rw [sendAgain_of_copy flags hbase hl hbad, sendAgain_of_copy flags hbase hl hbad]
      exact ⟨(sameSending_rowsBack b bad hg).updLayer _ _, rowsBack_towerAt b bad s⟩
  | false =>
    by_cases h : (s.layerAt b.layer).power ≠ .run ∨ (s.layerAt b.layer).failing.isSome
    · rw [sendAgain_of_dropped bad flags hbase h, sendAgain_of_dropped (s := s.updTower tw g) bad flags hbase h]
      exact ⟨sameSending_withReqs _ hg, rfl, rfl, rfl⟩
    · obtain ⟨hpower, hfailing⟩ := not_or.mp h
      have hp := not_ne_iff.mp hpower
      have hf : (s.layerAt b.layer).failing = none := by simpa using hfailing
      rw [sendAgain_of_layer bad flags hbase hp hf, sendAgain_of_layer (s := s.updTower tw g) bad flags hbase hp hf]
      exact ⟨(sameSending_withReqs _ hg).updLayer _ _, by rw [State.updLayer_towerAt, towerAt_withReqs],
        by rw [State.updLayer_towerAt, towerAt_withReqs], by rw [State.updLayer_towerAt, towerAt_withReqs]⟩

/-! ### A slot's retry and its beats -/

/-- No slot of three cycles ago: no retry is asserted. -/
theorem assertRetry_of_none (bad : BitVec 64) (flags : Bool)
    (h : (s.towerAt tw).busSlots.find? (fun b => b.cycle + 3 == (s.towerAt tw).cycle) = none) : assertRetry tw bad flags s = s := by
  simp only [assertRetry, h]

/-- No slot of six cycles ago: nothing applies. -/
theorem applySlot_of_none (h : (s.towerAt tw).busSlots.find? (fun b => b.cycle + 6 == (s.towerAt tw).cycle) = none) :
    applySlot tw s = s := by
  simp only [applySlot, h]

/-- Requests of which none is on a slot of this cycle stay as they are when it applies. -/
theorem map_arrive_eq_self (c : Nat) (rows : List Nat) {rs : List Req} (h : ∀ q ∈ rs, q.state ≠ .sent c) :
    rs.map (fun q => if q.state = .sent c ∧ rows.contains q.id then { q with state := .port } else q) = rs :=
  (List.map_congr_left fun q hq => if_neg fun hs => h q hq hs.1).trans (List.map_id' rs)

theorem withReqs_eq_self {rs : List Req} (h : rs = s.reqs) : { s with reqs := rs } = s := by
  subst h
  rfl

/-- A slot that carried beats alone applies those outside its bad columns. -/
theorem applySlot_of_beats {b : BusSlot} (hslots : (s.towerAt tw).busSlots = [b]) (hcycle : b.cycle + 6 = (s.towerAt tw).cycle)
    (hupd : b.updates = []) (hsent : ∀ q ∈ s.reqs, q.state ≠ .sent b.cycle) :
    applySlot tw s = (b.beats.filter (fun x => !b.badCols.getLsbD x.cell)).foldl (fun s x => applyBeat tw x s)
      (s.updTower tw (fun t => { t with busSlots := [] })) := by
  have hnone : s.updTower tw (fun t => { t with busSlots := t.busSlots.filter (fun x => x.cycle + 6 != (s.towerAt tw).cycle) }) =
      s.updTower tw (fun t => { t with busSlots := [] }) := by
    unfold State.updTower
    simp [hslots, hcycle]
  have hreqs : ∀ (xs : List Beat) (u : State), (xs.foldl (fun s x => applyBeat tw x s) u).reqs = u.reqs := by
    intro xs
    induction xs with
    | nil => exact fun _ => rfl
    | cons x xs ih =>
      intro u
      rw [List.foldl_cons, ih]
      exact (applyBeat_frame x u).2
  simp only [applySlot, hslots, List.find?_cons, hcycle, BEq.rfl, hnone, hupd, List.foldl_nil, ite_self]
  refine withReqs_eq_self ?_
  rw [hreqs, State.updTower_reqs, map_arrive_eq_self _ _ hsent]

/-- A retry for the slot of three cycles ago, the first that is asserted for it: the slot keeps its bad columns, its sender has
them to send again, and the bad columns are counted. -/
theorem assertRetry_of_slot {b : BusSlot} {bad : BitVec 64} {flags : Bool} (hslots : (s.towerAt tw).busSlots = [b])
    (hcycle : b.cycle + 3 = (s.towerAt tw).cycle) (hcols : b.badCols = 0) (hflags : b.badFlags = false)
    (hsome : bad ≠ 0 ∨ flags = true) :
    assertRetry tw bad flags s = (upto 64).foldl (fun s k => if bad.getLsbD k then countRetry tw k s else s)
      (sendAgain tw b bad flags (s.updTower tw (fun t => { t with busSlots := [{ b with badCols := bad, badFlags := flags }] }))) := by
  have hmark : s.updTower tw (fun t => { t with busSlots := t.busSlots.map (fun x =>
        if x.cycle + 3 = (s.towerAt tw).cycle then { x with badCols := x.badCols ||| bad, badFlags := x.badFlags || flags } else x) }) =
      s.updTower tw (fun t => { t with busSlots := [{ b with badCols := bad, badFlags := flags }] }) := by
    unfold State.updTower
    simp [hslots, hcycle, hcols, hflags]
  have hno : ¬ (bad = 0 ∧ (!flags) = true) := by
    rintro ⟨hb, hf⟩
    obtain h | h := hsome
    · exact h hb
    · rw [h] at hf
      exact absurd hf (by decide)
  have hfresh : bad &&& ~~~ (0 : BitVec 64) = bad := by
    rw [show ~~~ (0 : BitVec 64) = BitVec.allOnes 64 from rfl, BitVec.and_allOnes]
  simp only [assertRetry, hslots, List.find?_cons, hcycle, BEq.rfl, hmark, hno, if_false, hcols, hfresh, hflags, Bool.not_false,
    Bool.and_true]

end Sys2Proof.Proofs

open Sys2Proof Sys2Proof.Machine Sys2Proof.Claims Sys2Proof.Proofs

/-- Settles O34, each clause from what its slot carries. -/
theorem eyeletsAndTheStackBus : Obligations.EyeletsAndTheStackBus := by
  refine ⟨?_, ?_, ?_, ?_, ?_, ?_, ?_, ?_, ?_, ?_⟩
  · intro s lay e w rest y hwords hen hdir hcredit hpower u
    have hmay : (y.en && y.dir && y.credit != 0 && (s.layerAt lay).power != .off) = true := by
      simp [hen, hdir, hcredit, hpower]
    refine ⟨fun p hp => ?_, fun hno => ?_⟩
    · change execEyeletWordSend lay e s = _
      simp only [execEyeletWordSend]
      rw [show (mapGet .reset (s.layerAt lay).eyelets e).words = w :: rest from hwords, hp]
      refine (if_pos hmay).trans ?_
      have hbit : (if y.peer.getLsbD 7 then 1 else 0) = y.peer.toNat / 2 ^ 7 % 2 := by
        rw [BitVec.getLsbD, Nat.testBit_eq_decide_div_mod_eq]
        have := Nat.mod_two_eq_zero_or_one (y.peer.toNat / 2 ^ 7)
        simp only [decide_eq_true_eq]
        split <;> omega
      have hpkg : (useSlot (lay / 8) p u).pkg = s.pkg := useSlot_pkg p u
      have hname : eyeletName (useSlot (lay / 8) p u) lay e = eyeletName s lay e := by
        unfold eyeletName
        rw [hpkg]
      change (.next (if y.peer.extractLsb' 8 8 = (useSlot (lay / 8) p u).pkg then
        (useSlot (lay / 8) p u).updTower (y.peer.toNat / 2 ^ 7 % 2) (fun t => { t with
          shortQ := t.shortQ ++ [((useSlot (lay / 8) p u).pkg, .word y.peer (eyeletName (useSlot (lay / 8) p u) lay e) w)] })
        else useSlot (lay / 8) p u) : Res) = _
      rw [hbit, hpkg, hname]
    · change execEyeletWordSend lay e s = _
      have hnone : (upto 8).find? (fun p => freeSlot s (lay / 8) p (sourceOf s (lay / 8))) = none :=
        List.find?_eq_none.mpr fun p hp => by simp [hno p (List.mem_range.mp hp)]
      simp only [execEyeletWordSend]
      rw [show (mapGet .reset (s.layerAt lay).eyelets e).words = w :: rest from hwords, hnone]
  · intro s tw p src hfree
    refine ⟨?_, fun src' => freeSlot_useSlot p src'⟩
    rw [freeSlot, Bool.and_eq_true] at hfree
    exact beq_iff_eq.mp hfree.1
  · intro s lay e w src y hen hdir hroom
    change execEyeletWordArrival lay e _ s = _
    have hmay : (y.en && !y.dir && decide (y.words.length < 16)) = true := by simp [hen, hdir, hroom]
    exact if_pos hmay
  · intro s lay e y hdir hcredit
    change execEyeletCredit lay e s = _
    have hmay : (y.dir && decide (y.credit < 16)) = true := by simp [hdir, hcredit]
    exact if_pos hmay
  · intro s tw b c lay howner hpower hfailing hbeats hupd hreqs hcell hready
    obtain ⟨n, hready, hn⟩ := hready
    obtain ⟨u, hslot, htowers, hnone⟩ := layerSlot_of_beat (tw := tw) hpower hfailing hbeats hupd hreqs hcell hready hn
    refine ⟨_, (if_pos howner).trans (congrArg _ hslot), hnone, ?_⟩
    rw [pushSlot, State.updTower_towerAt_same, towerAt_congr htowers]
  · intro s tw q c howner hcopy hdeliver hreqs hcell
    obtain ⟨u, hslot, hr, ht⟩ := baseSlot_of_row (c := c) hcopy hdeliver hreqs hcell
    have hexec : exec (.stackBusSlot tw) s = .next (baseSlot tw c s) := by
      change execStackBusSlot tw s = _
      have hno : ¬ slotOwner (s.towerAt tw) ((s.towerAt tw).cycle % 256) < 8 := by
        rw [show _ = 8 from howner]
        decide
      exact (if_neg hno).trans (if_pos howner)
    refine ⟨_, hexec.trans (congrArg _ hslot), hr, ?_, ?_⟩
    · rw [pushSlot, State.updTower_towerAt_same, ht]
    · rw [pushSlot, State.updTower_towerAt_same, ht]
  · intro s tw b x hslots hcycle hbeats hupd hsent
    have hretry : assertRetry tw 0 false s = s := assertRetry_of_none _ _ (by
      rw [hslots]
      exact List.find?_eq_none.mpr fun y hy => by
        have := List.mem_singleton.mp hy
        simp [this, ← hcycle])
    have hexec : exec (.stackBeatApply tw 0 false) s = .next (settleReleased (applySlot tw s)) := by
      change (.next (settleReleased (applySlot tw (assertRetry tw 0 false s))) : Res) = _
      rw [hretry]
    rw [hexec, applySlot_of_beats hslots hcycle hupd hsent, hbeats]
    refine ⟨fun hgood => ?_, fun hbad => ?_⟩
    · simp only [List.filter_cons, hgood, Bool.not_false, if_true, List.filter_nil, List.foldl_cons, List.foldl_nil]
    · simp only [List.filter_cons, hbad, Bool.not_true, Bool.false_eq_true, if_false, List.filter_nil, List.foldl_nil]
  · intro s tw b bad flags hslots hcycle hcols hflags hsome
    have hretry := assertRetry_of_slot hslots hcycle hcols hflags hsome
    let g := fun t : Tower => { t with busSlots := [{ b with badCols := bad, badFlags := flags }] }
    let v := s.updTower tw g
    obtain ⟨hsame, _⟩ := sendAgain_frame (tw := tw) (s := s) b bad flags (g := g) fun _ => rfl
    obtain ⟨_, hsl, hcy, hre⟩ := sendAgain_frame (tw := tw) (s := v) b bad flags (g := id) fun _ => rfl
    obtain ⟨hlayers, hreqs, hdeliver, hbus, hnow, hcount⟩ := foldl_countRetry (tw := tw) bad 64 (sendAgain tw b bad flags v)
    have hv : v.towerAt tw = g (s.towerAt tw) := State.updTower_towerAt_same ..
    have hbus' := (hbus.trans hsl).trans (congrArg Tower.busSlots hv)
    refine ⟨_, sendAgain tw b bad flags s, ?_, hbus', rfl, hlayers.trans hsame.layers, hreqs.trans hsame.reqs,
      hdeliver.trans hsame.deliver, fun k hk => ?_⟩
    · change (.next (settleReleased (applySlot tw (assertRetry tw bad flags s))) : Res) = _
      have hlate : b.cycle + 6 ≠ (s.towerAt tw).cycle := by omega
      rw [hretry, applySlot_of_none]
      rw [hbus', hnow, hcy, hv]
      exact List.find?_eq_none.mpr fun y hy => by
        rw [List.mem_singleton.mp hy]
        simpa using hlate
    · rw [hcount k, hre, hv, if_congr (and_iff_right hk) rfl rfl]
  · intro s tw b bad flags again u
    refine ⟨fun hbase hpower hfailing => ?_, fun hbase h => sendAgain_of_dropped bad flags hbase h, fun hbase => ?_⟩
    · have hu : u = _ := sendAgain_of_layer bad flags hbase hpower hfailing
      rw [hu]
      exact ⟨State.updLayer_reqs .., State.updLayer_layerAt_same ..⟩
    · by_cases hcopy : b.copy = none ∨ bad = 0
      · have hu : u = _ := sendAgain_of_rows bad flags hbase hcopy
        rw [hu]
        refine ⟨rfl, ?_, fun l hl hbad => ?_⟩
        · rw [rowsBack, State.updTower_towerAt_same]
          rfl
        · rw [hl] at hcopy
          exact absurd hcopy (not_or.mpr ⟨Option.some_ne_none l, hbad⟩)
      · obtain ⟨hsome, hbad⟩ := not_or.mp hcopy
        obtain ⟨l, hl⟩ := Option.ne_none_iff_exists'.mp hsome
        have hu : u = _ := sendAgain_of_copy flags hbase hl hbad
        rw [hu]
        refine ⟨rfl, ?_, fun l' hl' _ => ?_⟩
        · rw [State.updLayer_towerAt, rowsBack, State.updTower_towerAt_same]
          rfl
        · obtain rfl : l = l' := Option.some.inj (hl.symm.trans hl')
          rw [State.updLayer_layerAt_same]
          rfl
  · intro s tw x i
    refine ⟨?_, fun hi m base => (beatBytes_prefix x base m 32 i).trans (if_congr (and_iff_right hi) rfl rfl)⟩
    rw [towerAt_congr (applyBeat_frame x s).1, State.updTower_towerAt_same]

end


section
/-!
PROOF. Plans, sends, flits and their ingress, and the short network (R203, R204, R453 to R462).
-/

namespace Sys2Proof.Proofs

open Sys2Proof.Machine Sys2Proof.Claims

variable {s : State} {tw f : Nat}

/-- Two updates of a tower are one where they make the same of it. -/
theorem updTower_congr {k : Nat} {g h : Tower → Tower} (hgh : g (s.towerAt k) = h (s.towerAt k)) : s.updTower k g = s.updTower k h := by
  unfold State.updTower
  rw [hgh]

/-! ### Links -/

theorem linkAt_setLink_same (s : State) (t f : Nat) (l : Link) : (s.setLink t f l).linkAt t f = l := by
  simp only [State.linkAt, State.setLink, State.updTower_towerAt_same, mapGet_mapSet_same]

theorem linkAt_updLink_same (s : State) (t f : Nat) (g : Link → Link) : (s.updLink t f g).linkAt t f = g (s.linkAt t f) :=
  linkAt_setLink_same ..

theorem linkAt_setLink_ne (s : State) {t f u g : Nat} (l : Link) (h : ¬ (u = t ∧ g = f)) :
    (s.setLink t f l).linkAt u g = s.linkAt u g := by
  unfold State.linkAt State.setLink
  by_cases hu : t = u
  · subst hu
    rw [State.updTower_towerAt_same, mapGet_mapSet_ne _ _ _ fun hg => h ⟨rfl, hg.symm⟩]
  · rw [State.updTower_towerAt_ne _ _ hu]

/-- What holds of a link's old and new contents alike holds of any link after it is set. -/
theorem linkAt_setLink_congr {α : Type} (s : State) (t f u g : Nat) {l : Link} (p : Link → α) (h : p l = p (s.linkAt t f)) :
    p ((s.setLink t f l).linkAt u g) = p (s.linkAt u g) := by
  by_cases hug : u = t ∧ g = f
  · obtain ⟨rfl, rfl⟩ := hug
    rw [linkAt_setLink_same, h]
  · rw [linkAt_setLink_ne s l hug]

theorem linkAt_congr {t : State} (h : t.towers = s.towers) (u g : Nat) : t.linkAt u g = s.linkAt u g :=
  congrArg (fun m => mapGet _ (Tower.links (mapGet _ m u)) g) h

theorem linkAt_updTower (s : State) (k u g : Nat) {h : Tower → Tower} (hl : ∀ t, (h t).links = t.links) :
    (s.updTower k h).linkAt u g = s.linkAt u g := by
  unfold State.linkAt
  by_cases hk : k = u
  · subst hk
    rw [State.updTower_towerAt_same, hl]
  · rw [State.updTower_towerAt_ne _ _ hk]

/-- What a link arrives at is unchanged by a flag update that arrives. -/
theorem arriveFlag_towers (lay cls at_ : Nat) (set : Bool) (i : BitVec 9) (v : DWord) (s : State) :
    (arriveFlag lay cls at_ set i v s).towers = s.towers := rfl

/-- An update that arrives is the last of its layer's. -/
theorem arriveFlag_updates (lay cls at_ : Nat) (set : Bool) (i : BitVec 9) (v : DWord) (s : State) :
    ∃ u ∈ ((arriveFlag lay cls at_ set i v s).layerAt lay).updates, u.set = set ∧ u.idx = i ∧ u.v = v := by
  unfold arriveFlag
  simp only [State.updLayer_layerAt_same]
  exact ⟨_, List.mem_append_right _ List.mem_cons_self, rfl, rfl, rfl⟩

/-! ### Plans -/

theorem departTick_of_missed {e : Released} {x : Transfer} (h : x.depart + x.slack < e.tick) : departTick e x = none := by
  simp only [departTick, if_neg (show ¬ e.tick ≤ x.depart by omega), if_neg (show ¬ e.tick ≤ x.depart + x.slack by omega)]

theorem departTick_of_ready {e : Released} {x : Transfer} {d : Nat}
    (h : (e.tick ≤ x.depart ∧ d = x.depart) ∨ (x.depart < e.tick ∧ e.tick ≤ x.depart + x.slack ∧ d = e.tick)) :
    departTick e x = some d := by
  obtain ⟨hready, rfl⟩ | ⟨hlate, hslack, rfl⟩ := h
  · exact if_pos hready
  · rw [departTick, if_neg (show ¬ e.tick ≤ x.depart by omega), if_pos hslack]

/-! ### Reads -/

theorem noteRetired_frame (pa : Nat) (s : State) : (noteRetired pa s).reqs = s.reqs ∧ (noteRetired pa s).tick = s.tick ∧
    ∀ u g, (noteRetired pa s).linkAt u g = s.linkAt u g := by
  unfold noteRetired countTel
  exact ⟨State.updTower_reqs .., rfl, fun u g => linkAt_updTower s _ u g fun _ => rfl⟩

/-- Counting the retired lines that a port has met changes the telemetry alone. -/
theorem countRetired_frame (tower : Nat) (o : BitVec 24) (off n : Nat) (asid : BitVec 12) (write : Bool) (s : State) :
    (countRetired tower o off n asid write s).reqs = s.reqs ∧ (countRetired tower o off n asid write s).tick = s.tick ∧
      ∀ u g, (countRetired tower o off n asid write s).linkAt u g = s.linkAt u g := by
  unfold countRetired
  split
  · refine List.foldlRecOn (motive := fun t : State => t.reqs = s.reqs ∧ t.tick = s.tick ∧ ∀ u g, t.linkAt u g = s.linkAt u g)
      _ _ ⟨rfl, rfl, fun _ _ => rfl⟩ fun t ht r _ => ?_
    split
    · obtain ⟨hreqs, htick, hlinks⟩ := noteRetired_frame ‹Nat› t
      exact ⟨hreqs.trans ht.1, htick.trans ht.2.1, fun u g => (hlinks u g).trans (ht.2.2 u g)⟩
    · exact ht
  · exact ⟨rfl, rfl, fun _ _ => rfl⟩

/-- A read that no request of its own waits for, of an object of this package, serves its effect with its bytes (R502). -/
theorem portRead_of_bytes {e : Released} {o : BitVec 24} {off n : Nat} {b : List Byte} {p : Bool}
    (k : List Byte → Bool → State → State) (hno : ∀ q ∈ s.reqs, q.eff = e.id → q.kind ≠ .recordRead)
    (hremote : objRemote s o = false) (hread : readObj s (e.lay / 8) o off n (asidOf s e.ctxKey) = .bytes b p) :
    portRead e o off n k s = k b p (countRetired (e.lay / 8) o off n (asidOf s e.ctxKey) false s) := by
  have hnone : s.reqs.any (fun q => q.eff == e.id && q.kind == .recordRead && !q.answered) = false :=
    List.any_eq_false.mpr fun q hq => by
      by_cases he : q.eff = e.id
      · simp [hno q hq he]
      · simp [he]
  have hpages : ∀ t : State, t.reqs = s.reqs → dropPages e t = t := fun t ht => by
    unfold dropPages
    refine withReqs_eq_self (List.filter_eq_self.mpr fun q hq => ?_)
    rw [ht] at hq
    by_cases he : q.eff = e.id
    · simp [hno q hq he]
    · simp [he]
  simp only [portRead, hnone, Bool.false_eq_true, if_false, hread, hremote]
  rw [hpages _ (countRetired_frame ..).1]

/-! ### Flits -/

theorem length_crypt (key : BitVec 256) (iv : BitVec 96) (b : List Byte) : (crypt key iv b).length = b.length := by
  simp [crypt]

theorem length_flitHeader (x : Flit) : (flitHeader x).length = 16 := by
  simp [flitHeader]

/-- What a flit that is refused does. -/
theorem acceptFlit_of_refused {x : Flit} (hf : f < 24) (h : (s.linkAt tw f).refuses x = true) : acceptFlit tw f x s = s := by
  simp only [acceptFlit, hf, decide_true, h, Bool.and_self, if_true]

theorem acceptFlit_of_failed {x : Flit} (hf : f < 24) (h : (s.linkAt tw f).refuses x = false)
    (hcheck : checksOut tw f (s.linkAt tw f).rxKeys x = false) : acceptFlit tw f x s = failCheck tw f x s := by
  simp only [acceptFlit, hf, decide_true, h, Bool.and_false, Bool.false_eq_true, if_false, hcheck, Bool.not_false, if_true]

theorem acceptFlit_of_hop {x : Flit} {hop : Nat × Nat} {rest : List (Nat × Nat)} (hf : f < 24)
    (h : (s.linkAt tw f).refuses x = false) (hcheck : checksOut tw f (s.linkAt tw f).rxKeys x = true) (hroute : x.route = hop :: rest) :
    acceptFlit tw f x s = forward hop rest true (openFlit tw f (s.linkAt tw f).rxKeys x)
      (s.setLink tw f ((s.linkAt tw f).took x)) := by
  have hopen : (openFlit tw f (s.linkAt tw f).rxKeys x).route = hop :: rest := hroute
  simp only [acceptFlit, hf, decide_true, h, Bool.and_false, Bool.false_eq_true, if_false, hcheck, Bool.not_true, if_true, hopen]

theorem acceptFlit_of_arrived {x : Flit} (hf : f < 24) (h : (s.linkAt tw f).refuses x = false)
    (hcheck : checksOut tw f (s.linkAt tw f).rxKeys x = true) (hroute : x.route = []) :
    acceptFlit tw f x s = bufferFlit tw f (openFlit tw f (s.linkAt tw f).rxKeys x)
      (s.setLink tw f ((s.linkAt tw f).took x)) := by
  have hopen : (openFlit tw f (s.linkAt tw f).rxKeys x).route = [] := hroute
  simp only [acceptFlit, hf, decide_true, h, Bool.and_false, Bool.false_eq_true, if_false, hcheck, Bool.not_true, if_true, hopen]

/-- A flit in turn has the sequence number that its receiver expects. -/
theorem seq_of_not_refused {l : Link} {x : Flit} (h : l.refuses x = false) : l.expectQ = x.q := by
  rw [Link.refuses, Bool.or_eq_false_iff] at h
  exact (bne_eq_false_iff_eq.mp h.2).symm

/-- What the receiver of a flit keeps of its link as it was. -/
theorem took_carries (l : Link) (x : Flit) : (l.took x).carries = l.carries := rfl

/-- An arrived flit that finds room waits in the buffer (R458). -/
theorem bufferFlit_of_room {x : Flit} (hdropped : x.xfer ∉ (s.linkAt tw f).dropped) (hroom : (s.linkAt tw f).inbound.length < 1792) :
    ∃ l, bufferFlit tw f x s = s.setLink tw f l ∧ l.inbound = (s.linkAt tw f).inbound ++ [x] ∧ l.ovf = (s.linkAt tw f).ovf ∧
      l.expectQ = (s.linkAt tw f).expectQ ∧ l.fails = (s.linkAt tw f).fails ∧ l.replayAsk = (s.linkAt tw f).replayAsk ∧
      l.rxKeys = (s.linkAt tw f).rxKeys := by
  have hno : (s.linkAt tw f).dropped.contains x.xfer = false := by simpa using hdropped
  have hfull : ¬ (f < 24 ∧ bufferFlits ≤ (s.linkAt tw f).inbound.length) := fun h => absurd h.2 (Nat.not_le.mpr hroom)
  simp only [bufferFlit, hno, Bool.false_eq_true, if_false, hfull]
  exact ⟨_, rfl, rfl, rfl, rfl, rfl, rfl, rfl⟩

/-- An arrived flit that finds none is dropped, counted, and poisons its counter (R458). -/
theorem bufferFlit_of_full {x : Flit} (hf : f < 24) (hdropped : x.xfer ∉ (s.linkAt tw f).dropped)
    (hfull : 1792 ≤ (s.linkAt tw f).inbound.length) :
    ∃ l, bufferFlit tw f x s = countBytes { x with last := false } 0 true (s.setLink tw f l) ∧
      l.inbound = (s.linkAt tw f).inbound ∧
      l.ovf = (if (s.linkAt tw f).ovf = BitVec.allOnes 8 then (s.linkAt tw f).ovf else (s.linkAt tw f).ovf + 1) ∧
      l.expectQ = (s.linkAt tw f).expectQ ∧ l.fails = (s.linkAt tw f).fails ∧ l.replayAsk = (s.linkAt tw f).replayAsk ∧
      l.rxKeys = (s.linkAt tw f).rxKeys := by
  have hno : (s.linkAt tw f).dropped.contains x.xfer = false := by simpa using hdropped
  have hyes : f < 24 ∧ bufferFlits ≤ (s.linkAt tw f).inbound.length := ⟨hf, hfull⟩
  simp only [bufferFlit, hno, Bool.false_eq_true, if_false]
  rw [if_pos hyes]
  exact ⟨_, rfl, rfl, rfl, rfl, rfl, rfl, rfl⟩

/-- The eighth check in a row that fails: the lane that carried the flit has failed (R454). -/
theorem failCheck_of_eighth {x : Flit} {k : Nat} (hfails : (s.linkAt tw f).fails = 7) (hlane : (s.linkAt tw f).laneOf x.q = some k) :
    ∃ u, failCheck tw f x s = loseLane tw f k u ∧
      u.linkAt tw f = { s.linkAt tw f with fails := 0, replayAsk := some x.q } := by
  have hno : ¬ (s.linkAt tw f).fails + 1 < 8 := by omega
  simp only [failCheck, if_neg hno, hlane]
  exact ⟨_, rfl, by rw [linkAt_updLink_same, linkAt_setLink_same]⟩

theorem countBytes_towers (x : Flit) (n : Nat) (p : Bool) (s : State) : (countBytes x n p s).towers = s.towers :=
  arriveFlag_towers ..

/-! ### Missed sends -/

theorem controllerFlag_ctxs (tower : Nat) (home : BitVec 21) (v : DWord) (s : State) :
    (controllerFlag tower home v s).ctxs = s.ctxs := by
  unfold controllerFlag
  exact iteInduction (motive := fun u : State => u.ctxs = s.ctxs) (fun _ => rfl) fun _ =>
    iteInduction (motive := fun u : State => u.ctxs = s.ctxs) (fun _ => rfl) fun _ => rfl

theorem setReleased_ctxAt (e : Released) (s : State) (k : Nat) : (setReleased e s).ctxAt k = s.ctxAt k := rfl

/-- What a missed SEND leaves of the issuing task's context (R204). -/
theorem missSend_ctxAt {e : Released} (x : Transfer) (hkey : e.ctxKey < 128) :
    (missSend e x s).ctxAt e.ctxKey = { s.ctxAt e.ctxKey with
      miss := true
      mcount := if (s.ctxAt e.ctxKey).mcount = BitVec.allOnes 16 then (s.ctxAt e.ctxKey).mcount
        else (s.ctxAt e.ctxKey).mcount + 1 } := by
  unfold missSend
  rw [ctxAt_congr (controllerFlag_ctxs ..), if_pos hkey, setReleased_ctxAt, State.updCtx_ctxAt_same]

/-- A missed SEND whose counter is at home in its tower adds the poison to the layer's updates (R204). -/
theorem missSend_updates {e : Released} {x : Transfer} (hpkg : flagPkg x.ctr = s.pkg) (hlayer : flagLayer x.ctr / 8 = e.lay / 8) :
    ∃ u ∈ ((missSend e x s).layerAt (flagLayer x.ctr)).updates,
      u.set = false ∧ u.idx = flagIdx x.ctr ∧ u.v = BitVec.ofNat 64 (2 ^ 63) := by
  have hhere : ∀ t : State, t.pkg = s.pkg → controllerFlag (e.lay / 8) x.ctr poisonAdd t =
      arriveFlag (flagLayer x.ctr) 3 ((t.towerAt (e.lay / 8)).cycle + 1) false (flagIdx x.ctr) poisonAdd t := fun t ht => by
    unfold controllerFlag
    rw [ht, hpkg, hlayer]
    simp only [bne_self_eq_false, Bool.false_eq_true, if_false]
  unfold missSend
  rw [hhere]
  · exact arriveFlag_updates ..
  · exact iteInduction (motive := fun u : State => u.pkg = s.pkg) (fun _ => rfl) fun _ => rfl

/-- Counted bytes with poison add it to the counter's updates. -/
theorem countBytes_updates_of_poison (x : Flit) (n : Nat) (s : State) :
    ∃ u ∈ ((countBytes x n true s).layerAt (flagLayer x.ctr)).updates,
      u.set = false ∧ u.idx = flagIdx x.ctr ∧ u.v = BitVec.ofNat 64 (n + 2 ^ 63) :=
  arriveFlag_updates ..

/-! ### The ingress -/

theorem writeMem_towers (b : List Byte) : ∀ (pa : Nat) (s : State), (writeMem pa b s).towers = s.towers := by
  induction b with
  | nil => exact fun _ _ => rfl
  | cons x b ih =>
    intro pa s
    rw [writeMem, ih]
    rfl

theorem writePlaced_towers (ws : List (Nat × Where × List Byte)) (s : State) : (writePlaced ws s).towers = s.towers := by
  unfold writePlaced
  refine List.foldlRecOn (motive := fun t : State => t.towers = s.towers) _ _ rfl fun t ht w _ => ?_
  split
  · rw [writeMem_towers, ht]
  · exact ht

theorem endTransfer_towers (x : Flit) (s : State) : (endTransfer f x s).towers = s.towers := by
  unfold endTransfer
  split
  · split
    · split <;> rfl
    · rfl
  · rfl

theorem memByte_congr {t : State} (h : t.mem = s.mem) (a : Nat) : t.memByte a = s.memByte a :=
  congrArg (fun m => mapGet 0 m a) h

/-- A byte of written data reads as written. -/
theorem memByte_writeMem_of_getElem {d : List Byte} {j : Nat} {b : Byte} (pa : Nat) (s : State) (h : d[j]? = some b) :
    (writeMem pa d s).memByte (pa + j) = b := by
  obtain ⟨hj, rfl⟩ := List.getElem?_eq_some_iff.mp h
  rw [memByte_writeMem, if_pos ⟨Nat.le_add_right _ _, Nat.add_lt_add_left hj _⟩, Nat.add_sub_cancel_left, List.getD_eq_getElem _ _ hj]

theorem memByte_writeMem_of_outside {d : List Byte} {pa a : Nat} (s : State) (h : ¬ (pa ≤ a ∧ a < pa + d.length)) :
    (writeMem pa d s).memByte a = s.memByte a := by
  rw [memByte_writeMem, if_neg h]

/-- What stands in the place of a flit's bytes whose pages are all there: they are written, and the flit leaves its buffer (R458). -/
theorem ingressWrite_of_placed {x : Flit} {ws : List (Nat × Where × List Byte)}
    (hws : (flitRuns s x).map (fun r => (r.1, locate s tw x.obj r.1 x.asid true, r.2)) = ws)
    (hplaced : ∀ w ∈ ws, ∃ pa l, w.2.1 = .at_ pa l) :
    ((ingressWrite tw f x s).linkAt tw f).inbound = (s.linkAt tw f).inbound.tail ∧
      ∃ u : State, u.mem = s.mem ∧ (ingressWrite tw f x s).mem = (writePlaced ws u).mem := by
  have hhere : ws.find? (fun w => match w.2.1 with | .policy 0 _ _ _ | .host => true | _ => false) = none :=
    List.find?_eq_none.mpr fun w hw => by
      obtain ⟨pa, l, h⟩ := hplaced w hw
      simp [h]
  have hlive : ws.find? (fun w => match w.2.1 with | .policy 3 _ _ _ => true | _ => false) = none :=
    List.find?_eq_none.mpr fun w hw => by
      obtain ⟨pa, l, h⟩ := hplaced w hw
      simp [h]
  let v := dropAsked x.obj x.asid (countRetired tw x.obj x.off x.data.length x.asid true s)
  let u := v.updLink tw f (fun l => { l with inbound := l.inbound.tail })
  let pois := ws.any (fun w => match w.2.1 with | .policy 2 _ _ _ | .retired _ => true | _ => false)
  have hwrite : ingressWrite tw f x s = endTransfer f x (countBytes x x.data.length pois (writePlaced ws u)) := by
    unfold ingressWrite
    dsimp only
    rw [hws]
    generalize hg : ws.find? _ = first
    obtain rfl : first = none := hg.symm.trans hhere
    dsimp only
    generalize hg : ws.find? _ = second
    obtain rfl : second = none := hg.symm.trans hlive
    rfl
  have hlinks : v.linkAt tw f = s.linkAt tw f := (countRetired_frame ..).2.2 tw f
  rw [hwrite]
  refine ⟨?_, u, ?_, ?_⟩
  · have hu : u.linkAt tw f = _ := linkAt_updLink_same v tw f _
    rw [linkAt_congr ((endTransfer_towers ..).trans ((countBytes_towers ..).trans (writePlaced_towers ..))), hu, hlinks]
  · rw [State.updLink_mem, dropAsked_mem, countRetired_mem]
  · rw [endTransfer_mem, countBytes_mem]

/-- The ingress writes the oldest flit that waits. -/
theorem execFlitArrival_of_waiting {x : Flit} {rest : List Flit} (h : (s.linkAt tw f).inbound = x :: rest) :
    exec (.flitArrival tw f none) s = .next (ingressWrite tw f x s) := by
  change execFlitArrival tw f none s = _
  simp only [execFlitArrival, h]

/-! ### Packets -/

theorem shortNext_of_taken {port : Nat} (h : ∀ src, freeSlot s tw port src = false) : shortNext s tw port = none :=
  List.find?_eq_none.mpr fun m _ => by simp [h]

/-- A port whose slot no source of its tower's messages owns sends nothing (R459). -/
theorem sendShort_of_taken {port : Nat} (h : ∀ src, freeSlot s tw port src = false) : sendShort tw port s = s := by
  unfold sendShort
  rw [h, shortNext_of_taken h]
  cases (s.towerAt tw).credits <;> rfl

/-- A credit that leaves takes the slot; one for this package is on its way (R460). -/
theorem sendCredit_eq {port : Nat} {peer : BitVec 16} {rest : List (BitVec 16)} (hcredits : (s.towerAt tw).credits = peer :: rest) :
    sendCredit tw port peer s =
      let u := useSlot tw port (s.updTower tw (fun t => { t with credits := rest }))
      if peer.extractLsb' 8 8 = s.pkg then u.updTower (peer.toNat / 2 ^ 7 % 2) (fun t => { t with
        shortQ := t.shortQ ++ [(s.pkg, .credit (8 * (peer.toNat / 2 ^ 7 % 2) + peer.toNat / 2 ^ 4 % 8) (peer.toNat % 16))] })
      else u := by
  have htail : s.updTower tw (fun t => { t with credits := t.credits.tail }) = s.updTower tw (fun t => { t with credits := rest }) :=
    updTower_congr (by rw [hcredits, List.tail_cons])
  have hpkg : ∀ t : Tower → Tower, (useSlot tw port (s.updTower tw t)).pkg = s.pkg := fun t => useSlot_pkg port _
  simp only [sendCredit, htail, hpkg]

/-- A port with a credit to send, in a slot of its package, sends it. -/
theorem sendShort_of_credit {port : Nat} {peer : BitVec 16} {rest : List (BitVec 16)} (hcredits : (s.towerAt tw).credits = peer :: rest)
    (hown : freeSlot s tw port (sourceOf s tw) = true) : sendShort tw port s = sendCredit tw port peer s := by
  simp only [sendShort, hcredits, hown]

/-- A port without a credit to send, or without a slot of its package, sends the message whose source owns the slot. -/
theorem sendShort_of_message {port : Nat} (h : (s.towerAt tw).credits = [] ∨ freeSlot s tw port (sourceOf s tw) = false)
    {m : BitVec 8 × ShortMsg} (hnext : shortNext s tw port = some m) :
    sendShort tw port s = useSlot tw port (s.updTower tw (fun t => { t with shortQ := t.shortQ.erase m })) := by
  unfold sendShort
  obtain h | h := h
  · rw [h, hnext]
  · rw [h, hnext]
    cases (s.towerAt tw).credits <;> rfl

/-- Every message does what it does where it arrives. -/
theorem deliverMsg_next (m : ShortMsg) (s : State) : ∃ t, deliverMsg tw m s = .next t := by
  cases m with
  | flag set homes v => exact ⟨_, rfl⟩
  | word peer src w =>
    simp only [deliverMsg, execEyeletWordArrival]
    split <;> exact ⟨_, rfl⟩
  | credit lay e =>
    simp only [deliverMsg, execEyeletCredit]
    split <;> exact ⟨_, rfl⟩
  | gang kind gid gmi gcnt from_ tick =>
    simp only [deliverMsg]
    split
    · unfold execGangReady
      dsimp only
      refine iteInduction (motive := fun r : Res => ∃ t, r = .next t) (fun _ => ⟨_, rfl⟩) fun _ => ?_
      refine iteInduction (motive := fun r : Res => ∃ t, r = .next t) (fun _ => ⟨_, rfl⟩) fun _ => ?_
      exact iteInduction (motive := fun r : Res => ∃ t, r = .next t) (fun _ => ⟨_, rfl⟩) fun _ => ⟨_, rfl⟩
    all_goals exact ⟨_, rfl⟩
  | fragment x p => exact ⟨_, rfl⟩

end Sys2Proof.Proofs

open Sys2Proof Sys2Proof.Machine Sys2Proof.Claims Sys2Proof.Proofs

/-- Settles O35: a flit that waits is at its pages, so its bytes are written where they are found and nowhere else. -/
theorem fabricEvents : Obligations.FabricEvents := by
  refine ⟨?_, ?_, ?_, ?_, ?_, ?_, ?_, ?_, ?_, ?_, ?_, ?_, ?_⟩
  · intro s n b lg harm hn hlow hhigh
    change execPlctlArm n b lg s = _
    have hok : ¬ ((s.plArm || decide (n = 0) || decide (lg.toNat < 14) || decide (24 < lg.toNat)) = true) := by
      simp only [harm, Bool.false_or, Bool.or_eq_true, decide_eq_true_eq]
      rintro ((h | h) | h)
      · exact hn h
      · omega
      · omega
    exact if_neg hok
  · intro s p lg hnext harm htick
    change execPlanSwitch s = _
    simp only [execPlanSwitch, hnext, harm, htick, decide_true, Bool.and_self, if_true]
  · intro s tick
    refine ⟨fun h => if_pos h, fun n p lg rest hpast hlt hn => ?_⟩
    simp only [planAt, if_neg (Nat.not_le.mpr hlt), hpast, List.find?_cons, hn, decide_true]
  · intro s e x b p hfind htransfer hphase hno hremote hread
    change execSendReady e.id s = _
    simp only [execSendReady, hfind, htransfer, hphase, if_true, portRead_of_bytes _ hno hremote hread, (countRetired_frame ..).2.1]
  · intro s e x hfind htransfer hphase
    refine ⟨fun hmiss => ?_, fun d hd hnow => ⟨fun hpkg => ?_, fun hpkg => ?_⟩⟩
    · change execSendDepart e.id s = _
      simp only [execSendDepart, hfind, htransfer, hphase, if_true, departTick_of_missed hmiss]
    · change execSendDepart e.id s = _
      simp only [execSendDepart, hfind, htransfer, hphase, if_true, departTick_of_ready hd, Nat.not_lt.mpr hnow, if_false, hpkg,
        BEq.rfl]
    · change execSendDepart e.id s = _
      simp only [execSendDepart, hfind, htransfer, hphase, if_true, departTick_of_ready hd, Nat.not_lt.mpr hnow, if_false,
        beq_eq_false_iff_ne.mpr hpkg, Bool.false_eq_true]
  · intro s e x hkey
    rw [missSend_ctxAt x hkey]
    exact ⟨rfl, fun h => if_neg h, fun hpkg hlayer => missSend_updates hpkg hlayer⟩
  · intro tw f keys x hlen
    simp only [flitWire, List.length_append, length_flitHeader, length_crypt, List.length_replicate, length_leBytes]
    omega
  · intro s tw f x hf l g
    refine ⟨fun h => ?_, fun h hcheck => ⟨fun hfails => ?_, fun k hfails hlane => ?_⟩, fun hop rest h hcheck hroute hcarries => ?_,
      fun h hcheck hroute hdropped => ?_⟩
    · exact congrArg Host.Outcome.next (acceptFlit_of_refused hf h)
    · refine congrArg Host.Outcome.next ((acceptFlit_of_failed hf h hcheck).trans ?_)
      exact if_pos (show (s.linkAt tw f).fails + 1 < 8 from Nat.succ_lt_succ hfails)
    · obtain ⟨u, hu, hlink⟩ := failCheck_of_eighth (x := x) (s := s) (tw := tw) (f := f) hfails hlane
      exact ⟨u, congrArg Host.Outcome.next ((acceptFlit_of_failed hf h hcheck).trans hu), hlink⟩
    · refine congrArg Host.Outcome.next ((acceptFlit_of_hop hf h hcheck hroute).trans ?_)
      have hstill : ((s.setLink tw f (l.took x)).linkAt hop.1 hop.2).carries = true :=
        (linkAt_setLink_congr s tw f hop.1 hop.2 Link.carries (took_carries _ x)).trans hcarries
      exact if_pos hstill
    · have hseq := seq_of_not_refused h
      let v := s.setLink tw f (l.took x)
      have hv : v.linkAt tw f = l.took x := linkAt_setLink_same ..
      have hin : g.xfer ∉ (v.linkAt tw f).dropped := by rw [hv]; exact hdropped
      have hexec : exec (.flitArrival tw f (some x)) s = .next (bufferFlit tw f g v) :=
        congrArg Host.Outcome.next (acceptFlit_of_arrived hf h hcheck hroute)
      by_cases hroom : l.inbound.length < 1792
      · obtain ⟨m, hm, hinbound, hovf, hq, hfails, hask, hkeys⟩ := bufferFlit_of_room hin (by rw [hv]; exact hroom)
        have hlink : (bufferFlit tw f g v).linkAt tw f = m := by rw [hm, linkAt_setLink_same]
        rw [hv] at hinbound hovf hq hfails hask hkeys
        refine ⟨_, hexec, ?_, ?_, ?_, ?_, fun _ => ⟨?_, ?_⟩, fun hfull => absurd hroom (Nat.not_lt.mpr hfull)⟩
        all_goals rw [hlink]
        · rw [hq, ← hseq]; rfl
        · exact hfails
        · exact hask
        · exact hkeys
        · exact hinbound
        · exact hovf
      · have hfull := Nat.not_lt.mp hroom
        obtain ⟨m, hm, hinbound, hovf, hq, hfails, hask, hkeys⟩ := bufferFlit_of_full hf hin (by rw [hv]; exact hfull)
        have hlink : (bufferFlit tw f g v).linkAt tw f = m := by
          rw [hm, linkAt_congr (countBytes_towers ..), linkAt_setLink_same]
        rw [hv] at hinbound hovf hq hfails hask hkeys
        refine ⟨_, hexec, ?_, ?_, ?_, ?_, fun h => absurd h hroom, fun _ => ⟨?_, fun hne => ?_, ?_⟩⟩
        · rw [hlink, hq, ← hseq]; rfl
        · rw [hlink]; exact hfails
        · rw [hlink]; exact hask
        · rw [hlink]; exact hkeys
        · rw [hlink]; exact hinbound
        · rw [hlink, hovf]; exact if_neg hne
        · rw [hm]
          exact countBytes_updates_of_poison ({ g with last := false }) 0 _
  · intro s tw f x rest pa l hin hruns hat
    obtain ⟨hinbound, u, hu, hmem⟩ := ingressWrite_of_placed (s := s) (tw := tw) (f := f) (x := x)
      (ws := [(x.off, .at_ pa l, x.data)]) (by rw [hruns, List.map_singleton, hat]) (by simp)
    rw [hin] at hinbound
    refine ⟨_, execFlitArrival_of_waiting hin, hinbound, fun j b hj => ?_, fun a ha => ?_⟩
    · rw [memByte_congr hmem]
      exact memByte_writeMem_of_getElem pa u hj
    · rw [memByte_congr hmem, ← memByte_congr hu]
      exact memByte_writeMem_of_outside u ha
  · intro s tw f x rest o1 d1 o2 d2 pa l pb m hin hruns hat hbt
    obtain ⟨hinbound, u, hu, hmem⟩ := ingressWrite_of_placed (s := s) (tw := tw) (f := f) (x := x)
      (ws := [(o1, .at_ pa l, d1), (o2, .at_ pb m, d2)]) (by simp only [hruns, List.map_cons, List.map_nil, hat, hbt]) (by simp)
    rw [hin] at hinbound
    refine ⟨_, execFlitArrival_of_waiting hin, hinbound, fun j b hj => ?_, fun j b hj hout => ?_, fun a h1 h2 => ?_⟩
    · rw [memByte_congr hmem]
      exact memByte_writeMem_of_getElem pb _ hj
    · rw [memByte_congr hmem]
      exact (memByte_writeMem_of_outside _ hout).trans (memByte_writeMem_of_getElem pa u hj)
    · rw [memByte_congr hmem, ← memByte_congr hu]
      exact (memByte_writeMem_of_outside _ h2).trans (memByte_writeMem_of_outside u h1)
  · intro s tw port hport y own
    have hexec : exec (.shortNetworkSlot tw port) s = .next (sendShort tw port s) := if_pos hport
    refine ⟨fun h => ?_, fun peer rest hcredits hown => ?_, fun m hno hnext => ⟨?_, ?_⟩⟩
    · rw [hexec, sendShort_of_taken h]
    · rw [hexec, sendShort_of_credit hcredits hown, sendCredit_eq hcredits]
    · rw [hexec, sendShort_of_message hno hnext]
    · have hfound := List.find?_some hnext
      simp only [Bool.and_eq_true, bne_iff_ne] at hfound
      obtain ⟨⟨hpkg, _⟩, hfree⟩ := hfound
      exact ⟨hpkg, List.mem_of_find?_eq_some hnext, hfree⟩
  · intro s tw m hm
    obtain ⟨t, ht⟩ := deliverMsg_next (tw := tw) m.2 (s.updTower tw (fun t => { t with shortQ := t.shortQ.erase m }))
    refine ⟨t, ?_, ht⟩
    change execShortNetworkSlot tw 8 s = _
    simp only [execShortNetworkSlot, if_neg (show ¬ 8 < 8 by decide), hm, ht]
  · intro s tw port k o hk
    refine ⟨_, rfl, ?_, fun j hj => ?_⟩
    · rw [State.updTower_towerAt_same, Nat.mod_eq_of_lt hk]
      exact mapGet_mapSet_same ..
    · rw [State.updTower_towerAt_same, Nat.mod_eq_of_lt hk, mapGet_mapSet_ne _ _ _ (Ne.symm hj)]

end


section
/-!
PROOF. The states of a link, its keys, replays and exchanges, and the servo of the tick counter (R454, R462 to R470).
-/

namespace Sys2Proof.Proofs

open Sys2Proof.Machine Sys2Proof.Claims

variable {s : State} {tw f : Nat}

/-! ### What an event makes of its link -/

/-- An event that updates one link takes it to what the update makes of it. -/
theorem linkGoes_of_updLink {i : Instr} {g : Link → Link} {l : Link} (hexec : exec i s = .next (s.updLink tw f g))
    (h : g (s.linkAt tw f) = l) : LinkGoes i tw f s l := by
  rw [LinkGoes, hexec, State.updLink, h]

theorem widthOf_eq (n : Nat) : widthOf n = min (n / 4) 4 := rfl

theorem widthOf_ne_zero {n : Nat} (h : 4 ≤ n) : widthOf n ≠ 0 := by
  rw [widthOf_eq]
  omega

theorem widthOf_eq_zero {n : Nat} (h : n < 4) : widthOf n = 0 := by
  rw [widthOf_eq]
  omega

/-- A link that goes Down is Down, and has nothing left to be acknowledged (R470). -/
theorem linkDown_linkAt : ((linkDown tw f s).linkAt tw f).state = .down ∧ ((linkDown tw f s).linkAt tw f).unacked = [] := by
  unfold linkDown
  refine List.foldlRecOn (motive := fun t : State => (t.linkAt tw f).state = .down ∧ (t.linkAt tw f).unacked = []) _ _ ?_
    fun t ht x _ => ?_
  · rw [linkAt_setLink_same]
    exact ⟨rfl, rfl⟩
  · rwa [linkAt_congr (countBytes_towers ..)]

/-- A lane lost on a link in use that keeps four narrows it, and what it has sent goes again (R454). -/
theorem loseLane_of_carries {k : Nat} (hstate : (s.linkAt tw f).state = .active ∨ (s.linkAt tw f).state = .narrowed)
    (hlanes : 4 ≤ laneCount (setBitTo (s.linkAt tw f).lanes k false)) :
    ∃ l, (loseLane tw f k s).linkAt tw f = l ∧ l.state = .narrowed ∧
      l.width = BitVec.ofNat 3 (min (laneCount (setBitTo (s.linkAt tw f).lanes k false) / 4) 4) ∧
      ∀ x rest, (s.linkAt tw f).unacked = x :: rest →
        l.replay = some (x.q, (s.linkAt tw f).nextQ) ∧ l.resend = some x.q := by
  have hdown : (s.linkAt tw f).state ≠ .down := by obtain h | h := hstate <;> simp [h]
  have htrain : (s.linkAt tw f).state ≠ .train := by obtain h | h := hstate <;> simp [h]
  have hcarries : (s.linkAt tw f).carries = true := by obtain h | h := hstate <;> simp [Link.carries, h]
  refine ⟨_, rfl, ?_⟩
  simp only [loseLane, hdown, htrain, widthOf_ne_zero hlanes, if_false, linkAt_updLink_same, linkAt_setLink_same]
  refine ⟨if_pos hcarries, rfl, fun x rest hx => ?_⟩
  rw [hx]
  exact ⟨rfl, rfl⟩

/-- A lane lost below four takes the link Down (R470). -/
theorem loseLane_of_few {k : Nat} (hdown : (s.linkAt tw f).state ≠ .down) (htrain : (s.linkAt tw f).state ≠ .train)
    (hlanes : laneCount (setBitTo (s.linkAt tw f).lanes k false) < 4) :
    loseLane tw f k s = linkDown tw f (s.setLink tw f { s.linkAt tw f with lanes := setBitTo (s.linkAt tw f).lanes k false }) := by
  simp only [loseLane, hdown, htrain, widthOf_eq_zero hlanes, if_false, if_true]

/-! ### Identities -/

/-- A port that presents an identity, among those beside a port, is another port. -/
theorem ne_of_mem_portsWith {dom : BitVec 6} {pkg : BitVec 8} {o : Nat × Nat × BitVec 32} (h : o ∈ portsWith s tw f dom pkg) :
    ¬ (o.1 = tw ∧ o.2.1 = f) := by
  unfold portsWith at h
  obtain ⟨u, _, hu⟩ := List.mem_flatMap.mp h
  obtain ⟨g, _, hg⟩ := List.mem_filterMap.mp hu
  split at hg
  · cases hg
  · rename_i hne
    split at hg
    · split at hg
      · cases hg
        exact hne
      · cases hg
    · cases hg

theorem quarantine_linkAt_same (t g : Nat) (s : State) : ((quarantine t g s).linkAt t g).state = .quarantined := by
  rw [quarantine, linkAt_updLink_same]

theorem quarantine_linkAt_ne {t g u h : Nat} (hne : ¬ (u = t ∧ h = g)) (s : State) : (quarantine t g s).linkAt u h = s.linkAt u h := by
  rw [quarantine, State.updLink, linkAt_setLink_ne _ _ hne]

/-- A record that verifies makes the link Active or Narrowed, and clashes with the ports that present its identity (R463, R464). -/
theorem execIdentify_of_ok {r : Identity} (hstate : (s.linkAt tw f).state = .identify) (hok : identityOk s r = true) :
    execIdentify tw f r.dom r.pkg r.count r.toIdentityProof s =
      .next ((portsWith s tw f r.dom r.pkg).foldl (fun s o =>
        if o.2.2.toNat < r.count.toNat then quarantine o.1 o.2.1 s
        else if r.count.toNat < o.2.2.toNat then quarantine tw f s
        else alarm 464 (quarantine tw f (quarantine o.1 o.2.1 s)))
        (s.setLink tw f { s.linkAt tw f with
          ident := some (r.dom, r.pkg, r.count), state := if (s.linkAt tw f).width = 4 then .active else .narrowed })) := by
  have hwidth : ((s.linkAt tw f).width.toNat = 4) = ((s.linkAt tw f).width = 4) := by
    simp [BitVec.toNat_eq]
  simp only [execIdentify, hstate, bne_self_eq_false, Bool.false_eq_true, if_false]
  rw [show ({ r.toIdentityProof with dom := r.dom, pkg := r.pkg, count := r.count } : Identity) = r from rfl, hok]
  simp only [Bool.not_true, Bool.false_eq_true, if_false, hwidth]

/-! ### Time -/

theorem isUpstream_setLink (t g u h : Nat) (l : Link) : isUpstream (s.setLink t g l) u h = isUpstream s u h := rfl

theorem isUpstream_updTower (k u h : Nat) (g : Tower → Tower) : isUpstream (s.updTower k g) u h = isUpstream s u h := rfl

theorem dsplit_setLink (t g u : Nat) (l : Link) : ((s.setLink t g l).towerAt u).dsplit = (s.towerAt u).dsplit := by
  unfold State.setLink
  by_cases hu : t = u
  · subst hu
    rw [State.updTower_towerAt_same]
  · rw [State.updTower_towerAt_ne _ _ hu]

/-- The upstream link's tower is the one that UPT names. -/
theorem linkAt_of_isUpstream (h : isUpstream s tw f = true) :
    s.ftGm = false ∧ mapGet .reset (s.towerAt (bnat s.ftUpt)).links s.ftUpl.toNat = s.linkAt tw f := by
  unfold isUpstream at h
  cases hgm : s.ftGm <;> cases hupt : s.ftUpt <;> simp_all [State.linkAt, bnat]

/-- Bit 8 of a word made of fields below it, a bit there, and a field above. -/
theorem getLsbD_eight (a b c d x l : Nat) (ha : a < 32) (hb : b < 2) (hc : c < 2) (hd : d < 2) (e : Bool) (he : x = bnat e) :
    (BitVec.ofNat 64 (a + 2 ^ 5 * b + 2 ^ 6 * c + 2 ^ 7 * d + 2 ^ 8 * x + 2 ^ 16 * l)).getLsbD 8 = e := by
  rw [BitVec.getLsbD_ofNat, Nat.testBit_eq_decide_div_mod_eq]
  subst he
  cases e <;> simp [bnat] <;> omega

theorem bnat_lt_two (b : Bool) : bnat b < 2 := by cases b <;> decide

/-- The word of the tick counter's status (R468). -/
theorem readSpecial_ftctl (s : State) : readSpecial s 0x0BB =
    BitVec.ofNat 64 (s.ftUpl.toNat + 2 ^ 5 * bnat s.ftUpt + 2 ^ 6 * bnat s.ftGm + 2 ^ 7 * bnat (s.ftLock || s.ftGm)
      + 2 ^ 8 * bnat (s.ftLock && !s.ftGm && (mapGet .reset (s.towerAt (bnat s.ftUpt)).links s.ftUpl.toNat).stale)
      + 2 ^ 16 * s.ftLoff.toNat) := by
  rfl

/-- An exchange that a REALIGN started on a link in use measures it, and corrects the counter where the duty is the tower's own and
the link is upstream (R467, R469). -/
theorem execTimestampExchangeDone_of_exchanging (t1 t2 t3 t4 : DWord) (hex : exchanging s tw f = true)
    (hcarries : (s.linkAt tw f).carries = true) :
    exec (.timestampExchangeDone tw f t1 t2 t3 t4) s =
      let x := exchange (s.linkAt tw f).asym t1 t2 t3 t4
      let u := s.setLink tw f { s.linkAt tw f with
        delay := BitVec.ofInt 16 (x.2 / 16), stale := false, staleLeft := staleTicks }
      .next (exchangeOver tw f (if (s.towerAt tw).dsplit.getLsbD 3 then
          u.updTower tw (fun t => { t with host := t.host ++ [.servo f t1 t2 t3 t4] })
        else if isUpstream s tw f then servo x.1 u else u)) := by
  change execTimestampExchangeDone tw f t1 t2 t3 t4 s = _
  simp only [execTimestampExchangeDone, hex, hcarries, Bool.and_self, Bool.not_true, Bool.false_eq_true, if_false, dsplit_setLink,
    isUpstream_setLink]
  rfl

end Sys2Proof.Proofs

open Sys2Proof Sys2Proof.Machine Sys2Proof.Claims Sys2Proof.Proofs

/-- Settles O36: a link's events are updates of it, and the servo's branches exclude each other. -/
theorem linksAndTime : Obligations.LinksAndTime := by
  refine ⟨fun s tw f => ?_, ?_, ?_, ?_, ?_, ?_, ?_⟩
  · intro l
    refine ⟨?_, ?_, ?_, ?_, ?_, ?_, ?_, linkDown_linkAt.1, linkDown_linkAt.2, ?_, ?_, ?_, ?_, ?_, ?_, ?_, ?_, ?_, ?_⟩
    · intro hstate
      exact linkGoes_of_updLink rfl (if_pos hstate)
    · intro m hstate hlanes
      refine linkGoes_of_updLink rfl ((if_pos hstate).trans ?_)
      exact if_neg (widthOf_ne_zero hlanes)
    · intro m hstate hlanes
      refine linkGoes_of_updLink rfl ((if_pos hstate).trans ?_)
      exact if_pos (widthOf_eq_zero hlanes)
    · intro r hstate hno
      change execIdentify tw f r.dom r.pkg r.count r.toIdentityProof s = _
      simp only [execIdentify]
      rw [show (s.linkAt tw f).state = .identify from hstate,
        show ({ r.toIdentityProof with dom := r.dom, pkg := r.pkg, count := r.count } : Identity) = r from rfl, hno]
      rfl
    · intro r hstate hok
      have hexec : exec (.identify tw f r.dom r.pkg r.count r.toIdentityProof) s = _ := execIdentify_of_ok hstate hok
      refine ⟨fun hnone => ?_, fun u g m hone => ?_⟩
      · rw [LinkGoes, hexec, hnone]
        rfl
      · have hother : ¬ (u = tw ∧ g = f) := ne_of_mem_portsWith (o := (u, g, m)) (by rw [hone]; exact List.mem_singleton_self _)
        rw [hone] at hexec
        refine ⟨_, hexec, fun hlt => ?_, fun hlt => ?_, fun heq => ?_⟩
        · simp only [List.foldl_cons, List.foldl_nil, if_neg (Nat.lt_asymm hlt), if_pos hlt]
          refine ⟨quarantine_linkAt_same .., ?_⟩
          rw [quarantine_linkAt_ne hother, linkAt_setLink_ne _ _ hother]
        · simp only [List.foldl_cons, List.foldl_nil, if_pos hlt]
          refine ⟨quarantine_linkAt_same .., ?_⟩
          rw [quarantine_linkAt_ne fun h => hother ⟨h.1.symm, h.2.symm⟩, linkAt_setLink_same]
          dsimp only
          split <;> decide
        · subst heq
          simp only [List.foldl_cons, List.foldl_nil, Nat.lt_irrefl, if_false]
          refine ⟨quarantine_linkAt_same .., ?_, List.mem_append_right _ List.mem_cons_self⟩
          refine (congrArg Link.state (quarantine_linkAt_ne hother _)).trans (quarantine_linkAt_same ..)
    · intro hstate
      exact congrArg Host.Outcome.next (if_pos hstate)
    · intro hstate
      exact congrArg Host.Outcome.next (if_neg hstate)
    · intro hstate
      exact linkGoes_of_updLink rfl (if_pos hstate)
    · intro k hstate hlanes
      obtain ⟨_, rfl, h⟩ := loseLane_of_carries hstate hlanes
      exact ⟨_, rfl, h⟩
    · intro k hdown htrain hlanes
      exact congrArg Host.Outcome.next (loseLane_of_few hdown htrain hlanes)
    · intro q hq
      have hany : l.unacked.any (fun x => x.q == q.toNat) = true := by simpa using hq
      exact linkGoes_of_updLink rfl (if_pos hany)
    · intro q hq
      refine linkGoes_of_updLink rfl ?_
      cases hreplay : (s.linkAt tw f).replay with
      | none => simp only [Option.isNone_none, if_true] <;> rfl
      | some r =>
        have hleft : ((s.linkAt tw f).unacked.filter (fun x => q.toNat < x.q)).any (fun x => decide (x.q < r.2)) = false := by
          obtain h | h := hq
          · exact absurd (hreplay.symm.trans h) (by simp)
          · refine List.any_eq_false.mpr fun x hx => ?_
            obtain ⟨hmem, hlater⟩ := List.mem_filter.mp hx
            simpa using h r.1 r.2 hreplay x hmem (by simpa using hlater)
        simp only [hleft, Bool.false_eq_true, if_false, Option.isNone_none, if_true] <;> rfl
    · intro key hroll hasked
      have hnone : ¬ (l.rollover.isSome || l.rolloverAsked.isSome) = true := by simp [hroll, hasked]
      exact linkGoes_of_updLink rfl (if_neg hnone)
    · intro n now hasked
      refine ⟨fun hlt hreplay => ?_, fun hno => ?_⟩
      · simp only [beginRollover, hasked, hlt, hreplay, Option.isNone_none, and_self, if_true]
      · have hwait : ¬ (n < now ∧ l.replay.isNone = true) := by
          rintro ⟨hlt, hnone⟩
          obtain h | h := hno
          · omega
          · simp [Option.isNone_iff_eq_none.mp hnone] at h
        simp only [beginRollover, hasked, hwait, if_false]
    · intro q hroll hacked
      have hnone : ¬ (l.unacked.any (fun x => decide (x.q < q))) = true := by simpa using hacked
      refine linkGoes_of_updLink rfl ?_
      change (match l.rollover with | some q => _ | none => l) = _
      rw [hroll]
      exact if_neg hnone
    · intro hstate hcount
      have hcarries : l.carries = true := by obtain h | h := hstate <;> simp [Link.carries, h]
      have hfull : (l.carries && decide (phaseLimit ≤ l.phaseCount)) = true := by
        rw [hcarries, decide_eq_true (show phaseLimit ≤ l.phaseCount from hcount)]
        rfl
      exact linkGoes_of_updLink rfl (if_pos hfull)
    · intro a
      exact linkGoes_of_updLink rfl rfl
  · intro s k hseed
    refine ⟨_, by rw [ownIdentity, hseed]; rfl, rfl, rfl, rfl, rfl, rfl⟩
  · intro s tw f t1 t2 t3 t4 l x u
    refine ⟨fun hno => ?_, fun hex hcarries => ⟨fun hhost hup => ?_, fun hhost hup => ?_, fun hhost => ?_⟩, rfl⟩
    · have hidle : (!(exchanging s tw f && (s.linkAt tw f).carries)) = true := by
        obtain h | h := hno
        · rw [h]; rfl
        · rw [show (s.linkAt tw f).carries = false from h, Bool.and_false]; rfl
      exact if_pos hidle
    · rw [execTimestampExchangeDone_of_exchanging t1 t2 t3 t4 hex hcarries, hhost, hup]
      rfl
    · rw [execTimestampExchangeDone_of_exchanging t1 t2 t3 t4 hex hcarries, hhost, hup]
      rfl
    · rw [execTimestampExchangeDone_of_exchanging t1 t2 t3 t4 hex hcarries, hhost]
      rfl
  · intro s off
    refine ⟨fun hlock hstep => ?_, fun hlock hstep hmag => ?_, fun hlock hstep hmag => ?_, fun hlock hmag => ?_, fun hlock hmag => ?_⟩
    · simp only [servo, hlock, hstep, Bool.false_eq_true, if_false, Bool.not_false, if_true]
    · simp only [servo, hlock, hstep, Bool.false_eq_true, if_false, Bool.not_true, if_pos (show off.natAbs ≤ 16 * 16 from hmag)]
    · simp only [servo, hlock, hstep, Bool.false_eq_true, if_false, Bool.not_true,
        if_neg (show ¬ off.natAbs ≤ 16 * 16 from Nat.not_le.mpr hmag)]
    · refine ⟨_, Nat.le_max_left 4096 (Config.slewTicks off), ?_⟩
      simp only [servo, hlock, if_true, if_neg (show ¬ 256 * 16 < off.natAbs from Nat.not_lt.mpr hmag)]
      rfl
    · simp only [servo, hlock, if_true, if_pos (show 256 * 16 < off.natAbs from hmag)]
  · intro d s hd hrate
    refine ⟨fun h => ?_, fun h => ?_⟩
    · exact if_neg (by omega)
    · exact if_pos (by omega)
  · intro s tw off
    refine ⟨fun hnone => ?_, fun f hsome => ?_⟩
    · change execHostServoReply _ s = _
      simp only [execHostServoReply, hnone]
    · change execHostServoReply _ s = _
      simp only [execHostServoReply, hsome, isUpstream_updTower]
      rfl
  · intro s tw f
    refine ⟨linkGoes_of_updLink rfl rfl, fun hup hlock => ?_⟩
    obtain ⟨hgm, hlink⟩ := linkAt_of_isUpstream hup
    rw [readSpecial_ftctl]
    refine getLsbD_eight _ _ _ _ _ _ s.ftUpl.isLt (bnat_lt_two _) (bnat_lt_two _) (bnat_lt_two _) _ ?_
    rw [hlock, hgm, hlink]
    rfl

end


section
/-!
PROOF. Frames, the status ring, the scheduler, and the records of placed tasks (R399 to R402, R405 to R416).
-/

namespace Sys2Proof.Proofs

open Sys2Proof.Machine Sys2Proof.Claims

variable {s : State} {tw : Nat}

/-! ### Bytes and fields -/

/-- The number that bytes make of a number's bytes from one on. -/
theorem ofLe_take_drop_leBytes (m : Nat) : ∀ o n v : Nat, o + n ≤ m →
    ofLe (((leBytes m v).drop o).take n) = v / 2 ^ (8 * o) % 2 ^ (8 * n) := by
  induction m with
  | zero =>
    intro o n v h
    obtain ⟨rfl, rfl⟩ : o = 0 ∧ n = 0 := by omega
    simp [leBytes, ofLe, Nat.mod_one]
  | succ m ih =>
    intro o n v h
    cases o with
    | zero =>
      cases n with
      | zero => simp [ofLe, Nat.mod_one]
      | succ n =>
        have hrest := ih 0 n (v / 256) (by omega)
        rw [List.drop_zero] at hrest
        rw [List.drop_zero, leBytes, List.take_succ_cons, ofLe, hrest, BitVec.toNat_ofNat, Nat.mul_zero, pow_zero, Nat.div_one,
          Nat.div_one, Nat.mul_succ, Nat.pow_add, Nat.mul_comm (2 ^ (8 * n)), Nat.mod_mul]
    | succ o =>
      rw [leBytes, List.drop_succ_cons, ih o n _ (by omega), Nat.div_div_eq_div_mul, Nat.mul_succ, Nat.pow_add,
        Nat.mul_comm 256]

/-- A field of a record, read from the record's bytes. -/
theorem ofNat_ofLe_leBytes {w m : Nat} (x : BitVec w) {o n : Nat} (h : o + n ≤ m) :
    BitVec.ofNat (8 * n) (ofLe (((leBytes m x.toNat).drop o).take n)) = x.extractLsb' (8 * o) (8 * n) := by
  refine BitVec.eq_of_toNat_eq ?_
  rw [ofLe_take_drop_leBytes m o n _ h, BitVec.toNat_ofNat, BitVec.extractLsb'_toNat, Nat.shiftRight_eq_div_pow, Nat.mod_mod]

/-- A field of a header is the field of its low word. -/
theorem fld_setWidth (h : BitVec 128) {lo w : Nat} (hw : lo + w ≤ 64) : fld (h.setWidth 64) lo w = (h.extractLsb' lo w).toNat := by
  refine Nat.eq_of_testBit_eq fun i => ?_
  simp only [fld, BitVec.extractLsb'_toNat, BitVec.toNat_setWidth, Nat.testBit_mod_two_pow, Nat.testBit_shiftRight]
  by_cases hi : i < w
  · simp only [hi, show lo + i < 64 by omega, decide_true, Bool.true_and]
  · simp only [hi, decide_false, Bool.false_and]

/-! ### The status ring -/

/-- An entry of no record that enters the ring is the last of it, and does nothing else (R402). -/
theorem enterRing_of_no_record {e : Status} (t : Nat) (h : e.whose = none) :
    enterRing t [e] s = { s with status := s.status ++ [e] } := by
  simp only [enterRing, List.filterMap_cons, h, List.filterMap_nil, List.foldl_nil]

theorem enterRing_status (t : Nat) (es : List Status) (s : State) : (enterRing t es s).status = s.status ++ es := by
  unfold enterRing
  refine List.foldlRecOn (motive := fun u : State => u.status = s.status ++ es) _ _ rfl fun u hu r _ => ?_
  unfold completeRec
  split
  · exact hu
  · exact hu

/-- A status entry of no record reaches nothing of a tower but the entries it holds. -/
theorem putStatus_frame {e : Status} (t k : Nat) (h : e.whose = none) :
    ((putStatus t e s).towerAt k).queues = (s.towerAt k).queues ∧ ((putStatus t e s).towerAt k).rings = (s.towerAt k).rings ∧
      ((putStatus t e s).towerAt k).running = (s.towerAt k).running ∧ (putStatus t e s).ctxs = s.ctxs := by
  unfold putStatus
  split
  · by_cases hk : t = k
    · subst hk
      rw [State.updTower_towerAt_same]
      exact ⟨rfl, rfl, rfl, rfl⟩
    · rw [State.updTower_towerAt_ne _ _ hk]
      exact ⟨rfl, rfl, rfl, rfl⟩
  · rw [enterRing_of_no_record t h]
    exact ⟨rfl, rfl, rfl, rfl⟩

/-- Entries that enter the ring one after the other follow what it held (R402). -/
theorem foldl_enterRing_status (go : List (Nat × Status)) : ∀ u : State,
    (go.foldl (fun s e => enterRing e.1 [{ e.2 with ord := 0 }] s) u).status = u.status ++ go.map (fun e => { e.2 with ord := 0 }) := by
  induction go with
  | nil => exact fun u => (List.append_nil _).symm
  | cons e go ih =>
    intro u
    rw [List.foldl_cons, ih, enterRing_status, List.append_assoc]
    rfl

theorem heldStatus_of_none (h0 : (s.towerAt 0).statusQ = []) (h1 : (s.towerAt 1).statusQ = []) : heldStatus s = [] := by
  have htowers : upto 2 = [0, 1] := rfl
  rw [heldStatus, htowers]
  simp only [List.flatMap_cons, List.flatMap_nil, h0, h1, List.map_nil, List.append_nil]
  rfl

/-- What the towers hold follows what the ring held, and where they hold nothing, or the link is down, nothing follows (R402). -/
theorem drainStatus_status (s : State) : ∃ es, (drainStatus s).status = s.status ++ es ∧
    (s.linkUp = false ∨ ((s.towerAt 0).statusQ = [] ∧ (s.towerAt 1).statusQ = []) → es = []) := by
  unfold drainStatus
  by_cases hlink : (!s.linkUp) = true
  · rw [if_pos hlink]
    exact ⟨[], (List.append_nil _).symm, fun _ => rfl⟩
  · rw [if_neg hlink]
    refine ⟨_, foldl_enterRing_status _ _, fun h => ?_⟩
    obtain h | ⟨h0, h1⟩ := h
    · exact absurd (by rw [h]; rfl) hlink
    · rw [heldStatus_of_none h0 h1, List.take_nil, List.map_nil]

/-! ### Frames -/

/-- A frame's record is the last of its queue (R400). -/
theorem insertRec_of_frame {r : LRec} (l : List LRec) (h : r.from_ = 8) : insertRec r l = l ++ [r] := by
  have hall : ∀ x ∈ l, (x.since != r.since || decide (x.from_ ≤ r.from_) || decide (8 ≤ r.from_)) = true := by simp [h]
  simp only [insertRec, List.takeWhile_eq_self_iff.mpr hall, List.dropWhile_eq_nil_iff.mpr hall]

/-- A record that a frame brings is the last of its queue, and no ring's number changes (R400). -/
theorem appendRec_of_frame (q : Nat) (a : Launch) (save : Option Cap) (s : State) (hhost : a.host = true) :
    (∃ r, ((appendRec tw q 8 a save s).towerAt tw).queue q = (s.towerAt tw).queue q ++ [r] ∧ r.state = .queued ∧
      r.save = save ∧ r.queue = q ∧ r.launch = a) ∧
    ((appendRec tw q 8 a save s).towerAt tw).rings = (s.towerAt tw).rings := by
  obtain ⟨r, hr⟩ : ∃ r : LRec, r = {
      id := s.nextId, queue := q, launch := a, state := .queued, save := save, age := 0, notBefore := 0, place := none, left := 0, prior := [], since := (s.towerAt tw).cycle + 1, from_ := 8 } := ⟨_, rfl⟩
  obtain ⟨u, hu⟩ : ∃ u : State, u = State.updTower { s with nextId := s.nextId + 1 } tw
      (fun t => { t with queues := mapSet [] t.queues q (insertRec r (t.queue q)) }) := ⟨_, rfl⟩
  have happend : appendRec tw q 8 a save s =
      putStatus tw { tag := a.tag, seq := a.seq, event := 0, cause := 0, value := 0 } u := by
    rw [hu, hr]
    exact if_pos hhost
  obtain ⟨hqueues, hrings, _⟩ := putStatus_frame (s := u) (e := { tag := a.tag, seq := a.seq, event := 0, cause := 0, value := 0 })
    tw tw rfl
  have htower : u.towerAt tw = { s.towerAt tw with
      queues := mapSet [] (s.towerAt tw).queues q (insertRec r ((s.towerAt tw).queue q)) } := by
    rw [hu, State.updTower_towerAt_same]
    rfl
  rw [happend, hrings, htower]
  refine ⟨⟨r, ?_, by rw [hr], by rw [hr], by rw [hr], by rw [hr]⟩, rfl⟩
  rw [Tower.queue, hqueues, htower, mapGet_mapSet_same, insertRec_of_frame _ (by rw [hr])]

/-- A frame in turn of the right type is appended (R399, R400). -/
theorem frameAppended_takeFrame {h : BitVec 128} (rec : BitVec 512) (save : Option Cap) (hdue : frameDue h s)
    (htype : frameType h = if save.isSome then 2 else 1) : frameAppended h rec save s (takeFrame h rec save s) := by
  obtain ⟨hboot, hlink, hroom, hwait, hseq⟩ := hdue
  have htower : fld (h.setWidth 64) 8 1 = frameTower h := fld_setWidth h (by decide)
  have hqueue : fld (h.setWidth 64) 9 4 = frameQueue h := fld_setWidth h (by decide)
  have hnumber : fld (h.setWidth 64) 16 16 = frameSeq h := fld_setWidth h (by decide)
  have htaken : fld (h.setWidth 64) 0 8 = frameType h := fld_setWidth h (by decide)
  have hopen : (decide (s.boot < 5) || !s.linkUp || decide (256 ≤ ((s.towerAt (frameTower h)).queue (frameQueue h)).length) ||
      launchWaits s (frameTower h) (frameQueue h)) = false := by
    simp [hboot, hlink, hwait, hroom]
  simp only [takeFrame, htower, hqueue, hnumber, htaken, hopen, hseq, bne_self_eq_false, htype, Bool.false_eq_true, if_false]
  obtain ⟨u, hu⟩ : ∃ u, u = s.updTower (frameTower h) (fun t =>
    { t with rings := mapSet 0 t.rings (frameQueue h) ((frameSeq h + 1) % 65536) }) := ⟨_, rfl⟩
  have htw : u.towerAt (frameTower h) = { s.towerAt (frameTower h) with
      rings := mapSet 0 (s.towerAt (frameTower h)).rings (frameQueue h) ((frameSeq h + 1) % 65536) } := by
    rw [hu, State.updTower_towerAt_same]
  rw [← hseq, ← hu]
  generalize ha : ({ launchOf (leBytes 64 rec.toNat) true _ _ with resv := _ } : Launch) = a
  obtain ⟨⟨r, hlast, hstate, hsave, hq, hlaunch⟩, hrings⟩ :=
    appendRec_of_frame (tw := frameTower h) (frameQueue h) a save u (by rw [← ha]; rfl)
  rw [htw] at hlast hrings
  refine ⟨⟨r, hlast, hstate, hsave, hq, ?_, ?_, ?_, ?_⟩, by rw [hrings, mapGet_mapSet_same]⟩
  all_goals rw [hlaunch, ← ha]
  · exact ofNat_ofLe_leBytes (m := 64) (o := 0) (n := 16) rec (by decide)
  · exact ofNat_ofLe_leBytes (m := 64) (o := 16) (n := 16) rec (by decide)
  · exact ofNat_ofLe_leBytes (m := 64) (o := 32) (n := 8) rec (by decide)
  · rfl

/-! ### Records in progress -/

theorem find?_map_of_congr {α : Type} {p : α → Bool} {g : α → α} (hg : ∀ a, p (g a) = p a) (l : List α) :
    (l.map g).find? p = (l.find? p).map g := by
  rw [List.find?_map]
  exact congrArg (fun q => (l.find? q).map g) (funext hg)

/-- A change to the record in progress of a task, which keeps its place, is seen in it. -/
theorem recOf_updRunning {lay c : Nat} {r : LRec} (h : recOf s lay c = some r) {g : LRec → LRec} (hg : ∀ r, (g r).place = r.place) :
    recOf (updRunning (lay / 8) r.id g s) lay c = some (g r) := by
  unfold recOf updRunning at *
  rw [State.updTower_towerAt_same]
  refine (find?_map_of_congr (fun a => ?_) _).trans ?_
  · split
    · rw [hg]
    · rfl
  · rw [h]
    exact congrArg some (if_pos rfl)

theorem recOf_congr {t : State} (lay c : Nat) (h : (t.towerAt (lay / 8)).running = (s.towerAt (lay / 8)).running) :
    recOf t lay c = recOf s lay c := by
  unfold recOf
  rw [h]

/-! ### The host that places -/

/-- The head that a tower asks its host to place. -/
def asksFor : HostReq → Option Nat
  | .place r _ => some r
  | _ => none

theorem findSome?_asksFor {id : Nat} (h : placeAsked tw id s) : (s.towerAt tw).host.findSome? asksFor = some id := by
  obtain ⟨⟨f, hf⟩, hone⟩ := h
  cases hsome : (s.towerAt tw).host.findSome? asksFor with
  | none => exact absurd (List.findSome?_eq_none_iff.mp hsome _ hf) (Option.some_ne_none id)
  | some j =>
    obtain ⟨r, hr, hj⟩ := List.exists_of_findSome?_eq_some hsome
    cases r with
    | place k g =>
      obtain rfl : k = j := Option.some.inj hj
      rw [hone k g hr]
    | _ => exact absurd hj.symm (Option.some_ne_none j)

/-- The host defers: the head stays in its queue (R416). -/
theorem execHostPlaceReply_of_defer {id : Nat} (h : placeAsked tw id s) :
    exec (.hostPlaceReply tw none) s = .next (placeAnswered tw id s) := by
  change execHostPlaceReply tw none s = _
  unfold execHostPlaceReply
  generalize hg : List.findSome? _ (s.towerAt tw).host = o
  obtain rfl : o = some id := hg.symm.trans (findSome?_asksFor h)
  rfl

/-- The host's granules are taken where they fit, and reported where they do not (R416). -/
theorem execHostPlaceReply_of_found {id l : Nat} {gs : List (List Nat)} {c : Choice} (h : placeAsked tw id s)
    (hfound : (choices (placeAnswered tw id s) tw).find? (fun x => x.rec_.id == id) = some c)
    (hcheck : imageCheck (placeAnswered tw id s) c.rec_.launch c.image = none) :
    exec (.hostPlaceReply tw (some (l, gs))) s =
      let u := placeAnswered tw id s
      .next ((fitsIn (granted u (8 * tw + l) c.rec_.launch.share gs) u tw l c.rec_.launch c.image).elim
        (u.updTower tw (fun t => { t with host := t.host ++ [.placeBad id] }))
        (fun p => doneAsking (takeChoice tw c p u) c.rec_)) := by
  change execHostPlaceReply tw (some (l, gs)) s = _
  unfold execHostPlaceReply
  generalize hg : List.findSome? _ (s.towerAt tw).host = o
  obtain rfl : o = some id := hg.symm.trans (findSome?_asksFor h)
  dsimp only
  generalize hu : s.updTower tw _ = u
  obtain rfl : u = placeAnswered tw id s := hu.symm
  simp only [hfound, hcheck, Option.isSome_none, Bool.false_eq_true, if_false]
  cases fitsIn (granted (placeAnswered tw id s) (8 * tw + l) c.rec_.launch.share gs) (placeAnswered tw id s) tw l c.rec_.launch
    c.image <;> rfl

/-! ### Placements that end -/

/-- The task's context and its record in progress take their next states (R410). -/
def placedAs (lay c id : Nat) (x : CtxState) (st : RecState) (s : State) : State :=
  updRunning (lay / 8) id (fun r => { r with state := st }) (s.updCtx (ctxKey lay c) (fun y => { y with state := x }))

theorem recOf_placedAs {lay c : Nat} {r : LRec} (x : CtxState) (st : RecState) (h : recOf s lay c = some r) :
    recOf (placedAs lay c r.id x st s) lay c = some { r with state := st } :=
  recOf_updRunning (s := s.updCtx _ _) (g := fun r => { r with state := st }) h fun _ => rfl

theorem placedAs_ctxAt (lay c id : Nat) (x : CtxState) (st : RecState) (s : State) :
    (placedAs lay c id x st s).ctxAt (ctxKey lay c) = { s.ctxAt (ctxKey lay c) with state := x } := by
  unfold placedAs updRunning
  rw [State.updTower_ctxAt, State.updCtx_ctxAt_same]

/-- The end of a placement (R410, R412). -/
theorem execPlacementComplete_of_placing {lay c : Nat} {r : LRec} (hrec : recOf s lay c = some r)
    (htask : (s.ctxAt (ctxKey lay c)).task = .placed) (hstate : (s.ctxAt (ctxKey lay c)).state = .placing) :
    exec (.placementComplete lay c) s = if r.ended.gcnt = 0 then .next (placedAs lay c r.id .resident .placed s)
      else .next (gangMsg 0 (lay / 8) r.launch (placedAs lay c r.id .held .gangHeld s)) := by
  have hno : ¬ (r.state = .placed ∧ CtxState.placing = .resident) := fun h => absurd h.2 (by decide)
  change execPlacementComplete lay c s = _
  simp only [execPlacementComplete, hrec, htask, hstate, bne_self_eq_false, Bool.false_eq_true, if_false, if_neg hno]
  rfl

/-- A task that is Placed starts at the next event (R410). -/
theorem execPlacementComplete_of_placed {lay c : Nat} {r : LRec} (hrec : recOf s lay c = some r)
    (htask : (s.ctxAt (ctxKey lay c)).task = .placed) (hstate : (s.ctxAt (ctxKey lay c)).state = .resident)
    (hplaced : r.state = .placed) : exec (.placementComplete lay c) s = .next (startTask lay c s) := by
  change execPlacementComplete lay c s = _
  simp only [execPlacementComplete, hrec, htask, hstate, bne_self_eq_false, Bool.false_eq_true, if_false, hplaced, and_self, if_true]

/-- A task that starts is Ready in its context, and its record Started (R410, R414). -/
theorem startTask_frame {lay c : Nat} {r : LRec} (hrec : recOf s lay c = some r) :
    recOf (startTask lay c s) lay c = some { r with state := .started } ∧
      ((startTask lay c s).ctxAt (ctxKey lay c)).task = .ready ∧ ((startTask lay c s).ctxAt (ctxKey lay c)).state = .resident := by
  obtain ⟨u, hu⟩ : ∃ u, u = updRunning (lay / 8) r.id (fun r => { r with state := .started })
      (s.updCtx (ctxKey lay c) (fun x => { x with task := .ready, state := .resident, idle := 0 })) := ⟨_, rfl⟩
  have hin : recOf u lay c = some { r with state := .started } := by
    rw [hu]
    exact recOf_updRunning (s := s.updCtx _ _) (g := fun r => { r with state := .started }) hrec fun _ => rfl
  have hctx : u.ctxAt (ctxKey lay c) = { s.ctxAt (ctxKey lay c) with task := .ready, state := .resident, idle := 0 } := by
    rw [hu, updRunning, State.updTower_ctxAt, State.updCtx_ctxAt_same]
  have hstart : startTask lay c s = if r.launch.host then
      putStatus (lay / 8) { tag := r.launch.tag, seq := r.launch.seq, event := 1, cause := 0, value := 0 } u else u := by
    rw [hu]
    simp only [startTask, hrec]
  rw [hstart]
  split
  · obtain ⟨_, _, hrunning, hctxs⟩ := putStatus_frame (s := u)
      (e := { tag := r.launch.tag, seq := r.launch.seq, event := 1, cause := 0, value := 0 }) (lay / 8) (lay / 8) rfl
    rw [recOf_congr lay c hrunning, ctxAt_congr hctxs, hctx]
    exact ⟨hin, rfl, rfl⟩
  · rw [hctx]
    exact ⟨hin, rfl, rfl⟩

end Sys2Proof.Proofs

open Sys2Proof Sys2Proof.Machine Sys2Proof.Claims Sys2Proof.Proofs

/-- Settles O37, from what a frame's record, the scheduler's best choice and a placement's end do. -/
theorem launchAndScheduling : Obligations.LaunchAndScheduling := by
  refine ⟨?_, ?_, ?_, ?_, ?_, ?_, ?_, ?_, ?_⟩
  · intro h rec s hdue htype
    exact ⟨_, rfl, frameAppended_takeFrame rec none hdue htype⟩
  · intro h rec save s hdue htype
    exact ⟨_, rfl, frameAppended_takeFrame rec (some save) hdue htype⟩
  · intro n s
    obtain ⟨es, hstatus, hnone⟩ := drainStatus_status { s with status := s.status.drop n }
    refine ⟨_, rfl, hstatus ▸ List.prefix_append _ _, fun h => ?_⟩
    rw [hstatus, hnone h, List.append_nil]
  · intro tw s u hfull
    have hu : askPages tw (evalHeads tw s) = u := rfl
    refine ⟨fun hnone => ?_, fun c p hbest hplace => ⟨fun hown => ?_, fun hhost hsound => ?_⟩⟩
    · change execSchedulerSelect tw s = _
      simp only [execSchedulerSelect, hu, hfull, Bool.false_eq_true, if_false, hnone]
    · have hno : ((u.towerAt tw).dsplit.getLsbD 4 && choiceSound u tw c) = false := by
        obtain h | h := hown <;> simp only [h, Bool.false_and, Bool.and_false]
      change execSchedulerSelect tw s = _
      simp only [execSchedulerSelect, hu, hfull, Bool.false_eq_true, if_false, hbest, hplace, hno]
    · change execSchedulerSelect tw s = _
      simp only [execSchedulerSelect, hu, hfull, Bool.false_eq_true, if_false, hbest, hplace, hhost, hsound, Bool.and_self, if_true]
  · intro tw q r s hfits hhead
    change execHeadAgeing tw q s = _
    have hany : (choices s tw).any (fun c => c.q == q) = true := by simpa using hfits
    simp only [execHeadAgeing, hhead, hany, if_true]
  · intro tw q r s hfits hhead
    change execHeadAgeing tw q s = _
    have hany : (choices s tw).any (fun c => c.q == q) = false := by simpa using hfits
    simp only [execHeadAgeing, hhead, hany, Bool.false_eq_true, if_false]
  · intro lay c r s hrec htask
    refine ⟨fun hstate hgang => ?_, fun hstate hplaced => ?_, fun hstate hgang => ?_⟩
    · exact ⟨_, (execPlacementComplete_of_placing hrec htask hstate).trans (if_pos hgang), recOf_placedAs _ _ hrec,
        placedAs_ctxAt ..⟩
    · obtain ⟨hr, ht, hs⟩ := startTask_frame hrec
      exact ⟨_, execPlacementComplete_of_placed hrec htask hstate hplaced, hr, ht, hs⟩
    · refine ⟨_, (execPlacementComplete_of_placing hrec htask hstate).trans (if_neg hgang), ?_, recOf_placedAs _ _ hrec⟩
      rw [placedAs_ctxAt]
  · intro tw id s hasked
    exact execHostPlaceReply_of_defer hasked
  · intro tw id l gs c s hasked u hfound hcheck fit
    refine ⟨fun p hp => ?_, fun hp => ?_⟩
    · exact (execHostPlaceReply_of_found hasked hfound hcheck).trans (congrArg (fun o : Option Place => (Host.Outcome.next (o.elim _ _) : Res)) hp)
    · exact (execHostPlaceReply_of_found hasked hfound hcheck).trans (congrArg (fun o : Option Place => (Host.Outcome.next (o.elim _ _) : Res)) hp)

end


section
/-!
PROOF. Gangs: their coordinator's entry, and the members a tower holds (R412, R413, R469).
-/

namespace Sys2Proof.Proofs

open Sys2Proof.Machine Sys2Proof.Claims

variable {s : State} {tw : Nat} {gid : BitVec 16}

/-! ### The coordinator -/

theorem find?_gang_of_absent (h : ∀ g ∈ s.gangs, g.gid ≠ gid) : s.gangs.find? (fun g => g.gid == gid) = none :=
  List.find?_eq_none.mpr fun g hg => by simpa using h g hg

theorem filter_gang_of_absent (h : ∀ g ∈ s.gangs, g.gid ≠ gid) : s.gangs.filter (fun g => g.gid != gid) = s.gangs :=
  List.filter_eq_self.mpr fun g hg => by simpa using h g hg

theorem sendMsg_gangs (t d : Nat) (pkg : BitVec 8) (m : ShortMsg) (s : State) : (sendMsg t pkg d m s).gangs = s.gangs := by
  unfold sendMsg
  split <;> rfl

theorem tellTowers_gangs (m : Nat → ShortMsg) (fs : List Nat) (s : State) : (tellTowers m fs s).gangs = s.gangs := by
  unfold tellTowers
  exact List.foldlRecOn (motive := fun u : State => u.gangs = s.gangs) _ _ rfl fun u hu f _ => (sendMsg_gangs ..).trans hu

/-- The coordinator's entry of a gang once a READY has joined it (R412). -/
def Gang.joined (g : Gang) (n : Nat) (m : Nat × Nat) : Gang := { g with count := n, ready := g.ready ++ [m] }

/-- A READY of a new member at the coordinator: it joins the gang, which starts, waits on, or has failed (R412, R413). -/
theorem execGangReady_of_new {gmi n f : Nat} {g : Gang} (hcoord : coordinator gid = s.pkg)
    (hentry : (s.gangs.find? (fun x => x.gid == gid)).getD
      { gid := gid, count := n, ready := [], first := s.tick.toNat, start := none, failed := false } = g)
    (hnew : (gmi, f) ∉ g.ready) :
    exec (.gangReady gid gmi n f) s =
      let rest := s.gangs.filter (fun x => x.gid != gid)
      if g.failed then .next { sendMsg 0 (BitVec.ofNat 8 (f / 2)) (f % 2) (.gang 4 gid gmi n f 0) s with
          gangs := if n ≤ g.ready.length + 1 then rest else rest ++ [Gang.joined g n (gmi, f)] }
      else if n ≤ g.ready.length + 1 then
        .next (tellTowers (fun f => .gang 1 gid 0 n f (s.tick + 50000)) (reporters (Gang.joined g n (gmi, f))) { s with gangs := rest })
      else .next { s with gangs := rest ++ [Gang.joined g n (gmi, f)] } := by
  have hnot : g.ready.contains (gmi, f) = false := by simpa using hnew
  change execGangReady gid gmi n f s = _
  simp only [execGangReady, hcoord, bne_self_eq_false, Bool.false_eq_true, if_false, hentry, hnot, List.length_append,
    List.length_singleton]
  rfl

/-! ### The members a tower holds -/

/-- Giving members their tick reaches their contexts alone. -/
theorem foldl_startTick (tick : DWord) (ms : List (LRec × Nat × Nat)) (s : State) :
    let u := ms.foldl (fun s m => s.updCtx (ctxKey m.2.1 m.2.2) (fun x => { x with startTick := some tick })) s
    (∀ m ∈ ms, (u.ctxAt (ctxKey m.2.1 m.2.2)).startTick = some tick) ∧
      ∀ k, (∀ m ∈ ms, k ≠ ctxKey m.2.1 m.2.2) → u.ctxAt k = s.ctxAt k := by
  induction ms generalizing s with
  | nil => exact ⟨fun m hm => absurd hm List.not_mem_nil, fun _ _ => rfl⟩
  | cons m ms ih =>
    obtain ⟨hset, hkept⟩ := ih (s.updCtx (ctxKey m.2.1 m.2.2) (fun x => { x with startTick := some tick }))
    refine ⟨fun m' hm' => ?_, fun k hk => ?_⟩
    · by_cases hin : ∃ m'' ∈ ms, ctxKey m'.2.1 m'.2.2 = ctxKey m''.2.1 m''.2.2
      · obtain ⟨m'', hm'', heq⟩ := hin
        rw [List.foldl_cons, heq]
        exact hset m'' hm''
      · obtain rfl : m' = m := (List.mem_cons.mp hm').resolve_right fun h => hin ⟨m', h, rfl⟩
        rw [List.foldl_cons, hkept _ fun m'' hm'' heq => hin ⟨m'', hm'', heq⟩, State.updCtx_ctxAt_same]
    · rw [List.foldl_cons, hkept k fun m' hm' => hk m' (List.mem_cons_of_mem _ hm'),
        State.updCtx_ctxAt_ne _ _ (Ne.symm (hk m List.mem_cons_self))]

/-- The record of a member whose gang is aborted, as it goes back to its queue (R413). -/
def abortedRec (until_ : Nat) (r : LRec) : LRec := { r with state := .head, place := none, age := 0, notBefore := until_ }

/-- A member held leaves its context, and its record goes back to the head of its queue (R413). -/
def abortMember (tw : Nat) (s : State) (m : LRec × Nat × Nat) : State :=
  vacate m.2.1 m.2.2 (s.updTower tw (fun t => { t with
    running := t.running.filter (fun x => x.id != m.1.id)
    queues := mapSet [] t.queues m.1.queue
      (abortedRec (s.tick.toNat + gangTicks s tw) m.1 :: t.queue m.1.queue) }))

theorem execGangAbort_eq (gid : BitVec 16) (s : State) :
    exec (.gangAbort tw gid) s = .next ((heldMembers s tw gid).foldl (abortMember tw) s) := rfl

theorem vacate_ctxAt_same (lay c : Nat) (s : State) : (vacate lay c s).ctxAt (ctxKey lay c) = .free :=
  State.updCtx_ctxAt_same s _ fun _ => .free

theorem vacate_ctxAt_ne {lay c k : Nat} (s : State) (h : k ≠ ctxKey lay c) : (vacate lay c s).ctxAt k = s.ctxAt k :=
  State.updCtx_ctxAt_ne s (fun _ => .free) h.symm

theorem vacate_towerAt (lay c k : Nat) (s : State) : (vacate lay c s).towerAt k = s.towerAt k := rfl

/-- Every member held is out of its context (R413). -/
theorem foldl_abortMember_ctxAt (ms : List (LRec × Nat × Nat)) (k : Nat) (s : State)
    (h : (∃ m ∈ ms, k = ctxKey m.2.1 m.2.2) ∨ s.ctxAt k = .free) : (ms.foldl (abortMember tw) s).ctxAt k = .free := by
  induction ms generalizing s with
  | nil =>
    obtain ⟨m, hm, _⟩ | h := h
    · exact absurd hm List.not_mem_nil
    · exact h
  | cons m ms ih =>
    refine ih _ ?_
    by_cases hk : k = ctxKey m.2.1 m.2.2
    · exact Or.inr (by rw [hk, abortMember, vacate_ctxAt_same])
    · obtain ⟨m', hm', hkey⟩ | h := h
      · obtain rfl | hrest := List.mem_cons.mp hm'
        · exact absurd hkey hk
        · exact Or.inl ⟨m', hrest, hkey⟩
      · exact Or.inr (by rw [abortMember, vacate_ctxAt_ne _ hk, State.updTower_ctxAt, h])

/-! ### A gang that fails -/

/-- The coordinator's entry of a gang of which one member failed (R413). -/
def Gang.failedOnce (g : Gang) : Gang := { g with failed := true, ready := g.ready ++ [(8192 + g.ready.length, 0)] }

/-- A FAIL at the coordinator, while members have still to report: those that reported are told (R413). -/
theorem failGang_of_live {g : Gang} {n : Nat} (hcoord : coordinator gid = s.pkg)
    (hfound : s.gangs.find? (fun x => x.gid == gid) = some g) (hlive : g.failed = false) (hmore : g.ready.length + 1 < g.count) :
    failGang gid n s =
      let u := tellTowers (fun f => .gang 4 gid 0 g.count f 0) (reporters g) s
      { u with gangs := u.gangs.filter (fun x => x.gid != gid) ++ [Gang.failedOnce g] } := by
  have hcount : g.count ≠ 0 := by omega
  have hnotOver : (Gang.failedOnce g).over = false := by
    simp only [Gang.over, Gang.failedOnce, List.length_append, List.length_singleton, Bool.and_eq_false_iff, decide_eq_false_iff_not]
    omega
  have hshort : (decide (0 < g.count) && decide (g.count ≤ (g.ready ++ [(8192 + g.ready.length, 0)]).length)) = false := hnotOver
  simp only [failGang, hcoord, bne_self_eq_false, Bool.false_eq_true, if_false, hfound, Option.getD_some, hlive, if_neg hcount, Gang.over,
    hshort]
  rfl

end Sys2Proof.Proofs

open Sys2Proof Sys2Proof.Machine Sys2Proof.Claims Sys2Proof.Proofs

/-- Settles O38: the coordinator by the three states of its entry, and the tower by the list of the members it holds. -/
theorem gangs : Obligations.Gangs := by
  refine ⟨?_, ?_, ?_, ?_, ?_, ?_, ?_, ?_, ?_⟩
  · intro gid gmi n f s hcoord hnone hn
    rw [execGangReady_of_new hcoord (by rw [find?_gang_of_absent hnone, Option.getD_none]) List.not_mem_nil]
    simp only [filter_gang_of_absent hnone]
    exact (if_neg Bool.false_ne_true).trans (if_neg (Nat.not_le.mpr hn))
  · intro gid gmi n f s hcoord hnone hn
    rw [execGangReady_of_new hcoord (by rw [find?_gang_of_absent hnone, Option.getD_none]) List.not_mem_nil]
    simp only [filter_gang_of_absent hnone]
    exact (if_neg Bool.false_ne_true).trans (if_pos hn)
  · intro gid gmi n f g s hcoord hfound hnew g' rest
    have hexec := execGangReady_of_new (n := n) hcoord (by rw [hfound]; rfl) hnew
    refine ⟨fun hlive hmore => ?_, fun hlive hall => ?_, fun hfailed => ?_⟩
    · rw [hexec, hlive]
      exact if_neg (Nat.not_le.mpr hmore)
    · rw [hexec, hlive]
      exact if_pos hall
    · rw [hexec, hfailed]
      exact ⟨_, rfl, rfl, rfl⟩
  · intro tw gid tick s
    exact ⟨_, rfl, foldl_startTick tick _ s⟩
  · intro lay c r n s htick hstate hnow hrec
    refine ⟨fun hlock => ?_, fun hlock => ?_⟩
    · obtain ⟨_, ht, hs⟩ := startTask_frame hrec
      refine ⟨startTask lay c s, ?_, ht, hs⟩
      change execGangStartTick lay c s = _
      simp only [execGangStartTick, htick, hstate, hnow, hlock, and_self, if_true]
    · change execGangStartTick lay c s = _
      simp only [execGangStartTick, htick, hlock, Bool.false_eq_true, and_false, if_false]
  · intro gid g s hfound hlive hlate
    have hno : (decide (s.tick.toNat < g.first + gangTicks s 0) || (g.failed && g.count != 0)) = false := by
      rw [hlive, Bool.false_and, Bool.or_false]
      exact decide_eq_false (Nat.not_lt.mpr hlate)
    change execGangTimeout gid s = _
    simp only [execGangTimeout, hfound, hno, Bool.false_eq_true, if_false]
    exact if_neg (by rw [hlive]; exact Bool.false_ne_true)
  · intro tw gid s
    exact ⟨_, execGangAbort_eq gid s, fun m hm => foldl_abortMember_ctxAt _ _ s (Or.inl ⟨m, hm, rfl⟩)⟩
  · intro tw gid r lay c s hone
    refine ⟨_, execGangAbort_eq gid s, abortedRec (s.tick.toNat + gangTicks s tw) r, ?_, rfl, rfl, rfl⟩
    rw [hone, List.foldl_cons, List.foldl_nil, abortMember, vacate_towerAt, State.updTower_towerAt_same]
    rw [Tower.queue, mapGet_mapSet_same]
  · intro gid g s hcoord hfound hlive hmore
    refine ⟨_, Gang.failedOnce g, congrArg Host.Outcome.next (failGang_of_live hcoord hfound hlive hmore), ?_, rfl, rfl, rfl, rfl⟩
    exact congrArg (fun gs => gs.filter (fun x => x.gid != gid) ++ [Gang.failedOnce g]) 
      (tellTowers_gangs (fun f => .gang 4 gid 0 g.count f 0) (reporters g) s)

end


section
/-!
PROOF. How a task leaves its context, and what is left of a saved one (R209, R420 to R432).
-/

namespace Sys2Proof.Proofs

open Sys2Proof.Machine Sys2Proof.Claims

variable {s : State} {lay c : Nat}

/-! ### A context given up -/

theorem leaveContext_ctxAt (lay c new : Nat) (s : State) : (leaveContext lay c new s).ctxAt (ctxKey lay c) = .free :=
  vacate_ctxAt_same ..

theorem leaveForGood_ctxAt (lay c : Nat) (s : State) : (leaveForGood lay c s).ctxAt (ctxKey lay c) = .free :=
  leaveContext_ctxAt ..

theorem entryHeld_of_room (h : statusFull s (lay / 8) = false) : entryHeld lay c s = false := by
  rw [entryHeld, h, Bool.false_and]

theorem countersZero_of {x : Ctx} (h : ∀ e ∈ x.n, e.2 = 0) : x.countersZero = true :=
  List.all_eq_true.mpr fun e he => beq_iff_eq.mpr (h e he)

/-! ### The trap record -/

/-- Writing a layer's data memory changes only that memory. -/
theorem exists_writeDmem_eq (bs : List Byte) : ∀ (a : Nat) (l : Layer), ∃ m, writeDmem a bs l = { l with dmem := m } := by
  induction bs with
  | nil => exact fun _ l => ⟨l.dmem, rfl⟩
  | cons b bs ih =>
    intro a l
    obtain ⟨m, hm⟩ := ih (a + 1) { l with dmem := mapSet 0 l.dmem a b }
    exact ⟨m, hm⟩

/-- A record delivered reaches no context, and of its layer the pending traps stay (R421). -/
theorem deliverTrap_frame (lay c : Nat) (ws : List DWord) (s : State) :
    (∀ k, (deliverTrap lay c ws s).ctxAt k = s.ctxAt k) ∧
      ((deliverTrap lay c ws s).layerAt lay).tpend = (s.layerAt lay).tpend := by
  unfold deliverTrap
  refine iteInduction (motive := fun t : State => (∀ k, t.ctxAt k = s.ctxAt k) ∧ (t.layerAt lay).tpend = (s.layerAt lay).tpend)
    (fun _ => ⟨fun _ => rfl, rfl⟩) fun _ => ⟨fun _ => rfl, ?_⟩
  unfold arriveFlag
  rw [State.updLayer_layerAt_same]
  obtain ⟨m, hm⟩ := exists_writeDmem_eq (ws.flatMap (fun w => leBytes 8 w.toNat)) (0x18000 + 64 * c) (s.layerAt lay)
  exact (congrArg Layer.tpend (State.updLayer_layerAt_same ..)).trans (by rw [hm])

/-- The record of a trap but PGKILL leaves the task Trapped, to resume where the discard left it (R420). -/
theorem recordTrap_frame {tr : TrapInfo} (h : tr.cause ≠ .pgKill) :
    let x := s.ctxAt (ctxKey lay c)
    let t := recordTrap lay c tr s
    t.ctxAt (ctxKey lay c) = { x with
      state := .resident, task := .trapped, tlast := trapWord0 tr &&& ones64 0 40, tseq := x.tseq + 1, trap := none,
      resume := x.pc } ∧ (t.layerAt lay).tpend = setBitTo (s.layerAt lay).tpend c true := by
  have hno : ¬(tr.cause = .pgKill ∧ c ≠ 4) := fun hk => h hk.1
  have hbit : (tr.cause != .pgKill) = true := bne_iff_ne.mpr h
  simp only [recordTrap, if_neg hno, hbit]
  obtain ⟨hctx, htpend⟩ := deliverTrap_frame lay c (trapWords (s.ctxAt (ctxKey lay c)) tr)
    ((s.updCtx (ctxKey lay c) (fun x => { x with
      state := .resident, task := .trapped, tlast := trapWord0 tr &&& ones64 0 40, tseq := x.tseq + 1, trap := none,
      resume := x.pc })).updLayer lay (fun l => { l with tpend := setBitTo l.tpend c true }))
  rw [hctx, htpend, State.updLayer_ctxAt, State.updCtx_ctxAt_same, State.updLayer_layerAt_same, State.updCtx_layerAt]
  exact ⟨rfl, rfl⟩

/-! ### Pre-emption -/

theorem endFreeze_switch (c : Nat) (l : Layer) : (endFreeze c l).switch = l.switch := by
  unfold endFreeze Layer.keepHolds
  split <;> rfl

theorem beginPreempt_frame (lay c : Nat) (s : State) :
    ((beginPreempt lay c s).ctxAt (ctxKey lay c)).state = .discarding ∧ ((beginPreempt lay c s).ctxAt (ctxKey lay c)).trap = none ∧
      ((beginPreempt lay c s).layerAt lay).switch = true := by
  unfold beginPreempt
  rw [State.updLayer_ctxAt, State.updCtx_ctxAt_same, State.updLayer_layerAt_same, endFreeze_switch]
  exact ⟨rfl, rfl, rfl⟩

theorem endPreq_preq (lay : Nat) (res : BitVec 2) (s : State) :
    ((endPreq lay res s).layerAt lay).preq = none ∧ ((endPreq lay res s).layerAt lay).preqRes = res := by
  unfold endPreq
  rw [State.updLayer_layerAt_same]
  exact ⟨rfl, rfl⟩

theorem endPreq_ctxAt (lay : Nat) (res : BitVec 2) (k : Nat) (s : State) : (endPreq lay res s).ctxAt k = s.ctxAt k := rfl

/-- A request that passes its checks is the layer's from the next cycle on (R425). -/
theorem writePreq_of_good {w : DWord} (h : mtsrBad { s with lay := lay, ctx := 4 } 0x032 w = false) :
    writePreq lay w s = landSpecial lay 4 0x032 (onesMask 64) (w.setWidth 32768
      ||| ((s.ctxAt (ctxKey lay 4)).gReg (fld w 3 4)).setWidth 32768 <<< 64) s :=
  if_neg (Bool.eq_false_iff.mp h)

/-! ### The save -/

theorem writeRecord_of_short {area : Cap} {d : Desc}
    (h : capLimit area - capBase area < (saveRecord s lay c (s.nextId % 2 ^ 32) d).length) :
    writeRecord lay c area d s = refuseSave lay c s := if_pos h

/-- Where no page of the area parks or waits for the host, the save is finished (R426). -/
theorem writeRecord_of_fits {area : Cap} {d : Desc}
    (hfits : (saveRecord s lay c (s.nextId % 2 ^ 32) d).length ≤ capLimit area - capBase area)
    (hplaces : ∀ w ∈ areaPlaces s (lay / 8) (capObj area) (capBase area) (saveRecord s lay c (s.nextId % 2 ^ 32) d).length
      (asidOf s (ctxKey lay c)), w.2.2 ≠ .host ∧ ∀ np z n, w.2.2 ≠ .policy 0 np z n) :
    ∃ u, writeRecord lay c area d s = finishSave lay c (s.nextId % 2 ^ 32) area u := by
  have hpark : firstPark (areaPlaces s (lay / 8) (capObj area) (capBase area)
      (saveRecord s lay c (s.nextId % 2 ^ 32) d).length (asidOf s (ctxKey lay c))) = none := by
    refine List.findSome?_eq_none_iff.mpr fun w hw => ?_
    obtain ⟨_, hpol⟩ := hplaces w hw
    split
    · exact (hpol _ _ _ ‹_›).elim
    · rfl
  have hhost : (areaPlaces s (lay / 8) (capObj area) (capBase area) (saveRecord s lay c (s.nextId % 2 ^ 32) d).length
      (asidOf s (ctxKey lay c))).find? (fun p => p.2.2 == .host) = none :=
    List.find?_eq_none.mpr fun w hw => by simpa using (hplaces w hw).1
  simp only [writeRecord, if_neg (Nat.not_lt.mpr hfits), hpark, hhost]
  exact ⟨_, rfl⟩

theorem endPreq_leaveContext (lay c new : Nat) (s : State) :
    let t := endPreq lay 1 (leaveContext lay c new s)
    t.ctxAt (ctxKey lay c) = .free ∧ (t.layerAt lay).preq = none ∧ (t.layerAt lay).preqRes = 1 :=
  ⟨(endPreq_ctxAt ..).trans (leaveContext_ctxAt ..), endPreq_preq ..⟩

theorem finishSave_frame (lay c srid : Nat) (area : Cap) (s : State) :
    (finishSave lay c srid area s).ctxAt (ctxKey lay c) = .free ∧ ((finishSave lay c srid area s).layerAt lay).preq = none ∧
      ((finishSave lay c srid area s).layerAt lay).preqRes = 1 := by
  simp only [finishSave]
  exact endPreq_leaveContext ..

/-! ### Items of a saved task -/

/-- What a write to a saved record leaves as it was: every record's outstanding count, the requests and the layers (R427). -/
def SameItems (s t : State) : Prop := t.saved = s.saved ∧ t.reqs = s.reqs ∧ t.layers = s.layers

theorem SameItems.refl (s : State) : SameItems s s := ⟨rfl, rfl, rfl⟩

theorem SameItems.trans {s t u : State} (h : SameItems s t) (h' : SameItems t u) : SameItems s u :=
  ⟨h'.1.trans h.1, h'.2.1.trans h.2.1, h'.2.2.trans h.2.2⟩

theorem writeMem_sameItems (bs : List Byte) : ∀ (pa : Nat) (s : State), SameItems s (writeMem pa bs s) := by
  induction bs with
  | nil => exact fun _ s => .refl s
  | cons b bs ih => exact fun pa s => SameItems.trans ⟨rfl, rfl, rfl⟩ (ih (pa + 1) _)

theorem noteRetired_sameItems (pa : Nat) (s : State) : SameItems s (noteRetired pa s) := ⟨rfl, rfl, rfl⟩

theorem writeRuns_sameItems {tower : Nat} {o : BitVec 24} {asid : BitVec 12} (rs : List (Nat × Nat)) :
    ∀ {b : List Byte} {s t : State}, writeRuns tower o asid rs b s = some t → SameItems s t := by
  induction rs with
  | nil => exact fun h => by cases h; exact .refl _
  | cons r rs ih =>
    intro b s t h
    unfold writeRuns at h
    split at h
    · exact (writeMem_sameItems ..).trans (ih h)
    · exact (noteRetired_sameItems ..).trans (ih h)
    · exact ih h
    · cases h

theorem recordDec_sameItems (v : Saved) (off n : Nat) (s : State) : SameItems s (recordDec v off n s) := by
  unfold recordDec
  dsimp only
  split
  · exact writeRuns_sameItems _ ‹_›
  · exact .refl s

/-- An item of the one saved task ends: one fewer is outstanding, and no request changes (R427). -/
theorem itemEnd_of_single {v : Saved} (h : s.saved = [v]) :
    (itemEnd v.srid none s).saved = [{ v with outst := v.outst - 1 }] ∧ (itemEnd v.srid none s).reqs = s.reqs := by
  have hfind : s.saved.find? (fun w => w.srid == v.srid) = some v := by rw [h]; exact List.find?_cons_of_pos (beq_self_eq_true _)
  obtain ⟨_, hreqs, _⟩ := recordDec_sameItems v 0x18 8 s
  simp only [itemEnd, hfind]
  refine ⟨?_, hreqs⟩
  rw [h, List.map_singleton, if_pos rfl]

end Sys2Proof.Proofs

open Sys2Proof Sys2Proof.Machine Sys2Proof.Claims Sys2Proof.Proofs

/-- Settles O39, event by event in the order in which a task leaves. -/
theorem leavingAContext : Obligations.LeavingAContext := by
  refine ⟨fun s lay c => ⟨?_, ?_, ?_, ?_, ?_, ?_, ?_, ?_, ?_, ?_⟩, ?_, ?_, ?_⟩
  · intro hstate hexit hkill hregions hctrs hsettled hfree hroom
    refine ⟨_, if_pos ⟨hstate, hexit, ?_, ?_, countersZero_of hctrs, ?_, ?_, ?_⟩, leaveForGood_ctxAt ..⟩
    · rw [hkill]; rfl
    · rw [hregions]; rfl
    · rw [hsettled]; rfl
    · rw [hfree]; rfl
    · rw [entryHeld_of_room hroom]; rfl
  · intro _ _ hwaits
    refine if_neg fun ⟨_, _, _, _, _, hsettled, hfree, _⟩ => ?_
    obtain h | h := hwaits
    · rw [h] at hsettled; cases hsettled
    · rw [h] at hfree; cases hfree
  · intro hstate hexit hkill hregions hsettled hroom
    refine ⟨_, if_pos ⟨hstate, hkill, hexit, ?_, Or.inl ?_, ?_⟩, leaveForGood_ctxAt ..⟩
    · rw [hregions]; rfl
    · rw [hsettled]; rfl
    · rw [entryHeld_of_room hroom]; rfl
  · intro tr htrap hstate hregions hstep hsettled hcause
    obtain ⟨hctx, htpend⟩ := recordTrap_frame (s := s) (lay := lay) (c := c) hcause
    refine ⟨recordTrap lay c tr s, ?_, ?_⟩
    · change execTrapRecordWrite lay c s = _
      simp only [execTrapRecordWrite, htrap]
      exact if_pos ⟨hstate, by rw [hregions]; rfl, hstep, by rw [hsettled]; rfl⟩
    · rw [hctx]
      exact ⟨rfl, rfl, rfl, rfl, rfl, rfl, htpend⟩
  · intro hhost htask
    change execHostTrapResume lay c s = _
    rw [execHostTrapResume, if_pos hhost]
    exact congrArg Host.Outcome.next (if_neg (by simp [dropHostTrap, htask]))
  · intro hhost htask hc
    change execHostTrapKill lay c s = _
    simp only [execHostTrapKill, if_pos hhost, if_neg hc]
    exact congrArg Host.Outcome.next (if_neg (by simp [dropHostTrap, htask]))
  · intro hhost htask
    change execHostTrapKill lay 4 s = _
    simp only [execHostTrapKill, if_pos hhost, if_true]
    exact if_pos htask
  · intro area hnone hc hfree hnull hvalid hright hlong
    change execHostPreemptRecord lay c false area s = _
    have hbad : ¬((s.layerAt lay).preq.isSome || decide (4 ≤ c)) = true := by
      rw [hnone]; simpa using hc
    have hgood : ¬(!false && (capNull area || !s.capValid area || !hasRight area 1
        || decide (capLimit area - capBase area < 512))) = true := by
      simp [hnull, hvalid, hright, hlong]
    exact (if_neg hbad).trans ((if_neg hfree).trans (if_neg hgood))
  · intro p hpreq hctx hsince
    have hnot : ¬(p.ctx ≠ c ∨ s.cycleOf lay < p.since) := by omega
    have hexec : exec (.preemptEffect lay c) s = execPreemptEffect lay c s := rfl
    simp only [execPreemptEffect, hpreq, if_neg hnot] at hexec
    refine ⟨fun hstate htrapped hplaced hrun => ?_, fun hstate htrap hregions hstep => ⟨fun hkill => ?_, fun hkill hsettled => ?_⟩,
      fun hstate hkill => ?_, fun hstate => ?_⟩
    · refine ⟨beginPreempt lay c s, ?_, beginPreempt_frame ..⟩
      simp only [hexec, hstate, hplaced, htrapped, hrun, false_and, if_false, ne_eq, not_true_eq_false, or_self]
    · have hready : ¬((s.ctxAt (ctxKey lay c)).trap.isSome = true ∨ (!(s.ctxAt (ctxKey lay c)).regions.isEmpty) = true ∨
          (s.layerAt lay).step ≤ (s.ctxAt (ctxKey lay c)).trapStep) := by
        rw [htrap, hregions]
        simpa using hstep
      simp only [hexec, hstate, if_neg hready, hkill, if_true]
    · have hready : ¬((s.ctxAt (ctxKey lay c)).trap.isSome = true ∨ (!(s.ctxAt (ctxKey lay c)).regions.isEmpty) = true ∨
          (s.layerAt lay).step ≤ (s.ctxAt (ctxKey lay c)).trapStep) := by
        rw [htrap, hregions]
        simpa using hstep
      simp only [hexec, hstate, if_neg hready, hkill, hsettled, Bool.false_eq_true, if_false]
    · obtain hstate | hstate | ⟨hstate, htask⟩ := hstate
      · simp only [hexec, hstate, hkill, if_true]
      · simp only [hexec, hstate, hkill, if_true]
      · simp only [hexec, hstate, htask, hkill, and_self, if_true]
    · simp only [hexec, hstate]
      rfl
  · intro p d hpreq hctx hstate hwaits hdesc b
    have hnot : ¬((s.ctxAt (ctxKey lay c)).state ≠ .saving ∨ p.ctx ≠ c ∨ saveWaits s (ctxKey lay c) = true) := by
      simp [hstate, hctx, hwaits]
    have hexec : exec (.saveRecordWrite lay c) s = .next (writeRecord lay c p.area d s) := by
      change execSaveRecordWrite lay c s = _
      simp only [execSaveRecordWrite, hpreq, if_neg hnot, hdesc]
    refine ⟨fun hshort => ?_, fun hfits hplaces => ?_⟩
    · obtain ⟨hnone, hres⟩ := endPreq_preq lay 3 _
      refine ⟨_, hexec.trans (congrArg Host.Outcome.next (writeRecord_of_short hshort)), ?_, hnone, hres⟩
      rw [refuseSave, endPreq_ctxAt, State.updCtx_ctxAt_same]
    · obtain ⟨u, hu⟩ := writeRecord_of_fits hfits hplaces
      exact ⟨_, hexec.trans (congrArg Host.Outcome.next hu), finishSave_frame ..⟩
  · intro s lay c hc hgood
    change Host.Outcome.next (writePreq lay (BitVec.ofNat 64 (c % 4 + 4)) s) = _
    have hsel : fld (BitVec.ofNat 64 (c + 4)) 3 4 = 0 := by
      unfold fld; rw [BitVec.toNat_ofNat, Nat.shiftRight_eq_div_pow]; omega
    rw [Nat.mod_eq_of_lt hc, writePreq_of_good hgood, hsel]
  · intro s lay c g hc hg hgood
    change Host.Outcome.next (writePreq lay (BitVec.ofNat 64 (c % 4 + 8 * (g % 16))) s) = _
    have hsel : fld (BitVec.ofNat 64 (c + 8 * g)) 3 4 = g := by
      unfold fld; rw [BitVec.toNat_ofNat, Nat.shiftRight_eq_div_pow]; omega
    rw [Nat.mod_eq_of_lt hc, Nat.mod_eq_of_lt hg, writePreq_of_good hgood, hsel]
  · intro s q k v hfind hsrid hkey hstate hkind hsaved hk hlast hctr
    have hlive : ¬(q.ctxKey < 128 ∨ q.state ≠ .performed) := by
      rw [hstate]; simpa using hkey
    have hlook : s.saved.find? (fun v => v.srid == k) = some v := by
      rw [hsaved]
      exact List.find?_cons_of_pos (beq_iff_eq.mpr hk)
    have hput : putReturn v q s = s := by simp only [putReturn, hkind]
    have hnone : (dropReq q.id s).reqs.any (fun r => r.eff == q.eff && r.srid == some k) = false := by
      refine List.any_eq_false.mpr fun r hr => ?_
      obtain ⟨hmem, hne⟩ := List.mem_filter.mp hr
      simp [hlast r hmem (bne_iff_ne.mp hne)]
    obtain ⟨hend, hreqs⟩ := itemEnd_of_single (s := dropReq q.id s) hsaved
    refine ⟨itemEnd v.srid none (dropReq q.id s), ?_, hend, fun r => ?_⟩
    · change execTaggedItemComplete q.id s = _
      simp only [execTaggedItemComplete, hfind, hsrid, if_neg hlive, hlook, hput, hnone, hctr, hk, Bool.false_eq_true, if_false]
    · rw [hreqs, dropReq, List.mem_filter, bne_iff_ne]

end


section
/-!
PROOF. TINV, fault service, the host's walks and the loads of the shared stores (R215, R416, R442, R443, R445).
-/

namespace Sys2Proof.Proofs

open Sys2Proof.Machine Sys2Proof.Claims

variable {s : State}

/-! ### TINV and fault service -/

/-- What an invalidation leaves: the entries it does not hit, and the requests that hold a hit leaf to wait for (R443). -/
theorem invalidate_frame (hit : BitVec 24 → Nat → Leaf → Bool) (s : State) :
    (invalidate hit s).tlb = s.tlb.filter (fun e => !hit e.obj e.page e.leaf) ∧ (invalidate hit s).tinvBusy = true ∧
      (invalidate hit s).mem = s.mem ∧ ∀ q ∈ s.reqs, ∀ l, q.state = .ready l → l.size ≠ 0 →
        hit q.obj (q.addr / l.size * l.size) l = true → q.id ∈ (invalidate hit s).tinvWait := by
  refine ⟨rfl, rfl, rfl, fun q hq l hstate hsize hhit => List.mem_map.mpr ⟨q, List.mem_filter.mpr ⟨hq, ?_⟩, rfl⟩⟩
  simp only [hstate, hhit, Bool.and_true]
  exact bne_iff_ne.mpr hsize

/-- A record closed is gone, and its requests, like those that wait for room, stand at their ports again (R445). -/
theorem closeFault_frame {lay fid : Nat} {f : FaultRec} (hf : f ∈ (s.layerAt lay).faults) (hfid : f.fid = fid) :
    (∀ g, g ∈ ((closeFault lay fid s).layerAt lay).faults ↔ g ∈ (s.layerAt lay).faults ∧ g.fid ≠ fid) ∧
      ∀ q ∈ s.reqs, q.lay = lay → q.state = .parked (some f.fid) ∨ q.state = .parked none →
        { q with state := .port } ∈ (closeFault lay fid s).reqs := by
  have hopen : (s.layerAt lay).faults.any (fun f => f.fid == fid) = true := List.any_eq_true.mpr ⟨f, hf, beq_iff_eq.mpr hfid⟩
  unfold closeFault
  rw [if_pos hopen]
  refine ⟨fun g => ?_, fun q hq hlay hparked => List.mem_map.mpr ⟨q, hq, if_pos ⟨hlay, hfid ▸ hparked⟩⟩⟩
  change g ∈ ((s.updLayer lay (fun l => { l with faults := l.faults.filter (fun f => f.fid != fid) })).layerAt lay).faults ↔ _
  rw [State.updLayer_layerAt_same, List.mem_filter, bne_iff_ne]

/-! ### The host's walks -/

/-- A change of both towers, at each of them. -/
theorem foldl_updTower_towerAt (f : Tower → Tower) (s : State) {tw : Nat} (h : tw < 2) :
    ((upto 2).foldl (fun s t => s.updTower t f) s).towerAt tw = f (s.towerAt tw) := by
  have hfold : (upto 2).foldl (fun s t => s.updTower t f) s = (s.updTower 0 f).updTower 1 f := rfl
  obtain rfl | rfl : tw = 0 ∨ tw = 1 := by omega
  · rw [hfold, State.updTower_towerAt_ne _ _ (by decide), State.updTower_towerAt_same]
  · rw [hfold, State.updTower_towerAt_same, State.updTower_towerAt_ne _ _ (by decide)]

/-- What is left of the host's requests at a tower once the walks `done` have their reply (R416). -/
def walksEnded (done : List Nat) (hs : List HostReq) : List HostReq :=
  hs.filter (fun h => match h with | .walk r .. => !done.contains r | _ => true)

theorem mem_walksEnded {done : List Nat} {hs : List HostReq} {h : HostReq} :
    h ∈ walksEnded done hs ↔ h ∈ hs ∧ ∀ r ∈ done, ∀ o a k b, h ≠ .walk r o a k b := by
  rw [walksEnded, List.mem_filter]
  refine and_congr_right fun _ => ?_
  cases h with
  | walk r o a k b =>
    simp only [Bool.not_eq_true', List.contains_eq_mem, decide_eq_false_iff_not]
    refine ⟨fun hno r' hr' o' a' k' b' heq => ?_, fun hall hr => hall r hr o a k b rfl⟩
    cases heq
    exact hno hr'
  | _ => exact ⟨fun _ _ _ _ _ _ _ => by simp, fun _ => rfl⟩

/-- The towers once the walks `done` have their reply. -/
def endWalks (done : List Nat) (s : State) : State :=
  (upto 2).foldl (fun s t => s.updTower t (fun t => { t with host := walksEnded done t.host })) s

theorem endWalks_eq (done : List Nat) (s : State) : endWalks done s = { s with towers := (endWalks done s).towers } := rfl

theorem endWalks_host (done : List Nat) (s : State) {tw : Nat} (h : tw < 2) :
    ((endWalks done s).towerAt tw).host = walksEnded done (s.towerAt tw).host :=
  congrArg Tower.host (foldl_updTower_towerAt _ s h)

/-- A reply reaches every request that waits on a walk of its page (R442). -/
theorem execHostWalkReply_of_pending {id lv : Nat} (w : DWord) (h : hostWalkStale s id ≠ none) :
    exec (.hostWalkReply id w lv) s =
      .next ((s.reqs.filter (fun q => match q.state with | .walking r => (walksOfPage s id lv).contains r | _ => false)).foldl
        (fun t q => hostEntry ((walksOfPage s id lv).any (fun r => hostWalkStale s r == some true)) w lv q t)
        (endWalks (walksOfPage s id lv) s)) := by
  obtain ⟨_, hpending⟩ := Option.ne_none_iff_exists'.mp h
  change execHostWalkReply id w lv s = _
  simp only [execHostWalkReply, hpending]
  rfl

/-! ### Loads of the shared stores -/

/-- A run of values set one after another from `first` on: each is there, and every other key is as it was. -/
theorem mapGet_foldl_mapSet {α : Type} [DecidableEq α] (d : α) (v : Nat → α) (first n : Nat) (m : Map α) :
    (∀ i, i < n → mapGet d ((upto n).foldl (fun m i => mapSet d m (first + i) (v i)) m) (first + i) = v i) ∧
      ∀ j, (∀ i, i < n → j ≠ first + i) →
        mapGet d ((upto n).foldl (fun m i => mapSet d m (first + i) (v i)) m) j = mapGet d m j := by
  induction n with
  | zero => exact ⟨fun i hi => absurd hi (Nat.not_lt_zero i), fun _ _ => rfl⟩
  | succ n ih =>
    obtain ⟨hset, hkept⟩ := ih
    simp only [upto, List.range_succ, List.foldl_append, List.foldl_cons, List.foldl_nil] at hset hkept ⊢
    refine ⟨fun i hi => ?_, fun j hj => ?_⟩
    · rw [mapGet_mapSet]
      split
      · rw [show n = i by omega]
      · exact hset i (by omega)
    · rw [mapGet_mapSet_ne _ _ _ (hj n (by omega)).symm, hkept j fun i hi => hj i (by omega)]

theorem countRetired_layers (tower : Nat) (o : BitVec 24) (off n : Nat) (asid : BitVec 12) (write : Bool) (s : State) :
    (countRetired tower o off n asid write s).layers = s.layers := by
  unfold countRetired
  refine iteInduction (motive := fun u : State => u.layers = s.layers) (fun _ => ?_) fun _ => rfl
  refine List.foldlRecOn (motive := fun u : State => u.layers = s.layers) _ _ rfl fun u hu r _ => ?_
  split
  · exact hu
  · exact hu

theorem counterDown_layers (key n : Nat) (s : State) : (counterDown key n s).layers = s.layers := by
  unfold counterDown
  split
  · rfl
  · split
    · exact (recordDec_sameItems ..).2.2
    · rfl

theorem dropReleased_layers (id : Nat) (s : State) : (dropReleased id s).layers = s.layers := rfl

/-- A load whose source is in this package and whose pages none wait for reads its bytes at once (R215). -/
theorem execLastStoreLoad_of_read {e : Released} {src : Cap} {off : DWord} {n : Nat} {b : List Byte}
    (hpages : ∀ q ∈ s.reqs, q.eff = e.id → q.kind ≠ .recordRead) (hhome : objRemote s (capObj src) = false)
    (hread : readObj s (e.lay / 8) (capObj src) (capBase src + off.toNat) n (asidOf s e.ctxKey) = .bytes b false) :
    ∃ u, u.layers = s.layers ∧ portRead e (capObj src) (capBase src + off.toNat) n
      (fun b p s => writeStores e b (if p then setSpois e.ctxKey s else s)) s = writeStores e b u := by
  have hnone : s.reqs.any (fun q => q.eff == e.id && q.kind == .recordRead && !q.answered) = false := by
    refine List.any_eq_false.mpr fun q hq => ?_
    simp only [Bool.and_eq_true, beq_iff_eq, not_and]
    exact fun ⟨heff, hkind⟩ => absurd hkind (hpages q hq heff)
  refine ⟨dropPages e (countRetired (e.lay / 8) (capObj src) (capBase src + off.toNat) n (asidOf s e.ctxKey) false s),
    countRetired_layers .., ?_⟩
  simp only [portRead, hnone, hread, hhome, Bool.false_eq_true, if_false]

end Sys2Proof.Proofs

open Sys2Proof Sys2Proof.Machine Sys2Proof.Claims Sys2Proof.Proofs

/-- Settles O40: TINV, fault service, the replies of the host, and the loads of the shared stores, each by its own lemma. -/
theorem memoryControlEvents : Obligations.MemoryControlEvents := by
  refine ⟨?_, ?_, ?_, ?_, ?_, ?_, ?_, ?_, ?_, ?_, ?_⟩
  · intro s
    obtain ⟨htlb, hbusy, hmem, hwait⟩ := invalidate_frame (fun _ _ _ => true) s
    refine ⟨_, rfl, ?_, hbusy, hmem, fun q hq l hstate hsize => hwait q hq l hstate hsize rfl⟩
    rw [htlb, Bool.not_true, List.filter_false]
  · intro s o
    obtain ⟨htlb, hbusy, hmem, hwait⟩ := invalidate_frame (fun o' _ _ => o' == o) s
    exact ⟨_, rfl, htlb, hbusy, hmem, fun q hq l hstate hsize hobj => hwait q hq l hstate hsize (beq_iff_eq.mpr hobj)⟩
  · intro s o v
    obtain ⟨htlb, hbusy, hmem, _⟩ :=
      invalidate_frame (fun o' page l => o' == o && page ≤ v.toNat * 65536 && v.toNat * 65536 < page + l.size) s
    refine ⟨_, rfl, hbusy, hmem, fun e => ?_⟩
    rw [htlb, List.mem_filter]
    simp only [Bool.not_eq_true', ← Bool.not_eq_true, Bool.and_eq_true, beq_iff_eq, decide_eq_true_eq, and_assoc]
  · intro s hover
    have hleft : s.tinvWait.filter (tinvUses s) = [] := List.filter_eq_nil_iff.mpr fun id hid => by rw [hover id hid]; exact Bool.false_ne_true
    change execTinvComplete s = _
    simp only [execTinvComplete, hleft, List.isEmpty_nil, Bool.not_true, Bool.and_false]
  · intro s id hid huses
    have hmem : id ∈ s.tinvWait.filter (tinvUses s) := List.mem_filter.mpr ⟨hid, huses⟩
    refine ⟨_, rfl, ?_, hmem⟩
    have hleft : (s.tinvWait.filter (tinvUses s)).isEmpty = false := List.isEmpty_eq_false_iff.mpr (List.ne_nil_of_mem hmem)
    simp only [hleft, Bool.not_false, Bool.and_true]
  · intro s lay f fid hf hfid served
    exact ⟨⟨_, rfl, closeFault_frame hf hfid⟩, ⟨_, rfl, closeFault_frame (s := s.updTower (lay / 8) _) hf hfid⟩⟩
  · intro s id w lv hpending page st
    refine ⟨endWalks page s, execHostWalkReply_of_pending w hpending, endWalks_eq .., fun tw h htw => ?_⟩
    rw [endWalks_host _ _ htw, mem_walksEnded]
  · intro s q w lv st hstale hpage hone
    refine ⟨endWalks [q.id] s, ?_, endWalks_eq ..⟩
    have hwaiting : s.reqs.filter (fun r => match r.state with | .walking k => [q.id].contains k | _ => false) = [q] := by
      rw [← hone]
      refine List.filter_congr fun r _ => ?_
      cases r.state with
      | walking k => exact Bool.eq_iff_iff.mpr (by simp)
      | _ => rfl
    rw [execHostWalkReply_of_pending w (by rw [hstale]; exact Option.some_ne_none st), hpage, hwaiting]
    simp only [List.any_cons, List.any_nil, hstale, Bool.or_false, List.foldl_cons, List.foldl_nil]
    cases st <;> rfl
  · intro s q w lv st hdata
    refine ⟨fun hgood hp hv hleaf hretired => ?_, fun hgood hp hpol => ?_⟩
    · have hkept : isRetired (if st then s else fillCaches q (pteLeaf w lv) s) ((pteLeaf w lv).pa q.addr) = false := by
        cases st
        · exact (isRetired_fillCaches ..).trans hretired
        · exact hretired
      simp only [hostEntry, hgood, hp, hv, portLeaf_of_carriesData hdata hleaf, hkept, Bool.and_self, Bool.not_true, Bool.or_self,
        Bool.false_eq_true, if_false]
    · simp only [hostEntry, hgood, hp, portFault_of_carriesData hdata, Bool.false_and, Bool.not_false, Bool.or_true, if_true,
        Bool.false_eq_true, if_false]
      obtain h | h := hpol
      · rw [h]; rfl
      · rw [h]; rfl
  · intro s e src off first n k b hfind hphase heff hpages hhome hread
    obtain ⟨u, hlayers, hload⟩ := execLastStoreLoad_of_read hpages hhome hread
    refine ⟨writeStores e b u, ?_, ?_⟩
    · change execLastStoreLoadComplete e.id s = _
      simp only [execLastStoreLoadComplete, hfind, heff, hphase, if_true, hload]
    · have hstore : ((writeStores e b u).layerAt e.lay).store = (upto n).foldl
          (fun m i => mapSet Last.none m (first + i) (lastOf ((b.drop (4096 * i)).take 4096))) (s.layerAt e.lay).store := by
        simp only [writeStores, heff]
        rw [layerAt_congr (counterDown_layers ..)]
        rw [layerAt_congr (dropReleased_layers ..), State.updLayer_layerAt_same, layerAt_congr hlayers]
      rw [hstore]
      exact mapGet_foldl_mapSet Last.none (fun i => lastOf ((b.drop (4096 * i)).take 4096)) first n _
  · intro s e src off dir first n k b hfind hphase heff hpages hhome hread
    obtain ⟨u, hlayers, hload⟩ := execLastStoreLoad_of_read hpages hhome hread
    refine ⟨writeStores e b u, ?_, fun hdir => ?_, fun hdir => ?_⟩
    · change execLastStoreLoadComplete e.id s = _
      simp only [execLastStoreLoadComplete, hfind, heff, hphase, if_true, hload]
    · have hmdir : ((writeStores e b u).layerAt e.lay).mdir = (upto 32).foldl
          (fun m i => mapSet 0 m i (BitVec.ofNat 64 (at_ b (8 * i) 8))) (s.layerAt e.lay).mdir := by
        simp only [writeStores, heff, hdir, if_true]
        rw [layerAt_congr (counterDown_layers ..), layerAt_congr (dropReleased_layers ..), State.updLayer_layerAt_same,
          layerAt_congr hlayers]
      have hset := (mapGet_foldl_mapSet 0 (fun i => BitVec.ofNat 64 (at_ b (8 * i) 8)) 0 32 (s.layerAt e.lay).mdir).1
      simp only [Nat.zero_add] at hset
      rw [hmdir]
      exact hset
    · have hmprog : ((writeStores e b u).layerAt e.lay).mprog = (upto n).foldl
          (fun m i => mapSet 0 m (first + i) (BitVec.ofNat 64 (at_ b (8 * i) 8))) (s.layerAt e.lay).mprog := by
        simp only [writeStores, heff, hdir, Bool.false_eq_true, if_false]
        rw [layerAt_congr (counterDown_layers ..), layerAt_congr (dropReleased_layers ..), State.updLayer_layerAt_same,
          layerAt_congr hlayers]
      rw [hmprog]
      exact (mapGet_foldl_mapSet 0 (fun i => BitVec.ofNat 64 (at_ b (8 * i) 8)) first n _).1

end


section
/-!
PROOF. Layer transitions, the keeper, the dividers, and a tower too hot (R213, R214, R492 to R495).
-/

namespace Sys2Proof.Proofs

open Sys2Proof.Machine Sys2Proof.Claims

variable {s : State} {lay : Nat}

/-! ### A fold that reaches something -/

/-- What one element of a fold establishes, under an invariant, and every element keeps, holds at its end. -/
theorem foldl_reaches {α σ : Type} {I P : σ → Prop} {f : σ → α → σ} {a : α} (hI : ∀ s b, I s → I (f s b))
    (hP : ∀ s b, P s → P (f s b)) (ha : ∀ s, I s → P (f s a)) {l : List α} (hmem : a ∈ l) {s : σ} (hs : I s) : P (l.foldl f s) := by
  induction l generalizing s with
  | nil => exact absurd hmem List.not_mem_nil
  | cons b l ih =>
    obtain rfl | hrest := List.mem_cons.mp hmem
    · exact List.foldlRecOn (motive := P) l f (ha s hs) fun t ht b _ => hP t b ht
    · exact ih hrest (hI s b hs)

/-! ### What kills leave of contexts and layers -/

/-- A context whose task is in the same stage of its life. -/
def SameLife (x y : Ctx) : Prop := x.task = y.task ∧ x.killing = y.killing ∧ x.exiting = y.exiting

theorem SameLife.refl (x : Ctx) : SameLife x x := ⟨rfl, rfl, rfl⟩

theorem SameLife.trans {x y z : Ctx} (h : SameLife x y) (h' : SameLife y z) : SameLife x z :=
  ⟨h.1.trans h'.1, h.2.1.trans h'.2.1, h.2.2.trans h'.2.2⟩

/-- A layer in the same power state, with the same requests for another. -/
def SamePower (l m : Layer) : Prop := l.power = m.power ∧ l.preqs = m.preqs

/-- `t` differs from `s` in no layer's power and, but for context `key`, in no task's stage of life. -/
def KillsOnly (key : Nat) (t s : State) : Prop :=
  (∀ k, k ≠ key → SameLife (t.ctxAt k) (s.ctxAt k)) ∧ ∀ l, SamePower (t.layerAt l) (s.layerAt l)

/-- `t` differs from `s` in no layer's power and in no task's stage of life. -/
def Calm (t s : State) : Prop := (∀ k, SameLife (t.ctxAt k) (s.ctxAt k)) ∧ ∀ l, SamePower (t.layerAt l) (s.layerAt l)

theorem Calm.refl (s : State) : Calm s s := ⟨fun k => .refl (s.ctxAt k), fun _ => ⟨rfl, rfl⟩⟩

theorem Calm.trans {t u s : State} (h : Calm t u) (h' : Calm u s) : Calm t s :=
  ⟨fun k => (h.1 k).trans (h'.1 k), fun l => ⟨(h.2 l).1.trans (h'.2 l).1, (h.2 l).2.trans (h'.2 l).2⟩⟩

theorem Calm.of_eq {t s : State} (hctxs : t.ctxs = s.ctxs) (hlayers : t.layers = s.layers) : Calm t s :=
  ⟨fun k => by rw [ctxAt_congr hctxs]; exact .refl _, fun l => by rw [layerAt_congr hlayers]; exact ⟨rfl, rfl⟩⟩

theorem calm_updLayer {f : Layer → Layer} (h : ∀ l, SamePower (f l) l) (k : Nat) (s : State) : Calm (s.updLayer k f) s := by
  refine ⟨fun _ => .refl _, fun l => ?_⟩
  by_cases hl : k = l
  · rw [hl, State.updLayer_layerAt_same]
    exact h _
  · rw [State.updLayer_layerAt_ne _ _ hl]
    exact ⟨rfl, rfl⟩

theorem calm_updCtx {f : Ctx → Ctx} (h : ∀ x, SameLife (f x) x) (k : Nat) (s : State) : Calm (s.updCtx k f) s := by
  refine ⟨fun j => ?_, fun _ => ⟨rfl, rfl⟩⟩
  by_cases hj : k = j
  · rw [hj, State.updCtx_ctxAt_same]
    exact h _
  · rw [State.updCtx_ctxAt_ne _ _ hj]
    exact .refl _

theorem Calm.killsOnly {t s : State} (h : Calm t s) (key : Nat) : KillsOnly key t s := ⟨fun k _ => h.1 k, h.2⟩

theorem KillsOnly.trans {key : Nat} {t u s : State} (h : KillsOnly key t u) (h' : KillsOnly key u s) : KillsOnly key t s :=
  ⟨fun k hk => (h.1 k hk).trans (h'.1 k hk), fun l => ⟨(h.2 l).1.trans (h'.2 l).1, (h.2 l).2.trans (h'.2 l).2⟩⟩

theorem killsOnly_updCtx (key : Nat) (f : Ctx → Ctx) (s : State) : KillsOnly key (s.updCtx key f) s :=
  ⟨fun k hk => by rw [State.updCtx_ctxAt_ne _ _ (Ne.symm hk)]; exact .refl _, fun _ => ⟨rfl, rfl⟩⟩

/-! ### The discard and the updates of a kill -/

theorem sameLife_setCtxSpecial (n : Nat) (v : DWord) (x : Ctx) : SameLife (setCtxSpecial n v x) x := by
  unfold setCtxSpecial
  repeat' refine iteInduction (motive := fun y => SameLife y x) (fun _ => ?_) fun _ => ?_
  all_goals exact ⟨rfl, rfl, rfl⟩

theorem sameLife_restoreSpecial (lay c : Nat) (s : State) (e : Nat × DWord) (j : Nat) :
    SameLife ((restoreSpecial lay c s e).ctxAt j) (s.ctxAt j) := by
  unfold restoreSpecial
  repeat refine iteInduction (motive := fun u : State => SameLife (u.ctxAt j) (s.ctxAt j)) (fun _ => SameLife.refl _) fun _ => ?_
  exact (calm_updCtx (sameLife_setCtxSpecial _ _) _ s).1 j

theorem samePower_restoreSpecial (lay c : Nat) (s : State) (e : Nat × DWord) (l : Nat) :
    SamePower ((restoreSpecial lay c s e).layerAt l) (s.layerAt l) := by
  have hupd : ∀ f : Layer → Layer, (∀ x, SamePower (f x) x) → SamePower ((s.updLayer lay f).layerAt l) (s.layerAt l) :=
    fun f hf => (calm_updLayer hf lay s).2 l
  unfold restoreSpecial
  repeat' refine iteInduction (motive := fun u : State => SamePower (u.layerAt l) (s.layerAt l)) (fun _ => ?_) fun _ => ?_
  all_goals (try exact hupd _ fun _ => ⟨rfl, rfl⟩)
  all_goals exact ⟨rfl, rfl⟩

theorem calm_restoreSpecial (lay c : Nat) (s : State) (e : Nat × DWord) : Calm (restoreSpecial lay c s e) s :=
  ⟨sameLife_restoreSpecial lay c s e, samePower_restoreSpecial lay c s e⟩

/-- A context after the discard of its regions from `r0` on (R51). -/
def discardedCtx (r0 : Region) (adds : List (Nat × Nat)) (x : Ctx) : Ctx :=
  withdraw { x with
    regions := [], pc := r0.entry, loops := r0.loops, xfer := none, delay := 0, notBefore := 0,
    mcallUntil := if r0.id ≤ x.mcallRegion then 0 else x.mcallUntil,
    outs := x.outs.filter (fun o => o.region < r0.id) } adds

theorem sameLife_discardedCtx (r0 : Region) (adds : List (Nat × Nat)) (x : Ctx) : SameLife (discardedCtx r0 adds x) x := by
  obtain ⟨n, hn⟩ := exists_withdraw_eq adds { x with
    regions := [], pc := r0.entry, loops := r0.loops, xfer := none, delay := 0, notBefore := 0,
    mcallUntil := if r0.id ≤ x.mcallRegion then 0 else x.mcallUntil,
    outs := x.outs.filter (fun o => o.region < r0.id) }
  rw [discardedCtx, hn]
  exact ⟨rfl, rfl, rfl⟩

theorem calm_discard (lay c : Nat) (s : State) : Calm (discard lay c s) s := by
  cases h : (s.ctxAt (ctxKey lay c)).regions with
  | nil =>
    simp only [Machine.discard, h]
    refine calm_updCtx ?_ _ s
    exact fun _ => ⟨rfl, rfl, rfl⟩
  | cons r0 rest =>
    obtain ⟨hctxs, hlayers⟩ := discard_ctxs_layers h
    have hrestored : Calm ((restoredSpecials (s.ctxAt (ctxKey lay c)) r0).foldl (restoreSpecial lay c) s) s :=
      List.foldlRecOn (motive := fun u : State => Calm u s) _ _ (.refl s) fun u hu e _ => (calm_restoreSpecial lay c u e).trans hu
    refine ⟨fun k => ?_, fun l => ?_⟩
    · rw [ctxAt_congr hctxs]
      exact ((calm_updCtx (sameLife_discardedCtx r0 _) _ _).trans hrestored).1 k
    · rw [layerAt_congr hlayers]
      refine ((calm_updLayer ?_ lay _).trans hrestored).2 l
      exact fun _ => ⟨rfl, rfl⟩

theorem calm_releaseNew (lay c : Nat) (e : Effect) (s : State) : Calm (releaseNew lay c e s) s := .of_eq rfl rfl

theorem calm_retireUpdates (lay c : Nat) (v : DWord) (s : State) : Calm (retireUpdates lay c v s) s := by
  unfold retireUpdates
  have hflags : ∀ f : State → Nat → State, (∀ u j, Calm (f u j) u) → Calm ((upto 4).foldl f s) s := fun f hf =>
    List.foldlRecOn (motive := fun u : State => Calm u s) _ _ (.refl s) fun u hu j _ => (hf u j).trans hu
  have hbarm := hflags (fun s' j =>
    let w := mapGet 0 (s.ctxAt (ctxKey lay c)).barm j
    if barmShort w = 0 then s'
    else releaseNew lay c (.flag false [barmFaddr w] (BitVec.ofNat 64 (2 ^ 63 + barmShort w)) 4) s') fun u j =>
      iteInduction (motive := fun t : State => Calm t u) (fun _ => .refl u) fun _ => calm_releaseNew ..
  dsimp only
  split
  · exact (calm_releaseNew ..).trans hbarm
  · exact hbarm

/-- A task that is killed, and stays so. -/
def Doomed (x : Ctx) : Prop := x.killing = true ∧ x.task = .killed

theorem Doomed.of_sameLife {x y : Ctx} (h : SameLife x y) (hy : Doomed y) : Doomed x := ⟨h.2.1.trans hy.1, h.1.trans hy.2⟩

theorem endDiscard_frame (lay c : Nat) (s : State) : KillsOnly (ctxKey lay c) (endDiscard lay c s) s ∧
    (Doomed (s.ctxAt (ctxKey lay c)) → Doomed ((endDiscard lay c s).ctxAt (ctxKey lay c))) := by
  have hcalm : ∀ u, Calm u s → KillsOnly (ctxKey lay c) u s ∧ (Doomed (s.ctxAt (ctxKey lay c)) → Doomed (u.ctxAt (ctxKey lay c))) :=
    fun u hu => ⟨hu.killsOnly _, fun h => .of_sameLife (hu.1 _) h⟩
  have hexit : ∀ u v, Calm u s → KillsOnly (ctxKey lay c)
      (retireUpdates lay c v (u.updCtx (ctxKey lay c) (fun x => { x with exiting := some v }))) s ∧
      (Doomed (s.ctxAt (ctxKey lay c)) → Doomed ((retireUpdates lay c v
        (u.updCtx (ctxKey lay c) (fun x => { x with exiting := some v }))).ctxAt (ctxKey lay c))) := by
    refine fun u v hu => ⟨((calm_retireUpdates ..).killsOnly _).trans ((killsOnly_updCtx ..).trans (hu.killsOnly _)), fun h => ?_⟩
    refine .of_sameLife ((calm_retireUpdates ..).1 _) ?_
    rw [State.updCtx_ctxAt_same]
    obtain ⟨hkilling, htask⟩ := Doomed.of_sameLife (hu.1 (ctxKey lay c)) h
    exact ⟨hkilling, htask⟩
  have hfirst : Calm (if (s.ctxAt (ctxKey lay c)).regions.isEmpty then
      s.updCtx (ctxKey lay c) (fun x => { x with xfer := none, delay := 0, notBefore := 0 }) else discard lay c s) s := by
    refine iteInduction (motive := fun u : State => Calm u s) (fun _ => ?_) fun _ => calm_discard lay c s
    refine calm_updCtx ?_ _ s
    exact fun _ => ⟨rfl, rfl, rfl⟩
  unfold endDiscard
  exact iteInduction (motive := fun u : State => KillsOnly (ctxKey lay c) u s ∧
    (Doomed (s.ctxAt (ctxKey lay c)) → Doomed (u.ctxAt (ctxKey lay c)))) (fun _ => hexit _ _ hfirst) fun _ => hcalm _ hfirst

/-- The cycle in which a kill takes effect (R431), before the discard. -/
def struck (lay c : Nat) (s : State) : State :=
  let s := s.updCtx (ctxKey lay c) (fun x => { x with
    task := .killed, state := .releasing, killing := true, held := [], wait := .none, waited := 0, untimed := true, trap := none,
    resume := x.resumeEntry })
  let s := s.updLayer lay (fun l => endFreeze c { l with
    tpend := setBitTo l.tpend c false
    switch := l.switch || l.cur == some c })
  { s with reqs := s.reqs.filter (fun q => !(q.ctxKey == ctxKey lay c && q.parkedLoad)) }

theorem killTask_of_live {c : Nat}
    (h : ¬((s.ctxAt (ctxKey lay c)).task = .free ∨ (s.ctxAt (ctxKey lay c)).killing ∨ (s.ctxAt (ctxKey lay c)).exiting.isSome)) :
    killTask lay c s =
      if ((struck lay c s).layerAt lay).power = .run then struck lay c s else endDiscard lay c (struck lay c s) :=
  if_neg h

theorem samePower_endFreeze (c : Nat) (l : Layer) : SamePower (endFreeze c l) l := by
  unfold endFreeze Layer.keepHolds
  split <;> exact ⟨rfl, rfl⟩

theorem struck_frame (lay c : Nat) (s : State) :
    KillsOnly (ctxKey lay c) (struck lay c s) s ∧ Doomed ((struck lay c s).ctxAt (ctxKey lay c)) := by
  have hreqs : ∀ (u : State) (rs : List Req), Calm { u with reqs := rs } u := fun _ _ => .of_eq rfl rfl
  unfold struck
  refine ⟨((hreqs _ _).killsOnly _).trans (((calm_updLayer ?_ lay _).killsOnly _).trans (killsOnly_updCtx ..)),
    .of_sameLife ((hreqs _ _).1 _) ?_⟩
  · intro l
    obtain ⟨hpower, hpreqs⟩ := samePower_endFreeze c { l with
      tpend := setBitTo l.tpend c false
      switch := l.switch || l.cur == some c }
    exact ⟨hpower, hpreqs⟩
  · rw [State.updLayer_ctxAt, State.updCtx_ctxAt_same]
    exact ⟨rfl, rfl⟩

/-- A kill reaches no other task, and no layer's power; it dooms a task that is there and neither exiting nor doomed. -/
theorem killTask_frame (lay c : Nat) (s : State) : KillsOnly (ctxKey lay c) (killTask lay c s) s ∧
    (Doomed (s.ctxAt (ctxKey lay c)) → killTask lay c s = s) ∧
    ((s.ctxAt (ctxKey lay c)).task ≠ .free → (s.ctxAt (ctxKey lay c)).exiting = none →
      (s.ctxAt (ctxKey lay c)).killing = false → Doomed ((killTask lay c s).ctxAt (ctxKey lay c))) := by
  by_cases hskip : (s.ctxAt (ctxKey lay c)).task = .free ∨ (s.ctxAt (ctxKey lay c)).killing ∨ (s.ctxAt (ctxKey lay c)).exiting.isSome
  · have hsame : killTask lay c s = s := if_pos hskip
    rw [hsame]
    refine ⟨(Calm.refl s).killsOnly _, fun _ => rfl, fun htask hexit hkill => ?_⟩
    rw [hkill, hexit] at hskip
    simp [htask] at hskip
  · obtain ⟨hstruck, hdoom⟩ := struck_frame lay c s
    obtain ⟨hend, hkept⟩ := endDiscard_frame lay c (struck lay c s)
    rw [killTask_of_live hskip]
    exact iteInduction (motive := fun u : State => KillsOnly (ctxKey lay c) u s ∧ (Doomed (s.ctxAt (ctxKey lay c)) → u = s) ∧
        ((s.ctxAt (ctxKey lay c)).task ≠ .free → (s.ctxAt (ctxKey lay c)).exiting = none →
          (s.ctxAt (ctxKey lay c)).killing = false → Doomed (u.ctxAt (ctxKey lay c))))
      (fun _ => ⟨hstruck, fun hdoomed => absurd (Or.inr (Or.inl hdoomed.1)) hskip, fun _ _ _ => hdoom⟩)
      fun _ => ⟨hend.trans hstruck, fun hdoomed => absurd (Or.inr (Or.inl hdoomed.1)) hskip, fun _ _ _ => hkept hdoom⟩

/-! ### A tower too hot -/

/-- A task that a kill would doom, or that is doomed. -/
def Dying (x : Ctx) : Prop := (x.task ≠ .free ∧ x.exiting = none ∧ x.killing = false) ∨ Doomed x

theorem killTask_dooms {c : Nat} (h : Dying (s.ctxAt (ctxKey lay c))) : Doomed ((killTask lay c s).ctxAt (ctxKey lay c)) := by
  obtain ⟨_, hstill, hdooms⟩ := killTask_frame lay c s
  obtain ⟨htask, hexit, hkill⟩ | hdoomed := h
  · exact hdooms htask hexit hkill
  · rwa [hstill hdoomed]

theorem killTask_keeps_doomed {c k : Nat} (h : Doomed (s.ctxAt k)) : Doomed ((killTask lay c s).ctxAt k) := by
  by_cases hk : k = ctxKey lay c
  · subst hk
    exact killTask_dooms (.inr h)
  · exact .of_sameLife ((killTask_frame lay c s).1.1 k hk) h

theorem killTask_keeps_dying {c k : Nat} (h : Dying (s.ctxAt k)) : Dying ((killTask lay c s).ctxAt k) := by
  by_cases hk : k = ctxKey lay c
  · subst hk
    exact .inr (killTask_dooms h)
  · obtain ⟨htask, hkill, hexit⟩ := (killTask_frame lay c s).1.1 k hk
    rw [Dying, Doomed, htask, hkill, hexit]
    exact h

theorem mem_upto {n k : Nat} (h : k < n) : k ∈ upto n := List.mem_range.mpr h

/-- A layer that is off with nothing asked of it, or that is asked to go off and nothing else. -/
def Stopping (l : Layer) : Prop := (l.power = .off → l.preqs = []) ∧ (l.power ≠ .off → ∃ p, l.preqs = [p] ∧ p.target = .off)

/-- What a tower too hot asks of a layer (R495). -/
def askedOff (l : Layer) : Layer :=
  if l.power = .off then { l with preqs := [], copyLeft := 0, heard := [] }
  else match l.preqs with
    | p :: _ => if p.started ∧ p.target = .off then { l with preqs := [{ p with ctxKey := forcedKey }] }
      else { l with preqs := [{ target := .off, ctxKey := forcedKey, n := 0, started := false, left := 0 }] }
    | [] => { l with preqs := [{ target := .off, ctxKey := forcedKey, n := 0, started := false, left := 0 }] }

theorem stopLayer_eq (lay : Nat) (s : State) :
    stopLayer lay s = ((upto 5).foldl (fun s c => killTask lay c s) s).updLayer lay askedOff := rfl

theorem stopLayer_ctxAt (lay k : Nat) (s : State) :
    (stopLayer lay s).ctxAt k = ((upto 5).foldl (fun s c => killTask lay c s) s).ctxAt k := by
  rw [stopLayer_eq, State.updLayer_ctxAt]

theorem stopLayer_keeps_doomed {k : Nat} (h : Doomed (s.ctxAt k)) : Doomed ((stopLayer lay s).ctxAt k) := by
  rw [stopLayer_ctxAt]
  exact List.foldlRecOn (motive := fun u : State => Doomed (u.ctxAt k)) _ _ h fun _ hu _ _ => killTask_keeps_doomed hu

theorem stopLayer_keeps_dying {k : Nat} (h : Dying (s.ctxAt k)) : Dying ((stopLayer lay s).ctxAt k) := by
  rw [stopLayer_ctxAt]
  exact List.foldlRecOn (motive := fun u : State => Dying (u.ctxAt k)) _ _ h fun _ hu _ _ => killTask_keeps_dying hu

theorem stopLayer_dooms {c : Nat} (hc : c < 5) (h : Dying (s.ctxAt (ctxKey lay c))) :
    Doomed ((stopLayer lay s).ctxAt (ctxKey lay c)) := by
  rw [stopLayer_ctxAt]
  exact foldl_reaches (f := fun u c => killTask lay c u) (I := fun u : State => Dying (u.ctxAt (ctxKey lay c))) (P := fun u : State => Doomed (u.ctxAt (ctxKey lay c)))
    (fun _ _ => killTask_keeps_dying) (fun _ _ => killTask_keeps_doomed) (fun _ => killTask_dooms) (mem_upto hc) h

theorem askedOff_stopping (l : Layer) : (askedOff l).power = l.power ∧ Stopping (askedOff l) := by
  unfold askedOff
  split
  next hoff => exact ⟨rfl, fun _ => rfl, fun hon => absurd hoff hon⟩
  next hon =>
    split
    · split
      next hgoes => exact ⟨rfl, fun hoff => absurd hoff hon, fun _ => ⟨_, rfl, hgoes.2⟩⟩
      next => exact ⟨rfl, fun hoff => absurd hoff hon, fun _ => ⟨_, rfl, rfl⟩⟩
    · exact ⟨rfl, fun hoff => absurd hoff hon, fun _ => ⟨_, rfl, rfl⟩⟩

theorem stopLayer_layers (lay : Nat) (s : State) :
    (∀ l, ((stopLayer lay s).layerAt l).power = (s.layerAt l).power) ∧ Stopping ((stopLayer lay s).layerAt lay) ∧
      ∀ l, l ≠ lay → SamePower ((stopLayer lay s).layerAt l) (s.layerAt l) := by
  have hkills : ∀ l, SamePower (((upto 5).foldl (fun s c => killTask lay c s) s).layerAt l) (s.layerAt l) :=
    List.foldlRecOn (motive := fun u : State => ∀ l, SamePower (u.layerAt l) (s.layerAt l)) _ _ (fun _ => ⟨rfl, rfl⟩)
      fun u hu c _ l => ⟨((killTask_frame lay c u).1.2 l).1.trans (hu l).1, ((killTask_frame lay c u).1.2 l).2.trans (hu l).2⟩
  rw [stopLayer_eq]
  obtain ⟨hpower, hstops⟩ := askedOff_stopping (((upto 5).foldl (fun s c => killTask lay c s) s).layerAt lay)
  have hother : ∀ l, l ≠ lay → SamePower
      ((((upto 5).foldl (fun s c => killTask lay c s) s).updLayer lay askedOff).layerAt l) (s.layerAt l) := fun l hl => by
    rw [State.updLayer_layerAt_ne _ _ (Ne.symm hl)]
    exact hkills l
  refine ⟨fun l => ?_, ?_, hother⟩
  · by_cases hl : l = lay
    · rw [hl, State.updLayer_layerAt_same]
      exact hpower.trans (hkills lay).1
    · exact (hother l hl).1
  · rw [State.updLayer_layerAt_same]
    exact hstops

/-- Layers stopped keep their power state. -/
theorem foldl_stopLayer_power (l : Nat) (ns : List Nat) (f : Nat → Nat) (s : State) :
    ((ns.foldl (fun s n => stopLayer (f n) s) s).layerAt l).power = (s.layerAt l).power :=
  List.foldlRecOn (motive := fun u : State => (u.layerAt l).power = (s.layerAt l).power) _ _ rfl
    fun u hu n _ => ((stopLayer_layers (f n) u).1 l).trans hu

theorem stopLayer_keeps_stopping {l : Nat} (h : Stopping (s.layerAt l)) : Stopping ((stopLayer lay s).layerAt l) := by
  obtain ⟨_, hstops, hother⟩ := stopLayer_layers lay s
  by_cases hl : l = lay
  · rwa [hl]
  · obtain ⟨hpower, hpreqs⟩ := hother l hl
    rw [Stopping, hpower, hpreqs]
    exact h

/-- Every task of a layer among those stopped is doomed (R495). -/
theorem foldl_stopLayer_dooms {f : Nat → Nat} {ns : List Nat} {n c : Nat} (hn : n ∈ ns) (hc : c < 5)
    (h : Dying (s.ctxAt (ctxKey (f n) c))) :
    Doomed ((ns.foldl (fun s n => stopLayer (f n) s) s).ctxAt (ctxKey (f n) c)) :=
  foldl_reaches (f := fun u n => stopLayer (f n) u) (I := fun u : State => Dying (u.ctxAt (ctxKey (f n) c)))
    (P := fun u : State => Doomed (u.ctxAt (ctxKey (f n) c))) (fun _ _ => stopLayer_keeps_dying) (fun _ _ => stopLayer_keeps_doomed)
    (fun _ => stopLayer_dooms hc) hn h

/-- A layer among those stopped is asked to go off and nothing else, or is off (R495). -/
theorem foldl_stopLayer_stopping {f : Nat → Nat} {ns : List Nat} {n : Nat} (hn : n ∈ ns) (s : State) :
    Stopping ((ns.foldl (fun s n => stopLayer (f n) s) s).layerAt (f n)) :=
  foldl_reaches (f := fun u n => stopLayer (f n) u) (I := fun _ : State => True)
    (P := fun u : State => Stopping (u.layerAt (f n))) (fun _ _ _ => trivial) (fun _ _ => stopLayer_keeps_stopping)
    (fun u _ => (stopLayer_layers (f n) u).2.1) hn trivial

/-! ### The keeper -/

theorem enterOff_power (lay : Nat) (s : State) : ((enterOff lay s).layerAt lay).power = .off := by
  unfold enterOff
  rw [State.updLayer_layerAt_same]
  rfl

theorem clearShare_layers (lay c : Nat) (h : Share) (s : State) : (clearShare lay c h s).layers = s.layers := by
  unfold clearShare
  exact List.foldlRecOn (motive := fun u : State => u.layers = s.layers) _ _ rfl fun u hu _ _ => hu

theorem setCtx_layerAt (s : State) (k j : Nat) (x : Ctx) : (s.setCtx k x).layerAt j = s.layerAt j := rfl

/-- A supervisor's share loaded into a layer leaves its power, its requests, its flags and its eyelets. -/
theorem loadShare_frame (lay k a : Nat) (bs : List Byte) (h : Option Share) (ls : Map Last) (ps ds : Map DWord) (x : Ctx)
    {u s : State} (hu : u.layers = s.layers) :
    let l := ((u.updLayer lay (fun l => writeDmem a bs { l with
      supShare := h, store := ls, mprog := ps, mdir := ds, sctx := 4 })).setCtx k x).layerAt lay
    l.power = (s.layerAt lay).power ∧ l.preqs = (s.layerAt lay).preqs ∧ l.flags = (s.layerAt lay).flags ∧
      l.eyelets = (s.layerAt lay).eyelets := by
  rw [setCtx_layerAt, State.updLayer_layerAt_same, layerAt_congr hu]
  obtain ⟨m, hm⟩ := exists_writeDmem_eq bs a { s.layerAt lay with
    supShare := h, store := ls, mprog := ps, mdir := ds, sctx := 4 }
  rw [hm]
  exact ⟨rfl, rfl, rfl, rfl⟩

/-- The supervisor's place leaves the layer's power and what was taken back from the keeper. -/
theorem placeSupervisor_frame (lay : Nat) (s : State) :
    let l := (placeSupervisor lay s).layerAt lay
    l.power = (s.layerAt lay).power ∧ l.preqs = (s.layerAt lay).preqs ∧ l.flags = (s.layerAt lay).flags ∧
      l.eyelets = (s.layerAt lay).eyelets := by
  have hkept : (∀ t : State, t.layers = s.layers → (t.layerAt lay).power = (s.layerAt lay).power ∧
      (t.layerAt lay).preqs = (s.layerAt lay).preqs ∧ (t.layerAt lay).flags = (s.layerAt lay).flags ∧
      (t.layerAt lay).eyelets = (s.layerAt lay).eyelets) := fun t ht => by rw [layerAt_congr ht]; exact ⟨rfl, rfl, rfl, rfl⟩
  unfold placeSupervisor
  split
  · exact hkept s rfl
  · dsimp only
    split
    · exact hkept s rfl
    · exact loadShare_frame _ _ _ _ _ _ _ _ _ (clearShare_layers ..)

theorem foldl_updCell_layers {α : Type} (f : State → α → Nat) (g : State → α → Cell → Cell) (as : List α) (s : State) :
    (as.foldl (fun s a => s.updCell (f s a) (g s a)) s).layers = s.layers :=
  List.foldlRecOn (motive := fun u : State => u.layers = s.layers) _ _ rfl fun _ hu _ _ => hu

/-- What a layer takes back: its flags and eyelets are those of the keeper, its power and requests its own (R112, R214). -/
theorem takeBack_frame (lay : Nat) (s : State) :
    let l := (takeBack lay s).layerAt lay
    l.power = (s.layerAt lay).power ∧ l.preqs = (s.layerAt lay).preqs ∧
      l.flags = ((s.towerAt (lay / 8)).keeperFlags.filter (fun e => e.1 / 512 == lay % 8)).map (fun e => (e.1 - 512 * (lay % 8), e.2)) ∧
      l.eyelets = ((s.towerAt (lay / 8)).keeperEyelets.filter (fun e => e.1 / 16 == lay % 8)).map
        (fun e => (e.1 - 16 * (lay % 8), e.2)) := by
  unfold takeBack
  dsimp only
  rw [State.updTower_layerAt, State.updLayer_layerAt_same, layerAt_congr (foldl_updCell_layers ..),
    layerAt_congr (foldl_updCell_layers ..)]
  exact ⟨rfl, rfl, rfl, rfl⟩

/-! ### Transitions -/

/-- A transition whose cycles are over, with everything sent, ends in its target state (R493). -/
theorem exec_layerTransitionDone {p : PowerReq} {rest : List PowerReq} (hpreqs : (s.layerAt lay).preqs = p :: rest)
    (hstart : p.started = true) (hleft : p.left = 0) (hon : (s.layerAt lay).power ≠ .off)
    (hsent : (s.layerAt lay).power = .run → unsent s lay p.target = false)
    (hallowed : p.target = .off → transitionAllowed s lay .off = true) :
    exec (.layerTransitionDone lay) s = (match p.target with
      | .off => .next (finishRequest lay p (enterOff lay s))
      | t => .next (finishRequest lay p (s.updLayer lay (fun l => { l with power := t })))) := by
  have hover : ¬(!p.started ∨ p.left ≠ 0 ∨ (s.layerAt lay).power = .off ∨ ((s.layerAt lay).power = .run ∧ unsent s lay p.target)
      ∨ (p.target = .off ∧ !transitionAllowed s lay .off)) := by
    rintro (h | h | h | ⟨hrun, h⟩ | ⟨hoff, h⟩)
    · rw [hstart] at h; cases h
    · exact h hleft
    · exact hon h
    · rw [hsent hrun] at h; cases h
    · rw [hallowed hoff] at h; cases h
  change execLayerTransitionDone lay s = _
  simp only [execLayerTransitionDone, hpreqs]
  exact if_neg hover

theorem finishRequest_frame (lay : Nat) (p : PowerReq) (s : State) :
    let l := (finishRequest lay p s).layerAt lay
    l.power = (s.layerAt lay).power ∧ l.preqs = (s.layerAt lay).preqs.tail ∧ l.flags = (s.layerAt lay).flags ∧
      l.eyelets = (s.layerAt lay).eyelets := by
  rw [finishRequest, layerAt_congr (counterDown_layers ..), State.updLayer_layerAt_same]
  exact ⟨rfl, rfl, rfl, rfl⟩

/-- A layer whose copy is over comes out of off with its supervisor placed (R112). -/
theorem exec_keeperCopyDone {p : PowerReq} {rest : List PowerReq} (hpreqs : (s.layerAt lay).preqs = p :: rest)
    (hstart : p.started = true) (hleft : p.left = 0) (htarget : p.target ≠ .off) (hoff : (s.layerAt lay).power = .off)
    (hcopied : copying s lay = false) :
    exec (.keeperCopyDone lay) s = .next (finishRequest lay p
      (placeSupervisor lay ((takeBack lay s).updLayer lay (fun l => { l with power := p.target })))) := by
  have hover : ¬(!p.started ∨ p.left ≠ 0 ∨ (s.layerAt lay).power ≠ .off ∨ copying s lay ∨ p.target = .off) := by
    rintro (h | h | h | h | h)
    · rw [hstart] at h; cases h
    · exact h hleft
    · exact h hoff
    · rw [hcopied] at h; cases h
    · exact htarget h
  change execKeeperCopyDone lay s = _
  simp only [execKeeperCopyDone, hpreqs, if_neg hover]

/-! ### Dividers -/

/-- What a comparison with the power limit leaves of a tower (R495). -/
def comparedTower (lim w : Nat) (t : Tower) : Tower :=
  askDiv { t with limDiv := limitDiv lim w t.limDiv, thr := (limitDiv lim w t.limDiv).toNat < 16 }

theorem limitDiv_of_above {lim w : Nat} {d : BitVec 5} (h : lim < w) (hd : 8 < d.toNat) : limitDiv lim w d = d - 1 :=
  (if_pos h).trans (if_pos hd)

theorem limitDiv_of_below {lim w : Nat} {d : BitVec 5} (h : w ≤ lim) (hw : 100 * w < 95 * lim) (hd : d.toNat < 16) :
    limitDiv lim w d = d + 1 :=
  (if_neg (Nat.not_lt.mpr h)).trans ((if_pos hw).trans (if_pos hd))

theorem limitDiv_of_between {lim w : Nat} {d : BitVec 5} (h : w ≤ lim) (hw : 95 * lim ≤ 100 * w) : limitDiv lim w d = d :=
  (if_neg (Nat.not_lt.mpr h)).trans (if_neg (Nat.not_lt.mpr hw))

/-- What a comparison makes of each tower's divider, which it keeps, and of the one it asks for (R495). -/
theorem comparedTower_frame (lim w : Nat) (t : Tower) :
    let d := (comparedTower lim w t).limDiv
    (lim < w → 8 < t.limDiv.toNat → d = t.limDiv - 1) ∧
    (w ≤ lim → 100 * w < 95 * lim → t.limDiv.toNat < 16 → d = t.limDiv + 1) ∧
    (w ≤ lim → 95 * lim ≤ 100 * w → d = t.limDiv) ∧
    (comparedTower lim w t).div = t.div ∧ (comparedTower lim w t).thr = decide (d.toNat < 16) ∧
    (t.hot = false → (comparedTower lim w t).divNext = if d = t.div then none else some d) ∧
    (t.hot = true → (comparedTower lim w t).divNext = if t.div = 8 then none else some 8) := by
  refine ⟨limitDiv_of_above, limitDiv_of_below, limitDiv_of_between, rfl, rfl, fun hcool => ?_, fun hhot => ?_⟩
  · simp only [comparedTower, askDiv, wantedDiv, hcool, Bool.false_eq_true, if_false]
  · simp only [comparedTower, askDiv, wantedDiv, hhot, if_true, eq_comm]

/-- Both towers after a comparison of the power of the last millisecond (R495). -/
def compared (w : BitVec 16) (s : State) : State :=
  (upto 2).foldl (fun u n => u.updTower n (comparedTower s.pwrLimit.toNat w.toNat)) { s with pwr := w, pwrMs := s.ms }

theorem compared_pwr (w : BitVec 16) (s : State) : (compared w s).pwr = w ∧ (compared w s).pwrMs = s.ms := ⟨rfl, rfl⟩

theorem compared_towerAt (w : BitVec 16) (s : State) {tw : Nat} (h : tw < 2) :
    (compared w s).towerAt tw = comparedTower s.pwrLimit.toNat w.toNat (s.towerAt tw) :=
  foldl_updTower_towerAt (comparedTower s.pwrLimit.toNat w.toNat) { s with pwr := w, pwrMs := s.ms } h

theorem exec_powerCheck_of_new {w : BitVec 16} (h : s.pwrMs < s.ms) : exec (.powerCheck w) s = .next (compared w s) :=
  if_neg (Nat.not_le.mpr h)

/-- A tower too hot stops each of its layers and raises the alarm (R495). -/
theorem exec_junctionCritical_of_hot {tw : Nat} {tj : BitVec 8} (h : 115 ≤ tj.toNat) :
    ∃ u : State, exec (.junctionCritical tw tj) s = .next (alarm 495 ((upto 8).foldl (fun s n => stopLayer (8 * tw + n) s) u)) ∧
      u.ctxs = s.ctxs ∧ u.layers = s.layers :=
  ⟨_, if_neg (Nat.not_lt.mpr h), State.updTower_ctxs .., State.updTower_layers ..⟩

theorem alarm_mem_mail (n : Nat) (s : State) : .alarm n ∈ (alarm n s).mail := List.mem_append_right _ List.mem_cons_self

theorem alarm_ctxAt (n k : Nat) (s : State) : (alarm n s).ctxAt k = s.ctxAt k := rfl

theorem alarm_layerAt (n k : Nat) (s : State) : (alarm n s).layerAt k = s.layerAt k := rfl

end Sys2Proof.Proofs

open Sys2Proof Sys2Proof.Machine Sys2Proof.Claims Sys2Proof.Proofs

/-- Settles O41: transitions by the request at the head, dividers by comparison, a hot tower by what its kills leave. -/
theorem powerEvents : Obligations.PowerEvents := by
  refine ⟨?_, ?_, ?_, ?_, ?_, ?_, ?_, ?_, ?_, ?_, ?_⟩
  · intro s lay p rest hpreqs hstart htarget hdead hallowed hsent
    have hgo : (transitionAllowed s lay p.target && !((s.layerAt lay).power == .run && unsent s lay p.target)) = true := by
      rw [hallowed, Bool.true_and, Bool.not_eq_true', Bool.and_eq_false_imp]
      exact fun hrun => hsent (beq_iff_eq.mp hrun)
    change execLayerTransitionStart lay s = _
    simp only [execLayerTransitionStart, hpreqs, hstart, if_neg htarget, hdead, hgo, Bool.false_eq_true, if_false, if_true]
  · intro s lay p rest hpreqs hstart hleft htarget hon hsent
    rw [exec_layerTransitionDone hpreqs hstart hleft hon hsent fun hoff => absurd hoff htarget]
    cases htgt : p.target with
    | off => exact absurd htgt htarget
    | _ => rfl
  · intro s lay p rest hpreqs hstart hleft htarget hon hallowed hsent
    refine ⟨?_, enterOff_power lay s⟩
    rw [exec_layerTransitionDone hpreqs hstart hleft hon (by rwa [htarget]) fun _ => hallowed, htarget]
    rfl
  · intro s key n hkey
    exact if_pos hkey
  · intro s lay p rest hpreqs hstart hleft htarget hoff hcopied
    obtain ⟨_, htpreqs, htflags, hteyelets⟩ := takeBack_frame lay s
    obtain ⟨hpower, hspreqs, hsflags, hseyelets⟩ :=
      placeSupervisor_frame lay ((takeBack lay s).updLayer lay (fun l => { l with power := p.target }))
    rw [State.updLayer_layerAt_same] at hpower hspreqs hsflags hseyelets
    obtain ⟨hfpower, hfpreqs, hfflags, hfeyelets⟩ := finishRequest_frame lay p
      (placeSupervisor lay ((takeBack lay s).updLayer lay (fun l => { l with power := p.target })))
    refine ⟨_, exec_keeperCopyDone hpreqs hstart hleft htarget hoff hcopied, hfpower.trans hpower, ?_,
      hfflags.trans (hsflags.trans htflags), hfeyelets.trans (hseyelets.trans hteyelets)⟩
    rw [hfpreqs, hspreqs, htpreqs, hpreqs, List.tail_cons]
  · intro s tw d hnext hframe
    change execDivChange tw s = _
    simp only [execDivChange, hnext, hframe, if_true]
  · intro s w hsame
    exact if_pos hsame
  · intro s w hnew
    obtain ⟨hpwr, hms⟩ := compared_pwr w s
    refine ⟨_, exec_powerCheck_of_new hnew, hpwr, hms, fun tw htw => ?_⟩
    rw [compared_towerAt w s htw]
    exact comparedTower_frame _ _ (s.towerAt tw)
  · intro s tw tj hhot
    refine ⟨_, rfl, ?_⟩
    rw [State.updTower_towerAt_same]
    simp only [askDiv, wantedDiv, decide_eq_true hhot, Bool.or_true, if_true]
    exact ⟨trivial, trivial, fun hdiv => if_neg (Ne.symm hdiv)⟩
  · intro s tw tj hcool
    refine ⟨_, rfl, ?_⟩
    rw [State.updTower_towerAt_same]
    simp only [askDiv, wantedDiv, decide_eq_false (Nat.not_le.mpr hcool), Bool.and_false, Bool.false_eq_true, if_false]
    exact ⟨trivial, fun hdiv => if_neg (Ne.symm hdiv)⟩
  · intro s tw tj hcritical
    obtain ⟨u, hexec, hctxs, hlayers⟩ := exec_junctionCritical_of_hot (s := s) (tw := tw) hcritical
    refine ⟨_, hexec, alarm_mem_mail .., fun n hn => ?_⟩
    have hpower := foldl_stopLayer_power (8 * tw + n) (upto 8) (fun n => 8 * tw + n) u
    obtain ⟨hoff, hon⟩ := foldl_stopLayer_stopping (f := fun n => 8 * tw + n) (mem_upto hn) u
    rw [layerAt_congr hlayers] at hpower
    rw [alarm_layerAt]
    rw [hpower] at hoff hon
    refine ⟨fun c hc htask hexit hkill => ?_, hpower, hoff, hon⟩
    rw [alarm_ctxAt]
    exact foldl_stopLayer_dooms (f := fun n => 8 * tw + n) (mem_upto hn) hc (.inl (by rw [ctxAt_congr hctxs]; exact ⟨htask, hexit, hkill⟩))

end


section
/-!
PROOF. Errors and failed parts (R479 to R487).
-/

namespace Sys2Proof.Proofs

open Sys2Proof.Machine Sys2Proof.Claims

variable {s : State} {lay : Nat}

/-! ### Records, telemetry, and what an error is attributed to -/

theorem errorBytes_length (code kind tw phys k c : Nat) (loc : DWord) (cyc : Nat) :
    (errorBytes code kind tw phys k c loc cyc).length = 32 := by
  simp only [errorBytes, List.length_append, length_leBytes]

/-- A state that has one more error record, and more counted of a tower's telemetry. -/
def recorded (code kind tw phys k c : Nat) (loc : DWord) (key : Nat) (s : State) : State :=
  countTel tw key (errorRecord code kind tw phys k c loc s)

theorem recorded_mail (code kind tw phys k c : Nat) (loc : DWord) (key : Nat) (s : State) :
    (recorded code kind tw phys k c loc key s).mail =
      s.mail ++ [.error (errorBytes code kind tw phys k c loc (s.towerAt tw).cycle)] := rfl

theorem recorded_ctxAt (code kind tw phys k c : Nat) (loc : DWord) (key j : Nat) (s : State) :
    (recorded code kind tw phys k c loc key s).ctxAt j = s.ctxAt j := rfl

theorem recorded_layerAt (code kind tw phys k c : Nat) (loc : DWord) (key j : Nat) (s : State) :
    (recorded code kind tw phys k c loc key s).layerAt j = s.layerAt j := rfl

theorem errorSite_recorded (lay c' code' k' loc' code kind tw phys k c : Nat) (loc : DWord) (key : Nat) (s : State) :
    errorSite (recorded code kind tw phys k c loc key s) lay c' code' k' loc' = errorSite s lay c' code' k' loc' := rfl

/-- Counting telemetry and leaving records keep every tower but for its telemetry. -/
theorem recorded_towerAt (code kind tw phys k c : Nat) (loc : DWord) (key j : Nat) (s : State) :
    ∃ m, (recorded code kind tw phys k c loc key s).towerAt j = { s.towerAt j with telemetry := m } := by
  unfold recorded countTel
  by_cases hj : tw = j
  · rw [hj, State.updTower_towerAt_same]
    exact ⟨_, rfl⟩
  · rw [State.updTower_towerAt_ne _ _ hj]
    exact ⟨(s.towerAt j).telemetry, rfl⟩

/-! ### UNCORR in a task -/

/-- The trap of an uncorrectable error (R479). -/
def uncorrTrap (s : State) (lay c code k loc : Nat) : TrapInfo :=
  let r := errorSite s lay c code k loc
  { cause := .uncorr, sub := code, code := 0, cell := if code = 9 ∨ code = 14 then none else some k, dec := false,
    slot := r.2.2, baddr := r.2.1, region := r.1, aux0 := errorLoc k loc, aux1 := 0 }

theorem endFreeze_uncorr (c : Nat) (l : Layer) : (endFreeze c l).uncorr = l.uncorr := by
  unfold endFreeze Layer.keepHolds
  split <;> rfl

/-- One more UNCORR of a layer that had fewer than three of late does not fail it (R483). -/
theorem wornOut_noteUncorr (u : State)
    (h : ((u.layerAt lay).uncorr.filter (fun m => u.cycleOf lay < m + 2 ^ 30)).length < 3) :
    wornOut lay (noteUncorr lay u) = noteUncorr lay u := by
  refine if_neg ?_
  rw [noteUncorr, State.updLayer_layerAt_same]
  change ¬4 ≤ (((u.layerAt lay).uncorr.filter (fun m => u.cycleOf lay < m + 2 ^ 30) ++ [u.cycleOf lay]).filter
    (fun m => u.cycleOf lay < m + 2 ^ 30)).length
  have hmore := List.length_filter_le (fun m => decide (u.cycleOf lay < m + 2 ^ 30))
    ((u.layerAt lay).uncorr.filter (fun m => u.cycleOf lay < m + 2 ^ 30) ++ [u.cycleOf lay])
  rw [List.length_append, List.length_singleton] at hmore
  omega

/-- UNCORR in a task that can take it, in a layer that is not worn out: the task discards, and nothing else is reached (R479). -/
theorem raiseUncorr_of_resident {c code k loc : Nat} {u : State} (htask : (u.ctxAt (ctxKey lay c)).task ≠ .free)
    (hstate : (u.ctxAt (ctxKey lay c)).state = .resident) (htrapped : (u.ctxAt (ctxKey lay c)).task ≠ .trapped)
    (hplaced : (u.ctxAt (ctxKey lay c)).task ≠ .placed) (hquiet : (u.ctxAt (ctxKey lay c)).quieted = false)
    (hworn : ((u.layerAt lay).uncorr.filter (fun m => u.cycleOf lay < m + 2 ^ 30)).length < 3) :
    let t := wornOut lay (raiseUncorr lay c code k loc u)
    t.mail = u.mail ∧ (t.ctxAt (ctxKey lay c)).state = .discarding ∧
      (t.ctxAt (ctxKey lay c)).trap = some (uncorrTrap u lay c code k loc) ∧ ∀ j, j ≠ ctxKey lay c → t.ctxAt j = u.ctxAt j := by
  have htaken : ¬((u.ctxAt (ctxKey lay c)).task = .trapped ∨ (u.ctxAt (ctxKey lay c)).task = .placed ∨
      ((u.ctxAt (ctxKey lay c)).quieted = true ∧ (uncorrTrap u lay c code k loc).cause ≠ .watchdog ∧
        (uncorrTrap u lay c code k loc).dec = false)) := by
    simp [htrapped, hplaced, hquiet]
  have hraise : raiseUncorr lay c code k loc u = noteUncorr lay (takeTrap lay c (uncorrTrap u lay c code k loc) u) := if_neg htask
  rw [hraise, takeTrap_of_resident hstate htaken, wornOut_noteUncorr]
  · refine ⟨?_, ?_, ?_, fun j hj => ?_⟩
    · rw [noteUncorr, State.updLayer_mail, State.updLayer_mail, State.updCtx_mail]
    · rw [noteUncorr, State.updLayer_ctxAt, State.updLayer_ctxAt, State.updCtx_ctxAt_same]
    · rw [noteUncorr, State.updLayer_ctxAt, State.updLayer_ctxAt, State.updCtx_ctxAt_same]
    · rw [noteUncorr, State.updLayer_ctxAt, State.updLayer_ctxAt, State.updCtx_ctxAt_ne _ _ (Ne.symm hj)]
  · rw [State.updLayer_layerAt_same, endFreeze_uncorr, State.updCtx_layerAt]
    exact hworn

/-- The structures whose uncorrectable errors are UNCORR in the task that holds the place (R479). -/
theorem uncorrectableIn_of_task {phys code k c loc : Nat} {u : State}
    (hcode : code ∈ [1, 2, 3, 5, 6, 14] ∨ (code = 7 ∧ 56 ≤ loc) ∨ (code = 9 ∧ c ≠ 4)) (hc : c < 5) :
    uncorrectableIn lay phys code k c loc u = wornOut lay (raiseUncorr lay c code k loc u) := by
  simp only [List.mem_cons, List.not_mem_nil, or_false] at hcode
  exact (if_neg (by omega)).trans ((if_neg (by omega)).trans ((if_neg (by omega)).trans ((if_neg (by omega)).trans (if_pos (by omega)))))

theorem recorded_cycleOf (code kind tw phys k c : Nat) (loc : DWord) (key lay : Nat) (s : State) :
    (recorded code kind tw phys k c loc key s).cycleOf lay = s.cycleOf lay := by
  obtain ⟨m, hm⟩ := recorded_towerAt code kind tw phys k c loc key (lay / 8) s
  rw [State.cycleOf, hm, State.cycleOf]

theorem logicalOf_recorded (code kind tw phys k c : Nat) (loc : DWord) (key j p : Nat) (s : State) :
    logicalOf ((recorded code kind tw phys k c loc key s).towerAt j) p = logicalOf (s.towerAt j) p := by
  obtain ⟨m, hm⟩ := recorded_towerAt code kind tw phys k c loc key j s
  rw [hm]
  rfl

/-- Such an error is recorded, counted, and UNCORR in the task (R479). -/
theorem exec_softError_of_task {code tw phys n k c loc : Nat}
    (hcode : code ∈ [1, 2, 3, 5, 6, 14] ∨ (code = 7 ∧ 56 ≤ loc) ∨ (code = 9 ∧ c ≠ 4))
    (hlog : logicalOf (s.towerAt tw) phys = some n) (hc : c < 5) (hk : k < 64) :
    exec (.softError code tw phys k c loc true) s = .next (wornOut (8 * tw + n) (raiseUncorr (8 * tw + n) c code k loc
      (recorded code 1 tw phys k c (errorLoc k loc) (telUncorrectable code phys) s))) := by
  have hplain : code ≠ 13 ∧ code ≠ 11 := by
    simp only [List.mem_cons, List.not_mem_nil, or_false] at hcode
    omega
  have hthere := logicalOf_recorded code 1 tw phys k c (errorLoc k loc) (telUncorrectable code phys) tw phys s
  rw [hlog, recorded] at hthere
  change execSoftError code tw phys k c loc true s = _
  simp only [execSoftError, if_neg hplain.1, if_neg hplain.2, if_true, Bool.not_true, Bool.false_eq_true, if_false, hthere,
    Nat.mod_eq_of_lt hk]
  rw [uncorrectableIn_of_task hcode hc, recorded]

/-! ### Retries -/

/-- A layer held back by a repeated traversal passes its turn once, at the same step (R481). -/
theorem beginIssue_of_stall (h : (s.layerAt lay).stall = true) : ∃ t, beginIssue lay s = .next t ∧ (t.layerAt lay).stall = false ∧
    t.phase = nextLayer lay ∧ (t.layerAt lay).step = (s.layerAt lay).step ∧ t.ctxs = s.ctxs := by
  have hpass : passStall lay s = s.updLayer lay (fun l => { l with stall := false, thaw := some (l.thaw.getD (s.cycleOf lay)) }) :=
    if_pos h
  have hphase : ∀ (u : State) (p : Phase), ({ u with phase := p } : State).layerAt lay = u.layerAt lay := fun _ _ => rfl
  have hlayer : ∀ p, ({ passStall lay s with phase := p } : State).layerAt lay =
      { s.layerAt lay with stall := false, thaw := some ((s.layerAt lay).thaw.getD (s.cycleOf lay)) } := fun p => by
    rw [hphase, hpass, State.updLayer_layerAt_same]
  refine ⟨_, if_pos (by rw [h, Bool.or_true]), ?_, rfl, ?_, ?_⟩
  · rw [hlayer]
  · rw [hlayer]
  · exact (congrArg State.ctxs hpass).trans (State.updLayer_ctxs ..)

/-- A repeated traversal holds a layer in run back, and reaches nothing else (R481). -/
theorem freezeOnce_frame (lay : Nat) (s : State) :
    ((s.layerAt lay).power = .run → ((freezeOnce lay s).layerAt lay).stall = true) ∧
      ((freezeOnce lay s).layerAt lay).step = (s.layerAt lay).step ∧ ((freezeOnce lay s).layerAt lay).uncorr = (s.layerAt lay).uncorr ∧
      (freezeOnce lay s).cells = s.cells ∧ (freezeOnce lay s).ctxs = s.ctxs ∧ (freezeOnce lay s).mail = s.mail ∧
      (freezeOnce lay s).towers = s.towers := by
  unfold freezeOnce
  split
  · rw [State.updLayer_layerAt_same]
    exact ⟨fun _ => rfl, rfl, rfl, rfl, rfl, rfl, rfl⟩
  next hon => exact ⟨fun hrun => absurd hrun hon, rfl, rfl, rfl, rfl, rfl, rfl⟩

/-! ### A failed layer -/

theorem failTask_eq_of_free {c phys : Nat} (h : (s.ctxAt (ctxKey lay c)).task = .free) : failTask lay c phys s = s := if_pos h

/-- The record of a task killed with its layer is the host's, and nothing else changes (R485, step 1). -/
theorem failTask_of_task {c phys : Nat} (h : (s.ctxAt (ctxKey lay c)).task ≠ .free) :
    ∃ ws, failTask lay c phys s = s.updTower (lay / 8) (fun w => { w with host := w.host ++ [.trap lay c ws] }) :=
  ⟨_, if_neg h⟩

/-- What the host's records of a failed layer's tasks leave as it was. -/
def SameButHost (t s : State) : Prop :=
  t.mail = s.mail ∧ t.ctxs = s.ctxs ∧ (∀ k, (t.towerAt k).failed = (s.towerAt k).failed) ∧
    ∀ k h, h ∈ (s.towerAt k).host → h ∈ (t.towerAt k).host

theorem SameButHost.refl (s : State) : SameButHost s s := ⟨rfl, rfl, fun _ => rfl, fun _ _ h => h⟩

theorem SameButHost.trans {t u s : State} (h : SameButHost t u) (h' : SameButHost u s) : SameButHost t s := by
  obtain ⟨hmail, hctxs, hfailed, hhost⟩ := h
  obtain ⟨hmail', hctxs', hfailed', hhost'⟩ := h'
  exact ⟨hmail.trans hmail', hctxs.trans hctxs', fun k => (hfailed k).trans (hfailed' k), fun k x hx => hhost k x (hhost' k x hx)⟩

theorem sameButHost_failTask (lay c phys : Nat) (s : State) : SameButHost (failTask lay c phys s) s := by
  by_cases hfree : (s.ctxAt (ctxKey lay c)).task = .free
  · rw [failTask_eq_of_free hfree]
    exact .refl s
  · obtain ⟨ws, hws⟩ := failTask_of_task (phys := phys) hfree
    rw [hws]
    refine ⟨State.updTower_mail .., State.updTower_ctxs .., fun k => ?_, fun k h hh => ?_⟩
    · by_cases hk : lay / 8 = k
      · rw [hk, State.updTower_towerAt_same]
      · rw [State.updTower_towerAt_ne _ _ hk]
    · by_cases hk : lay / 8 = k
      · rw [hk, State.updTower_towerAt_same]
        exact List.mem_append_left _ hh
      · rwa [State.updTower_towerAt_ne _ _ hk]

/-- The records of every task of a layer that fails. -/
def failTasks (lay phys : Nat) (s : State) : State := (upto 4).foldl (fun s c => failTask lay c phys s) s

theorem sameButHost_failTasks (lay phys : Nat) (s : State) : SameButHost (failTasks lay phys s) s :=
  List.foldlRecOn (motive := fun u : State => SameButHost u s) _ _ (.refl s)
    fun u hu c _ => (sameButHost_failTask lay c phys u).trans hu

theorem failTasks_host {c : Nat} (phys : Nat) (hc : c < 4) (h : (s.ctxAt (ctxKey lay c)).task ≠ .free) :
    ∃ ws, .trap lay c ws ∈ ((failTasks lay phys s).towerAt (lay / 8)).host := by
  refine foldl_reaches (f := fun u c => failTask lay c phys u) (I := fun u : State => (u.ctxAt (ctxKey lay c)).task ≠ .free)
    (P := fun u : State => ∃ ws, .trap lay c ws ∈ (u.towerAt (lay / 8)).host) (fun u b hu => ?_) (fun u b ⟨ws, hws⟩ => ?_)
    (fun u hu => ?_) (mem_upto hc) h
  · obtain ⟨_, hctxs, _, _⟩ := sameButHost_failTask lay b phys u
    rwa [ctxAt_congr hctxs]
  · obtain ⟨_, _, _, hhost⟩ := sameButHost_failTask lay b phys u
    exact ⟨ws, hhost _ _ hws⟩
  · obtain ⟨ws, hws⟩ := failTask_of_task (phys := phys) hu
    refine ⟨ws, ?_⟩
    rw [hws, State.updTower_towerAt_same]
    exact List.mem_append_right _ List.mem_cons_self

/-- A physical layer declared failed, with the record of it (R483). -/
def declaredFailed (tw phys : Nat) (s : State) : State :=
  errorRecord 0 3 tw phys 0 7 0 (s.updTower tw (fun t => { t with failed := t.failed ++ [phys] }))

theorem declaredFailed_mail (tw phys : Nat) (s : State) :
    (declaredFailed tw phys s).mail = s.mail ++ [.error (errorBytes 0 3 tw phys 0 7 0 (s.towerAt tw).cycle)] := by
  rw [declaredFailed, errorRecord, State.updTower_towerAt_same, State.updTower_mail]

theorem declaredFailed_failed (tw phys : Nat) (s : State) :
    ((declaredFailed tw phys s).towerAt tw).failed = (s.towerAt tw).failed ++ [phys] := by
  change ((s.updTower tw (fun t => { t with failed := t.failed ++ [phys] })).towerAt tw).failed = _
  rw [State.updTower_towerAt_same]

theorem declaredFailed_ctxs (tw phys : Nat) (s : State) : (declaredFailed tw phys s).ctxs = s.ctxs := rfl

/-- A physical layer that fails, with its record and the host's records of its tasks, before its tasks are killed (R485). -/
def struckLayer (tw phys n : Nat) (s : State) : State :=
  (failTasks (8 * tw + n) phys (declaredFailed tw phys s)).updLayer (8 * tw + n)
    (fun l => { l with failing := some phys, cur := none, uncorr := [] })

theorem failLayer_of_logical {tw phys n : Nat} (hnew : phys ∉ (s.towerAt tw).failed) (hlog : logicalOf (s.towerAt tw) phys = some n) :
    failLayer tw phys s = pump (killAll (8 * tw + n) (dropQueues (8 * tw + n) (struckLayer tw phys n s))) := by
  have hno : (s.towerAt tw).failed.contains phys = false := by simpa using hnew
  simp only [failLayer, hno, hlog, Bool.false_eq_true, if_false]
  rfl

theorem failLayer_of_unused {tw phys : Nat} (hnew : phys ∉ (s.towerAt tw).failed) (hlog : logicalOf (s.towerAt tw) phys = none) :
    failLayer tw phys s = errorRecord 0 3 tw phys 0 7 0 (s.updTower tw (fun t => { t with failed := t.failed ++ [phys] })) := by
  have hno : (s.towerAt tw).failed.contains phys = false := by simpa using hnew
  simp only [failLayer, hno, hlog, Bool.false_eq_true, if_false]

theorem struckLayer_frame (tw phys n : Nat) (s : State) : let u := struckLayer tw phys n s
    u.mail = s.mail ++ [.error (errorBytes 0 3 tw phys 0 7 0 (s.towerAt tw).cycle)] ∧
      (u.towerAt tw).failed = (s.towerAt tw).failed ++ [phys] ∧ (u.layerAt (8 * tw + n)).failing = some phys ∧
      (∀ c, c < 4 → (s.ctxAt (ctxKey (8 * tw + n) c)).task ≠ .free →
        ∃ ws, HostReq.trap (8 * tw + n) c ws ∈ (u.towerAt (tw + n / 8)).host) ∧ u.ctxs = s.ctxs := by
  obtain ⟨hmail, hctxs, hfailed, _⟩ := sameButHost_failTasks (8 * tw + n) phys (declaredFailed tw phys s)
  have htower : (8 * tw + n) / 8 = tw + n / 8 := by omega
  simp only [struckLayer, State.updLayer_mail, State.updLayer_ctxs, State.updLayer_towerAt, State.updLayer_layerAt_same]
  refine ⟨hmail.trans (declaredFailed_mail ..), (hfailed tw).trans (declaredFailed_failed ..), trivial, fun c hc htask => ?_,
    hctxs.trans (declaredFailed_ctxs ..)⟩
  rw [← htower]
  exact failTasks_host phys hc (by rwa [ctxAt_congr (declaredFailed_ctxs ..)])

/-! ### The cycle after -/

/-- A tower with the same spare, the same failed layers and the same duties. -/
def SameParts (t u : Tower) : Prop := t.spare = u.spare ∧ t.failed = u.failed ∧ t.dsplit = u.dsplit

/-- `t` has in every tower the same parts as `s`. -/
def KeepsParts (t s : State) : Prop := ∀ k, SameParts (t.towerAt k) (s.towerAt k)

theorem KeepsParts.refl (s : State) : KeepsParts s s := fun _ => ⟨rfl, rfl, rfl⟩

theorem KeepsParts.trans {t u s : State} (h : KeepsParts t u) (h' : KeepsParts u s) : KeepsParts t s := fun k =>
  ⟨(h k).1.trans (h' k).1, (h k).2.1.trans (h' k).2.1, (h k).2.2.trans (h' k).2.2⟩

theorem KeepsParts.of_eq {t s : State} (h : t.towers = s.towers) : KeepsParts t s := fun k => by
  rw [towerAt_congr h]
  exact ⟨rfl, rfl, rfl⟩

theorem keepsParts_updTower {f : Tower → Tower} (h : ∀ t, SameParts (f t) t) (j : Nat) (s : State) :
    KeepsParts (s.updTower j f) s := fun k => by
  by_cases hk : j = k
  · rw [hk, State.updTower_towerAt_same]
    exact h _
  · rw [State.updTower_towerAt_ne _ _ hk]
    exact ⟨rfl, rfl, rfl⟩

theorem leaveContext_towers (lay c new : Nat) (s : State) : (leaveContext lay c new s).towers =
    (s.updTower (lay / 8) (fun t => { t with
      running := t.running.map (fun r => if r.place == some (lay, c) then { r with place := none } else r) })).towers := rfl

theorem keepsParts_leaveContext (lay c new : Nat) (s : State) : KeepsParts (leaveContext lay c new s) s := by
  refine KeepsParts.trans (.of_eq (leaveContext_towers lay c new s)) (keepsParts_updTower ?_ (lay / 8) s)
  exact fun _ => ⟨rfl, rfl, rfl⟩

theorem keepsParts_leaveForGood (lay c : Nat) (s : State) : KeepsParts (leaveForGood lay c s) s :=
  KeepsParts.trans (keepsParts_leaveContext _ _ _ _) (.of_eq rfl)

theorem keepsParts_salvageFlags (lay : Nat) (s : State) : KeepsParts (salvageFlags lay s) s := by
  unfold salvageFlags
  exact List.foldlRecOn (motive := fun u : State => KeepsParts u s) _ _ (.refl s) fun u hu i _ =>
    iteInduction (motive := fun t : State => KeepsParts t s) (fun _ => KeepsParts.trans (.of_eq rfl) hu)
      fun _ => KeepsParts.trans (.of_eq rfl) hu

/-- What the keeper takes of a layer that goes off, and its contexts given up (R214). -/
def givenUp (lay : Nat) (s : State) : State :=
  let l := s.layerAt lay
  let n := lay % 8
  let s := s.updTower (lay / 8) (fun t => { t with
    keeperFlags := l.flags.foldl (fun m e => mapSet 0 m (512 * n + e.1) e.2) t.keeperFlags
    keeperEyelets := l.eyelets.foldl (fun m e => mapSet .reset m (16 * n + e.1) e.2) t.keeperEyelets })
  (upto 5).foldl (fun s c => if (s.ctxAt (ctxKey lay c)).state = .free then s else leaveForGood lay c s) s

theorem enterOff_towers (lay : Nat) (s : State) : (enterOff lay s).towers = (givenUp lay s).towers := by
  unfold enterOff givenUp
  rw [State.updLayer_towers]

theorem keepsParts_givenUp (lay : Nat) (s : State) : KeepsParts (givenUp lay s) s := by
  unfold givenUp
  refine List.foldlRecOn (motive := fun u : State => KeepsParts u s) _ _ ?_ fun u hu c _ =>
    iteInduction (motive := fun t : State => KeepsParts t s) (fun _ => hu) fun _ => (keepsParts_leaveForGood lay c u).trans hu
  refine keepsParts_updTower ?_ _ s
  exact fun _ => ⟨rfl, rfl, rfl⟩

theorem keepsParts_enterOff (lay : Nat) (s : State) : KeepsParts (enterOff lay s) s :=
  KeepsParts.trans (.of_eq (enterOff_towers lay s)) (keepsParts_givenUp lay s)

/-- A failed layer that is off, with what was asked of its power to be started again (R485, step 2). -/
def layerOff (lay : Nat) (s : State) : State :=
  (if (s.layerAt lay).power = .off then s else enterOff lay (salvageFlags lay s)).updLayer lay (fun l => { l with
    power := .off, failing := none, copyLeft := 0, heard := [], preqs := l.preqs.map (fun p => { p with started := false, left := 0 }) })

theorem keepsParts_layerOff (lay : Nat) (s : State) : KeepsParts (layerOff lay s) s := by
  have hoff : KeepsParts (if (s.layerAt lay).power = .off then s else enterOff lay (salvageFlags lay s)) s :=
    iteInduction (motive := fun t : State => KeepsParts t s) (fun _ => .refl s)
      fun _ => (keepsParts_enterOff _ _).trans (keepsParts_salvageFlags _ _)
  exact KeepsParts.trans (.of_eq (State.updLayer_towers ..)) hoff

theorem layerOff_layer (lay : Nat) (s : State) :
    ((layerOff lay s).layerAt lay).power = .off ∧ ((layerOff lay s).layerAt lay).failing = none := by
  rw [layerOff, State.updLayer_layerAt_same]
  exact ⟨rfl, rfl⟩

/-- The spare of a tower that has it free, and whose supervisor has the duty, takes a failed layer's number at once (R485, step 5). -/
theorem layerOver_of_spare {phys : Nat} (hfail : (s.layerAt lay).failing = some phys)
    (hspare : (s.towerAt (lay / 8)).spare = none) (hworks : 8 ∉ (s.towerAt (lay / 8)).failed)
    (hduty : (s.towerAt (lay / 8)).dsplit.getLsbD 6 = false) :
    layerOver lay s = useSpare (lay / 8) (lay % 8) phys (layerOff lay s) := by
  obtain ⟨hs, hf, hd⟩ := keepsParts_layerOff lay s (lay / 8)
  have hfree : (((layerOff lay s).towerAt (lay / 8)).spare.isSome || ((layerOff lay s).towerAt (lay / 8)).failed.contains 8) = false := by
    rw [hs, hf, hspare]
    simpa using hworks
  unfold layerOver
  rw [hfail]
  change (if (((layerOff lay s).towerAt (lay / 8)).spare.isSome || ((layerOff lay s).towerAt (lay / 8)).failed.contains 8) then
    becomeAbsent (lay / 8) (lay % 8) (layerOff lay s)
    else if ((layerOff lay s).towerAt (lay / 8)).dsplit.getLsbD 6 then _
    else useSpare (lay / 8) (lay % 8) phys (layerOff lay s)) = _
  rw [hfree, hd, hduty]
  rfl

theorem useSpare_frame (tw n phys : Nat) (s : State) : let t := useSpare tw n phys s
    (t.layerAt (8 * tw + n)).power = (s.layerAt (8 * tw + n)).power ∧
      (t.layerAt (8 * tw + n)).failing = (s.layerAt (8 * tw + n)).failing ∧ (t.towerAt tw).spare = some (phys, n) ∧
      ∃ p rest, (t.layerAt (8 * tw + n)).preqs = p :: rest ∧ p.target = .run := by
  simp only [useSpare, State.updLayer_layerAt_same, State.updLayer_towerAt, State.updTower_towerAt_same]
  exact ⟨rfl, rfl, trivial, _, _, rfl, rfl⟩

/-! ### What a failed layer's queues hold, and the host's word on the spare -/

theorem dropQueues_layer (lay : Nat) (s : State) :
    ((dropQueues lay s).layerAt lay).beats = [] ∧ ((dropQueues lay s).layerAt lay).outUpd = [] := by
  unfold dropQueues
  rw [State.updLayer_layerAt_same]
  exact ⟨rfl, rfl⟩

theorem dropQueues_reqs (lay : Nat) (s : State) : (dropQueues lay s).reqs =
    s.reqs.filter (fun q => !(q.lay == lay && (q.state == .queued || q.state == .held))) := rfl

theorem not_flag_of_mem_dropQueues {e : Released} (he : e ∈ (dropQueues lay s).released) (hlay : e.lay = lay) (b : Bool)
    (f : List (BitVec 21)) (i : DWord) (v : Nat) : e.effect ≠ .flag b f i v := by
  obtain ⟨e0, he0, rfl⟩ := List.mem_map.mp he
  obtain ⟨_, hkept⟩ := List.mem_filter.mp he0
  cases heff : e0.effect with
  | flag b' f' i' v' =>
    simp only [heff] at hlay hkept
    simp [hlay] at hkept
  | complete r h g w =>
    dsimp only
    split
    · exact fun h => by cases h
    · rw [heff]
      exact fun h => by cases h
  | _ =>
    simp only [heff]
    exact fun h => by cases h

/-- The host's word on the one spare it was asked about (R416, R485). -/
theorem exec_hostSpareReply {tw l p : Nat} (h : (s.towerAt tw).host = [.spare l p]) :
    let u := s.updTower tw (fun t => { t with host := [] })
    exec (.hostSpareReply tw l) s = .next (if (u.towerAt tw).spare.isSome || (u.towerAt tw).failed.contains 8 then becomeAbsent tw l u
      else useSpare tw l p u) := by
  have hasked : (s.towerAt tw).host.findSome? (fun h => match h with
      | .spare l' p => if l' = l then some p else none
      | _ => none) = some p := by
    rw [h]
    simp
  have hdropped : s.updTower tw (fun t => { t with host := t.host.filter (fun h => match h with
      | .spare l' _ => l' != l
      | _ => true) }) = s.updTower tw (fun t => { t with host := [] }) := updTower_congr (by
    rw [h]
    simp)
  change execHostSpareReply tw l s = _
  unfold execHostSpareReply
  generalize hfound : List.findSome? _ _ = o
  obtain rfl : o = some p := hfound.symm.trans hasked
  exact congrArg (fun u : State => (.next (if (u.towerAt tw).spare.isSome || (u.towerAt tw).failed.contains 8 then becomeAbsent tw l u
    else useSpare tw l p u) : Res)) hdropped

end Sys2Proof.Proofs

open Sys2Proof Sys2Proof.Machine Sys2Proof.Claims Sys2Proof.Proofs

/-- Settles O42: each error by its record and what it is attributed to, each failed part by the states it passes. -/
theorem failureEvents : Obligations.FailureEvents := by
  refine ⟨errorBytes_length, ?_, ?_, ?_, ?_, ?_, ?_, ?_, ?_, ?_, ?_, ?_, ?_, ?_, ?_, ?_, ?_, ?_, ?_⟩
  · exact fun _ _ _ _ _ _ _ _ => rfl
  · intro s code tw phys k c loc hcode
    change execSoftError code tw phys k c loc false s = _
    simp only [execSoftError, if_neg hcode, Bool.false_eq_true, if_false, Bool.not_false, if_true]
  · intro s tw phys k c loc
    change execSoftError 13 tw phys k c loc true s = _
    simp only [execSoftError, if_true, Bool.not_true, Bool.false_eq_true, if_false]
    rfl
  · intro s code tw phys n k c loc lay x hcode hlog hc hk hn htask hstate htrapped hplaced hquiet hworn
    obtain ⟨hmail, hdiscards, htrap, hothers⟩ := raiseUncorr_of_resident (code := code) (k := k) (loc := loc)
      (u := recorded code 1 tw phys k c (errorLoc k loc) (telUncorrectable code phys) s) htask hstate htrapped hplaced hquiet
      (by rw [recorded_layerAt, recorded_cycleOf]; exact hworn)
    exact ⟨_, _, exec_softError_of_task hcode hlog hc hk, hmail.trans (recorded_mail ..), hdiscards, htrap, rfl, rfl, rfl,
      errorSite_recorded .., fun j hj => (hothers j hj).trans (recorded_ctxAt ..)⟩
  · intro s lay c code k loc f hcode hread
    simp only [List.mem_cons, List.not_mem_nil, or_false] at hcode
    obtain rfl | rfl | rfl := hcode
    · simp only [errorSite, hread, and_self]
    · simp only [errorSite, hread, and_self]
    · simp only [errorSite, hread, and_self]
  · intro s lay c k d i hland
    simp only [errorSite, hland]
  · intro s lay k c phys
    obtain ⟨hstall, hstep, _, hcells, hctxs, hmail, _⟩ :=
      freezeOnce_frame lay (recorded 6 2 (lay / 8) phys k c (errorLoc k 0) (telNetwork phys k) s)
    exact ⟨_, rfl, hmail.trans (recorded_mail ..), hstall, hstep, hcells, hctxs⟩
  · intro s lay hrun hstall
    exact beginIssue_of_stall (s := { s with phase := .issue lay }) hstall
  · intro s lay k c x phys hc hk htask hstate htrapped hplaced hquiet hworn
    obtain ⟨_, _, huncorr, _, hctxs, hmail, htowers⟩ :=
      freezeOnce_frame lay (recorded 6 2 (lay / 8) phys k c (errorLoc k 0) (telNetwork phys k) s)
    have hctx : (freezeOnce lay (recorded 6 2 (lay / 8) phys k c (errorLoc k 0) (telNetwork phys k) s)).ctxAt (ctxKey lay c) = x :=
      ctxAt_congr hctxs _
    have hcycle : (freezeOnce lay (recorded 6 2 (lay / 8) phys k c (errorLoc k 0) (telNetwork phys k) s)).cycleOf lay = s.cycleOf lay :=
      (congrArg Tower.cycle (towerAt_congr htowers (lay / 8))).trans (recorded_cycleOf ..)
    obtain ⟨hmail', _, htrap, _⟩ := raiseUncorr_of_resident (c := c) (code := 6) (k := k) (loc := 0)
      (u := recorded 6 1 (lay / 8) phys k c (errorLoc k 0) (telUncorrectable 6 phys)
        (freezeOnce lay (recorded 6 2 (lay / 8) phys k c (errorLoc k 0) (telNetwork phys k) s)))
      (by rwa [recorded_ctxAt, hctx]) (by rwa [recorded_ctxAt, hctx]) (by rwa [recorded_ctxAt, hctx]) (by rwa [recorded_ctxAt, hctx])
      (by rwa [recorded_ctxAt, hctx]) (by rw [recorded_layerAt, recorded_cycleOf, hcycle, huncorr]; exact hworn)
    refine ⟨_, _, ?_, ?_, htrap, rfl, rfl⟩
    · change execNetworkRetry lay k c true s = _
      simp only [execNetworkRetry, if_true, if_pos hc, Nat.mod_eq_of_lt hk]
      rfl
    · rw [hmail', recorded_mail, hmail, recorded_mail, List.append_assoc]
      exact congrArg (fun n => s.mail ++ ([_] ++ [.error (errorBytes 6 1 (lay / 8) phys k c (errorLoc k 0) n)])) hcycle
  · intro s tw col h
    change execColumnRetryExcess tw col s = _
    rw [execColumnRetryExcess, if_pos h]
    rfl
  · intro s tw phys hfailed
    exact congrArg Host.Outcome.next (if_pos (by simpa using hfailed))
  · intro s tw phys n hnew hlog
    obtain ⟨hmail, hfailed, hfailing, hhost, hctxs⟩ := struckLayer_frame tw phys n s
    exact ⟨_, congrArg Host.Outcome.next (failLayer_of_logical hnew hlog), hmail, hfailed, hfailing, hhost, hctxs⟩
  · intro s tw phys hnew hlog
    exact congrArg Host.Outcome.next (failLayer_of_unused hnew hlog)
  · intro s lay
    obtain ⟨hbeats, hout⟩ := dropQueues_layer lay s
    refine ⟨fun q hq hlay => ?_, hbeats, hout, fun e he hlay => not_flag_of_mem_dropQueues he hlay⟩
    rw [dropQueues_reqs, List.mem_filter] at hq
    simpa [hlay] using hq.2
  · intro s tw n phys hn hfail hspare hworks hduty
    have htower : (8 * tw + n) / 8 = tw := by omega
    have hlayer : (8 * tw + n) % 8 = n := by omega
    have hover := layerOver_of_spare hfail (by rwa [htower]) (by rwa [htower]) (by rwa [htower])
    obtain ⟨hoff, hnone⟩ := layerOff_layer (8 * tw + n) s
    rw [htower, hlayer] at hover
    obtain ⟨hpower, hfailing, hused, hwake⟩ := useSpare_frame tw n phys (layerOff (8 * tw + n) s)
    rw [hover]
    exact ⟨hpower.trans hoff, hfailing.trans hnone, hused, hwake⟩
  · intro s tw l p hhost hspare hworks
    rw [exec_hostSpareReply hhost]
    refine congrArg Host.Outcome.next (if_neg ?_)
    rw [State.updTower_towerAt_same]
    simpa [hspare] using hworks
  · intro s tw l p hhost hgone
    rw [exec_hostSpareReply hhost]
    refine congrArg Host.Outcome.next (if_pos ?_)
    rw [State.updTower_towerAt_same]
    simpa [Option.isSome_iff_ne_none] using hgone
  · intro s tw
    refine ⟨_, rfl, rfl, ?_⟩
    rw [State.updTower_towerAt_same]

end


section
/-!
PROOF. Boot, installations, attestation and the adapter's link (R397, R472 to R478).
-/

namespace Sys2Proof.Proofs

open Sys2Proof.Machine Sys2Proof.Claims

variable {s : State}

/-! ### The configuration record -/

/-- The later of the higher version, of an earlier copy and the next. -/
def laterCopy (m x : RecordCopy) : RecordCopy := if m.record.version.toNat < x.record.version.toNat then x else m

/-- The copy taken of a list is one of it, and no other has a higher version (R476). -/
theorem foldl_laterCopy (cs : List RecordCopy) : ∀ a : RecordCopy,
    cs.foldl laterCopy a ∈ a :: cs ∧ ∀ d ∈ a :: cs, d.record.version.toNat ≤ (cs.foldl laterCopy a).record.version.toNat := by
  induction cs with
  | nil => exact fun a => ⟨List.mem_cons_self, fun d hd => by rw [List.mem_singleton.mp hd]; rfl⟩
  | cons x cs ih =>
    intro a
    obtain ⟨hmem, hmax⟩ := ih (laterCopy a x)
    have hone : laterCopy a x = a ∨ laterCopy a x = x := by
      unfold laterCopy
      split
      · exact Or.inr rfl
      · exact Or.inl rfl
    have hboth : a.record.version.toNat ≤ (laterCopy a x).record.version.toNat ∧
        x.record.version.toNat ≤ (laterCopy a x).record.version.toNat := by
      unfold laterCopy
      split <;> omega
    rw [List.foldl_cons]
    have hfirst := hmax _ List.mem_cons_self
    refine ⟨?_, fun d hd => ?_⟩
    · obtain h | h := List.mem_cons.mp hmem
      · rw [h]
        obtain h | h := hone
        · rw [h]
          exact List.mem_cons_self
        · rw [h]
          exact List.mem_cons_of_mem _ List.mem_cons_self
      · exact List.mem_cons_of_mem _ (List.mem_cons_of_mem _ h)
    · obtain rfl | hd := List.mem_cons.mp hd
      · exact hboth.1.trans hfirst
      · obtain rfl | hd := List.mem_cons.mp hd
        · exact hboth.2.trans hfirst
        · exact hmax d (List.mem_cons_of_mem _ hd)

theorem chooseCopy_frame {c : RecordCopy} (h : chooseCopy s = some c) :
    c ∈ [s.flash.copy0, s.flash.copy1].filterMap id ∧ copyOk s c = true ∧
      ∀ d ∈ [s.flash.copy0, s.flash.copy1].filterMap id, copyOk s d = true → d.record.version.toNat ≤ c.record.version.toNat := by
  unfold chooseCopy at h
  split at h
  · cases h
  next a cs hcs =>
    obtain ⟨hmem, hmax⟩ := foldl_laterCopy cs a
    obtain rfl : cs.foldl laterCopy a = c := Option.some.inj h
    rw [← hcs] at hmem hmax
    obtain ⟨hlisted, hok⟩ := List.mem_filter.mp hmem
    exact ⟨hlisted, hok, fun d hd hdok => hmax d (List.mem_filter.mpr ⟨hd, hdok⟩)⟩

/-! ### Power-on -/

/-- The package once its firmware has been verified (R473, step 1). -/
def verified (s : State) : State := { s with boot := 1, firmware := Config.sha384 s.flash.firmware }

theorem execPowerOnReset_of_unsigned {p : Option Flash} {tr : Bool}
    (h : (powerOn (p.getD s.flash) s).signed (powerOn (p.getD s.flash) s).flash.firmware (powerOn (p.getD s.flash) s).flash.fwSigs = false) :
    exec (.powerOnReset p tr) s = .next (alarm 1 (powerOn (p.getD s.flash) s)) :=
  if_pos (by rw [h]; rfl)

theorem execPowerOnReset_of_signed {p : Option Flash} {tr : Bool}
    (h : (powerOn (p.getD s.flash) s).signed (powerOn (p.getD s.flash) s).flash.firmware (powerOn (p.getD s.flash) s).flash.fwSigs = true) :
    exec (.powerOnReset p tr) s = (match chooseCopy (powerOn (p.getD s.flash) s) with
      | none => .next (alarm 2 (verified (powerOn (p.getD s.flash) s)))
      | some c => .next (if tr then { applyRecord c (verified (powerOn (p.getD s.flash) s)) with boot := 3, linkUp := true }
        else alarm 3 (applyRecord c (verified (powerOn (p.getD s.flash) s))))) :=
  if_neg (by rw [h]; exact Bool.false_ne_true)

theorem powerOn_rollback (flash : Flash) (s : State) : (s.config = none → (powerOn flash s).rollback = s.rollback) ∧
    ∀ c, s.config = some c → (powerOn flash s).rollback = Nat.max s.rollback c.version.toNat := by
  refine ⟨fun h => ?_, fun c h => ?_⟩
  · simp only [powerOn, h]
  · simp only [powerOn, h]

/-! ### Installations -/

theorem exec_kcapInstall_of_seed {k : SealedKey} {seed : BitVec 256} (hboot : s.boot = 3) (hseed : s.seed = some seed) :
    exec (.kcapInstall k) s = .next (if k.tag = Config.kcapTag seed k.body then
      { s with boot := 4, kcap := some (k.body ^^^ Config.kcapMask seed) } else alarm 4 s) := by
  change execKcapInstall k s = _
  unfold execKcapInstall
  rw [hseed]
  exact if_pos hboot

theorem allOff_iff {tw : Nat} : allOff s tw = true ↔ ∀ n, n < 8 → (s.layerAt (8 * tw + n)).power = .off := by
  simp only [allOff, upto, List.all_eq_true, List.mem_range, beq_iff_eq]

/-! ### Attestation -/

theorem length_sigField (n : Nat) (b : List Byte) : (sigField n b).length = n := by
  simp only [sigField, List.length_take, List.length_append, List.length_replicate]
  omega

theorem length_identitySign_le (s : State) (b : List Byte) : (identitySign s b).length ≤ 3373 := by
  unfold identitySign
  split
  · simp only [List.length_append, length_sigField]
    omega
  · exact Nat.zero_le _

theorem length_reportBody (s : State) (n : BitVec 256) : (reportBody s n).length = 232 := by
  simp only [reportBody, List.length_append, length_leBytes]

/-! ### The adapter's link -/

theorem drainStatus_linkUp (h0 : (s.towerAt 0).statusQ = []) (h1 : (s.towerAt 1).statusQ = []) :
    (drainStatus s).linkUp = s.linkUp := by
  unfold drainStatus
  refine iteInduction (motive := fun t : State => t.linkUp = s.linkUp) (fun _ => rfl) fun _ => ?_
  rw [heldStatus_of_none h0 h1, List.take_nil]
  rfl

end Sys2Proof.Proofs

open Sys2Proof Sys2Proof.Machine Sys2Proof.Claims Sys2Proof.Proofs

/-- Settles O43, boot step by boot step. -/
theorem bootEvents : Obligations.BootEvents := by
  refine ⟨?_, ?_, ?_, ?_, ?_, ?_, ?_, ?_, ?_, ?_, ?_, ?_⟩
  · intro s p tr u
    obtain ⟨hkept, hraised⟩ := powerOn_rollback (p.getD s.flash) s
    refine ⟨rfl, rfl, rfl, rfl, rfl, rfl, rfl, rfl, rfl, hkept, hraised, execPowerOnReset_of_unsigned, fun hsigned => ?_⟩
    have hexec := execPowerOnReset_of_signed (tr := tr) hsigned
    refine ⟨fun hnone => ?_, fun c hc => ?_⟩
    · rw [hnone] at hexec
      exact ⟨_, hexec, rfl, rfl, rfl, rfl, rfl⟩
    · rw [hc] at hexec
      cases tr
      · exact ⟨_, hexec, rfl, rfl, rfl, rfl, rfl, rfl, rfl, rfl, rfl, rfl, rfl⟩
      · exact ⟨_, hexec, rfl, rfl, rfl, rfl, rfl, rfl, rfl, rfl, rfl, rfl, rfl⟩
  · exact fun s c => chooseCopy_frame
  · intro s k seed hboot hseed htag
    rw [exec_kcapInstall_of_seed hboot hseed, if_pos htag]
  · intro s k seed hboot hseed htag
    rw [exec_kcapInstall_of_seed hboot hseed, if_neg htag]
    rfl
  · intro s k hnot
    change execKcapInstall k s = _
    unfold execKcapInstall
    obtain hboot | hseed := hnot
    · split
      · exact if_neg hboot
      · rfl
    · rw [hseed]
  · intro s tw b hboot hok
    exact (if_pos hboot).trans (if_pos hok)
  · intro s tw b hboot hbad
    exact (if_pos hboot).trans (if_neg (by rw [hbad]; exact Bool.false_ne_true))
  · intro s tw b hboot hok hoff
    exact (if_neg (by omega)).trans (if_pos ⟨hboot, allOff_iff.mpr hoff, hok⟩)
  · intro s tw b hboot hnot
    refine (if_neg (by omega)).trans (if_neg fun ⟨_, hoff, hok⟩ => ?_)
    obtain hbad | ⟨n, hn, hon⟩ := hnot
    · rw [hbad] at hok
      cases hok
    · exact hon (allOff_iff.mp hoff n hn)
  · intro s n
    refine ⟨_, _, rfl, rfl, ?_, ?_⟩
    · have hsign := length_identitySign_le s (reportBody s n)
      simp only [List.length_append, List.length_replicate, length_reportBody]
      omega
    · rw [List.append_assoc]
      exact List.prefix_append ..
  · exact fun s => rfl
  · intro s h0 h1
    have hlink := drainStatus_linkUp (s := { s with linkUp := decide (3 ≤ s.boot) }) h0 h1
    obtain ⟨es, hstatus, hnone⟩ := drainStatus_status { s with linkUp := decide (3 ≤ s.boot) }
    refine ⟨_, rfl, ?_, ?_⟩
    · rw [hlink, decide_eq_true_iff]
    · rw [hstatus, hnone (.inr ⟨h0, h1⟩), List.append_nil]

end
